-- ==== Sys2Proof/Word.lean ====
section
/-! DEFINITION. The word types of the Denkinum 960 and the names of its parts (R7, R20, R22, R32).

Only the plainest types stand here: everything that computes stands in Decode.lean or under Machine/. -/

namespace Sys2Proof

/-- A byte of memory (R22). -/
abbrev Byte := BitVec 8
/-- An instruction word, or a vector lane's element (R22, R193). -/
abbrev W32 := BitVec 32
/-- A scalar register (R52). -/
abbrev W64 := BitVec 64

/-- A quantity held under natural keys: sorted by key, no key twice, no entry equal to the value that
an unlisted key reads as. Register files, tiles, scratchpads and memory are all held so. -/
abbrev SMap (α : Type) := List (Nat × α)

/-- The two PC slots of a group (R332). -/
inductive SlotId where
  | a
  | b
  deriving DecidableEq, Repr, Inhabited

/-- Who executes an instruction: a group, by launch identifier, flat block index and idx1 (R322), or
the on-core trap handler in the reserved slot of a quadrant (R374). -/
inductive GId where
  | grp (launch block idx : Nat)
  | hdl (die core quad : Nat)
  deriving DecidableEq, Repr, Inhabited

/-- The kinds of access that a translation is asked for (R50). -/
inductive Kind where
  | read
  | write
  | rmw
  | fetch
  deriving DecidableEq, Repr, Inhabited

/-- The page sizes: 64 KiB, 2 MiB, 64 MiB (R63, R80). -/
inductive PSize where
  | k64
  | m2
  | m64
  deriving DecidableEq, Repr, Inhabited

/-- The operations of ATOM and RED in the order of their codes (R37, R300). -/
inductive AOp where
  | add | and | or | xor | min | max | minn | maxn | xchg | inc | dec | fadd
  deriving DecidableEq, Repr, Inhabited

/-- The conditions of WAITC in the order of their codes (R306). -/
inductive WCond where
  | eq | ne | lt | ge | ltn | gen | any
  deriving DecidableEq, Repr, Inhabited

/-- The unit that receives a transfer of the fabric (R155, R156): a core's L1 miss unit for a group, its tile fetch unit for a
matrix instruction, a copy channel for a copy (each by its arrival number), or another slice. -/
inductive Taker where
  | l1 (g : GId)
  | tile (seq : Nat)
  | copy (seq : Nat)
  | slice (n : Nat)
  deriving DecidableEq, Repr, Inhabited

/-- Who writes or reads a register block (R389): the host function assigned to the partition, the Chandler, or anyone
else. -/
inductive Party where
  | host | chandler | other
  deriving DecidableEq, Repr, Inhabited

/-- An access to a register of a partition's block: who makes it, its width in bytes, and the partition (R389). -/
structure RegAcc where
  who : Party
  width : Nat
  part : Nat
  deriving DecidableEq, Repr, Inhabited

/-- A request for the line of an address at its home slice: the unit that asks, and the address (R150, R155). -/
structure FillReq where
  taker : Taker
  pa : Nat
  deriving DecidableEq, Repr, Inhabited

/-- A stage-2 record of a trap-queue record: the record's number, and which of those that are left (R100). -/
structure S2Name where
  rid : Nat
  k : Nat
  deriving DecidableEq, Repr, Inhabited

/-- An abort completion for a group; `sram` says that its own core's SRAM, registers, tiles or stack cache had the error
(R383, R387). -/
structure AbortOf where
  g : GId
  sram : Bool
  deriving DecidableEq, Repr, Inhabited

/-- The failure of a peer link: whose access ends, the port, and whether the port is down from now on (R387, R392). -/
structure LinkFailure where
  g : GId
  port : Nat
  down : Bool
  deriving DecidableEq, Repr, Inhabited

/-- What a peer module's access asks of this module's home slice (R304, R392). -/
inductive PeerOp where
  | load
  | store
  | atom (op : AOp)
  | red (op : AOp)
  | cas
  deriving DecidableEq, Repr, Inhabited

end Sys2Proof
end

