-- ==== Sys2Proof/Syntax.lean ====
section
/-! DEFINITION. The instruction set: one constructor for each row of spec/opcode_table.json (R37; file 95).

An instruction word carries z, the run-boundary bit B (R23), and then its raw fields as the table names
them: d, a, b registers, i immediate, n amount or number, l lookahead, x translation register, w width,
h hint, p peer, g alphabet register, t, r, k, v of format T, c conversion, o mode. A field keeps every value
its bits can hold; which of them an instruction admits is WellFormed's business.
The constructors after ckpt are the events of the module, whose operands are the choices of the outside
world (the host, the Chandler, peers) or name the unit that acts. -/

namespace Sys2Proof

/-- The steps of the module: its instruction words and its events, whole and indivisible (file 95). -/
inductive Instr where
  /-- ADD (R67). Writes s(a) + s(b) to scalar d. -/
  | add (z : Bool) (d : BitVec 7) (a : BitVec 7) (b : BitVec 7)
  /-- SUB (R67). Writes s(a) − s(b) to scalar d. -/
  | sub (z : Bool) (d : BitVec 7) (a : BitVec 7) (b : BitVec 7)
  /-- AND (R67). Writes the bitwise AND of two scalars to d. -/
  | and (z : Bool) (d : BitVec 7) (a : BitVec 7) (b : BitVec 7)
  /-- OR (R67). Writes the bitwise OR of two scalars to d. -/
  | or (z : Bool) (d : BitVec 7) (a : BitVec 7) (b : BitVec 7)
  /-- XOR (R67). Writes the bitwise XOR of two scalars to d. -/
  | xor (z : Bool) (d : BitVec 7) (a : BitVec 7) (b : BitVec 7)
  /-- SHL (R67). Shifts s(a) left by s(b)[5:0], shifting in zeros. -/
  | shl (z : Bool) (d : BitVec 7) (a : BitVec 7) (b : BitVec 7)
  /-- SHR (R67). Shifts s(a) right logically by s(b)[5:0]. -/
  | shr (z : Bool) (d : BitVec 7) (a : BitVec 7) (b : BitVec 7)
  /-- SRA (R67). Shifts s(a) right arithmetically by s(b)[5:0]. -/
  | sra (z : Bool) (d : BitVec 7) (a : BitVec 7) (b : BitVec 7)
  /-- MUL (R67). Writes the low 64 bits of the product of two scalars. -/
  | mul (z : Bool) (d : BitVec 7) (a : BitVec 7) (b : BitVec 7)
  /-- MULH (R67). Writes the high 64 bits of the signed product. -/
  | mulh (z : Bool) (d : BitVec 7) (a : BitVec 7) (b : BitVec 7)
  /-- MULHN (R67). Writes the high 64 bits of the natural product. -/
  | mulhn (z : Bool) (d : BitVec 7) (a : BitVec 7) (b : BitVec 7)
  /-- MIN (R67). Writes the signed minimum of two scalars. -/
  | min (z : Bool) (d : BitVec 7) (a : BitVec 7) (b : BitVec 7)
  /-- MAX (R67). Writes the signed maximum of two scalars. -/
  | max (z : Bool) (d : BitVec 7) (a : BitVec 7) (b : BitVec 7)
  /-- MINN (R67). Writes the natural minimum of two scalars. -/
  | minn (z : Bool) (d : BitVec 7) (a : BitVec 7) (b : BitVec 7)
  /-- MAXN (R67). Writes the natural maximum of two scalars. -/
  | maxn (z : Bool) (d : BitVec 7) (a : BitVec 7) (b : BitVec 7)
  /-- ANDN (R67). Writes s(a) AND NOT s(b). -/
  | andn (z : Bool) (d : BitVec 7) (a : BitVec 7) (b : BitVec 7)
  /-- SLT (R68). Writes 1 if s(a) < s(b) as signed values, else 0. -/
  | slt (z : Bool) (d : BitVec 7) (a : BitVec 7) (b : BitVec 7)
  /-- SLTN (R68). Writes 1 if s(a) < s(b) as natural values, else 0. -/
  | sltn (z : Bool) (d : BitVec 7) (a : BitVec 7) (b : BitVec 7)
  /-- SEQ (R68). Writes 1 if two scalars are equal, else 0. -/
  | seq (z : Bool) (d : BitVec 7) (a : BitVec 7) (b : BitVec 7)
  /-- CLZ (R68). Writes the count of leading zero bits of s(a). -/
  | clz (z : Bool) (d : BitVec 7) (a : BitVec 7)
  /-- POPC (R68). Writes the count of one bits of s(a). -/
  | popc (z : Bool) (d : BitVec 7) (a : BitVec 7)
  /-- BREV (R68). Writes s(a) with its bit order reversed. -/
  | brev (z : Bool) (d : BitVec 7) (a : BitVec 7)
  /-- ROTL (R68). Rotates s(a) left by s(b)[5:0]. -/
  | rotl (z : Bool) (d : BitVec 7) (a : BitVec 7) (b : BitVec 7)
  /-- BFX (R69). Extracts a bit field of s(a) into d. -/
  | bfx (z : Bool) (d : BitVec 7) (a : BitVec 7) (b : BitVec 7)
  /-- BFI (R69). Inserts a bit field from s(a) into s(d). -/
  | bfi (z : Bool) (d : BitVec 7) (a : BitVec 7) (b : BitVec 7)
  /-- DIV (R70). Writes the signed quotient rounded towards zero, without faulting. -/
  | div (z : Bool) (d : BitVec 7) (a : BitVec 7) (b : BitVec 7)
  /-- DIVN (R70). Writes the natural quotient, without faulting. -/
  | divn (z : Bool) (d : BitVec 7) (a : BitVec 7) (b : BitVec 7)
  /-- REM (R70). Writes the signed remainder with the sign of the dividend. -/
  | rem (z : Bool) (d : BitVec 7) (a : BitVec 7) (b : BitVec 7)
  /-- REMN (R70). Writes the natural remainder. -/
  | remn (z : Bool) (d : BitVec 7) (a : BitVec 7) (b : BitVec 7)
  /-- CSEL (R68). Writes s(a) if s(d) is nonzero, else s(b). -/
  | csel (z : Bool) (d : BitVec 7) (a : BitVec 7) (b : BitVec 7)
  /-- ADDW (R68). Writes the 32-bit sum of two scalars, sign-extended. -/
  | addw (z : Bool) (d : BitVec 7) (a : BitVec 7) (b : BitVec 7)
  /-- ADDI (R71). Adds a sign-extended imm11 to s(a). -/
  | addi (z : Bool) (d : BitVec 7) (a : BitVec 7) (i : BitVec 11)
  /-- ANDI (R71). ANDs s(a) with a sign-extended imm11. -/
  | andi (z : Bool) (d : BitVec 7) (a : BitVec 7) (i : BitVec 11)
  /-- ORI (R71). ORs s(a) with a sign-extended imm11. -/
  | ori (z : Bool) (d : BitVec 7) (a : BitVec 7) (i : BitVec 11)
  /-- XORI (R71). XORs s(a) with a sign-extended imm11. -/
  | xori (z : Bool) (d : BitVec 7) (a : BitVec 7) (i : BitVec 11)
  /-- SHLI (R72). Shifts s(a) left by an immediate amount. -/
  | shli (z : Bool) (d : BitVec 7) (a : BitVec 7) (n : BitVec 6)
  /-- SHRI (R72). Shifts s(a) right logically by an immediate amount. -/
  | shri (z : Bool) (d : BitVec 7) (a : BitVec 7) (n : BitVec 6)
  /-- SRAI (R72). Shifts s(a) right arithmetically by an immediate amount. -/
  | srai (z : Bool) (d : BitVec 7) (a : BitVec 7) (n : BitVec 6)
  /-- ROTLI (R72). Rotates s(a) left by an immediate amount. -/
  | rotli (z : Bool) (d : BitVec 7) (a : BitVec 7) (n : BitVec 6)
  /-- SLTI (R71). Writes 1 if s(a) is below the signed immediate, else 0. -/
  | slti (z : Bool) (d : BitVec 7) (a : BitVec 7) (i : BitVec 11)
  /-- LI (R73). Writes the sign-extended imm18 to d. -/
  | li (z : Bool) (d : BitVec 7) (i : BitVec 18)
  /-- LIS (R73). Shifts s(d) left by 18 bits and adds the natural imm18. -/
  | lis (z : Bool) (d : BitVec 7) (i : BitVec 18)
  /-- GETS (R74). Reads the special register named by the selector into d. -/
  | gets (z : Bool) (d : BitVec 7) (i : BitVec 11)
  /-- SETS (R74). Writes s(a) to the special register named by the selector, under that register's write rule. -/
  | sets (z : Bool) (a : BitVec 7) (i : BitVec 11)
  /-- XLT (R87). SETS of xltn: translates a virtual base and loads translation register n, suspending fetch until the walk completes. -/
  | xlt (z : Bool) (a : BitVec 7) (n : BitVec 3)
  /-- SETS_XSP (R66). SETS of xspn: puts translation register n into scratchpad form at a scratchpad offset. -/
  | setsXsp (z : Bool) (a : BitVec 7) (n : BitVec 3)
  /-- WIN (R76). Sets the window base to s(a) + imm11, or raises LIMIT. -/
  | win (z : Bool) (a : BitVec 7) (i : BitVec 11)
  /-- BRU_EQZ (R337). Branches the issuing slot when s(a) is zero. -/
  | bruEqz (z : Bool) (a : BitVec 7) (i : BitVec 14)
  /-- BRU_NEZ (R337). Branches the issuing slot when s(a) is not zero. -/
  | bruNez (z : Bool) (a : BitVec 7) (i : BitVec 14)
  /-- BRU_LTZ (R337). Branches when s(a) is below zero. -/
  | bruLtz (z : Bool) (a : BitVec 7) (i : BitVec 14)
  /-- BRU_GEZ (R337). Branches when s(a) is zero or above. -/
  | bruGez (z : Bool) (a : BitVec 7) (i : BitVec 14)
  /-- BRU_GTZ (R337). Branches when s(a) is above zero. -/
  | bruGtz (z : Bool) (a : BitVec 7) (i : BitVec 14)
  /-- BRU_LEZ (R337). Branches when s(a) is zero or below. -/
  | bruLez (z : Bool) (a : BitVec 7) (i : BitVec 14)
  /-- BRU_ALW (R337). Branches unconditionally. -/
  | bruAlw (z : Bool) (i : BitVec 14)
  /-- BRD_SET (R333). Diverts the active lanes whose mask bit is set, splitting the group across its PC slots when needed. -/
  | brdSet (z : Bool) (a : BitVec 3) (i : BitVec 14)
  /-- BRD_CLR (R333). Diverts the active lanes whose mask bit is clear, splitting the group across its PC slots when needed. -/
  | brdClr (z : Bool) (a : BitVec 3) (i : BitVec 14)
  /-- JMP (R338). Continues the issuing slot at PC + 4 × imm21. -/
  | jmp (z : Bool) (i : BitVec 21)
  /-- CALL (R336). Pushes a return entry, and the other slot if it is occupied, then jumps. -/
  | call (z : Bool) (i : BitVec 21)
  /-- NOP (R339). Does nothing. -/
  | nop (z : Bool)
  /-- RET (R336). Pops a return entry and continues at its pc, pushing the other slot if it is occupied. -/
  | ret (z : Bool)
  /-- JR (R339). Continues at the address held in s(a). -/
  | jr (z : Bool) (a : BitVec 7)
  /-- CALLR (R336). Calls the address held in s(a). -/
  | callr (z : Bool) (a : BitVec 7)
  /-- JOIN (R334). Parks the issuing slot and reunites, pops or continues according to the other slot. -/
  | join (z : Bool)
  /-- EXIT (R335). Ends the lanes of the issuing slot and retires the group when nothing remains. -/
  | exit (z : Bool)
  /-- YIELD (R339). Ends the current run. -/
  | yield (z : Bool)
  /-- BRK (R339). Raises BRK at itself, sending the group to the on-core trap handler. -/
  | brk (z : Bool)
  /-- TRAP (R382). Waits for earlier accesses, posts a system-call entry and parks the group until the reply arrives. -/
  | trap (z : Bool) (d : BitVec 7) (a : BitVec 7) (i : BitVec 11)
  /-- VADD (R240). Adds two vectors lane by lane. -/
  | vadd (z : Bool) (d : BitVec 7) (a : BitVec 7) (b : BitVec 7)
  /-- VSUB (R240). Subtracts two vectors lane by lane. -/
  | vsub (z : Bool) (d : BitVec 7) (a : BitVec 7) (b : BitVec 7)
  /-- VMUL (R240). Writes the low 32 bits of each lane's product. -/
  | vmul (z : Bool) (d : BitVec 7) (a : BitVec 7) (b : BitVec 7)
  /-- VMULH (R240). Writes the high half of each lane's signed product. -/
  | vmulh (z : Bool) (d : BitVec 7) (a : BitVec 7) (b : BitVec 7)
  /-- VMULHN (R240). Writes the high half of each lane's natural product. -/
  | vmulhn (z : Bool) (d : BitVec 7) (a : BitVec 7) (b : BitVec 7)
  /-- VMAD (R240). Adds each lane's product to V(d). -/
  | vmad (z : Bool) (d : BitVec 7) (a : BitVec 7) (b : BitVec 7)
  /-- VMIN (R240). Writes the signed minimum of each lane. -/
  | vmin (z : Bool) (d : BitVec 7) (a : BitVec 7) (b : BitVec 7)
  /-- VMAX (R240). Writes the signed maximum of each lane. -/
  | vmax (z : Bool) (d : BitVec 7) (a : BitVec 7) (b : BitVec 7)
  /-- VMINN (R240). Writes the natural minimum of each lane. -/
  | vminn (z : Bool) (d : BitVec 7) (a : BitVec 7) (b : BitVec 7)
  /-- VMAXN (R240). Writes the natural maximum of each lane. -/
  | vmaxn (z : Bool) (d : BitVec 7) (a : BitVec 7) (b : BitVec 7)
  /-- VABS (R240). Writes each lane's absolute value. -/
  | vabs (z : Bool) (d : BitVec 7) (a : BitVec 7)
  /-- VNEG (R240). Writes each lane's negation. -/
  | vneg (z : Bool) (d : BitVec 7) (a : BitVec 7)
  /-- VAND (R240). ANDs two vectors lane by lane. -/
  | vand (z : Bool) (d : BitVec 7) (a : BitVec 7) (b : BitVec 7)
  /-- VOR (R240). ORs two vectors lane by lane. -/
  | vor (z : Bool) (d : BitVec 7) (a : BitVec 7) (b : BitVec 7)
  /-- VXOR (R240). XORs two vectors lane by lane. -/
  | vxor (z : Bool) (d : BitVec 7) (a : BitVec 7) (b : BitVec 7)
  /-- VANDN (R240). Writes a AND NOT b lane by lane. -/
  | vandn (z : Bool) (d : BitVec 7) (a : BitVec 7) (b : BitVec 7)
  /-- VSHL (R240). Shifts each lane left. -/
  | vshl (z : Bool) (d : BitVec 7) (a : BitVec 7) (b : BitVec 7)
  /-- VSHR (R240). Shifts each lane right logically. -/
  | vshr (z : Bool) (d : BitVec 7) (a : BitVec 7) (b : BitVec 7)
  /-- VSRA (R240). Shifts each lane right arithmetically. -/
  | vsra (z : Bool) (d : BitVec 7) (a : BitVec 7) (b : BitVec 7)
  /-- VROTL (R240). Rotates each lane left. -/
  | vrotl (z : Bool) (d : BitVec 7) (a : BitVec 7) (b : BitVec 7)
  /-- VCLZ (R240). Writes each lane's leading zero count. -/
  | vclz (z : Bool) (d : BitVec 7) (a : BitVec 7)
  /-- VPOPC (R240). Writes each lane's count of one bits. -/
  | vpopc (z : Bool) (d : BitVec 7) (a : BitVec 7)
  /-- VBREV (R240). Reverses the bits of each lane. -/
  | vbrev (z : Bool) (d : BitVec 7) (a : BitVec 7)
  /-- VBFX (R241). Extracts a bit field from each lane. -/
  | vbfx (z : Bool) (d : BitVec 7) (a : BitVec 7) (b : BitVec 7)
  /-- VBFI (R241). Inserts a bit field into each lane of d. -/
  | vbfi (z : Bool) (d : BitVec 7) (a : BitVec 7) (b : BitVec 7)
  /-- VADDS (R240). Adds lanes with signed saturation. -/
  | vadds (z : Bool) (d : BitVec 7) (a : BitVec 7) (b : BitVec 7)
  /-- VSUBS (R240). Subtracts lanes with signed saturation. -/
  | vsubs (z : Bool) (d : BitVec 7) (a : BitVec 7) (b : BitVec 7)
  /-- VADDSN (R240). Adds lanes with natural saturation. -/
  | vaddsn (z : Bool) (d : BitVec 7) (a : BitVec 7) (b : BitVec 7)
  /-- VSUBSN (R240). Subtracts lanes with natural saturation at zero. -/
  | vsubsn (z : Bool) (d : BitVec 7) (a : BitVec 7) (b : BitVec 7)
  /-- VSEL (R240). Selects V(a) where the mask is set, else keeps V(d). -/
  | vsel (z : Bool) (d : BitVec 7) (a : BitVec 7) (m : BitVec 3)
  /-- VSPLAT (R240). Writes the low 32 bits of a scalar to every active lane. -/
  | vsplat (z : Bool) (d : BitVec 7) (a : BitVec 7)
  /-- VLANE (R240). Writes each lane's logical index. -/
  | vlane (z : Bool) (d : BitVec 7)
  /-- VADDI (R242). Adds a sign-extended immediate to each lane. -/
  | vaddi (z : Bool) (d : BitVec 7) (a : BitVec 7) (i : BitVec 11)
  /-- VSHLI (R242). Shifts each lane left by an immediate amount. -/
  | vshli (z : Bool) (d : BitVec 7) (a : BitVec 7) (n : BitVec 5)
  /-- VSHRI (R242). Shifts each lane right logically by an immediate amount. -/
  | vshri (z : Bool) (d : BitVec 7) (a : BitVec 7) (n : BitVec 5)
  /-- VSRAI (R242). Shifts each lane right arithmetically by an immediate amount. -/
  | vsrai (z : Bool) (d : BitVec 7) (a : BitVec 7) (n : BitVec 5)
  /-- VROTLI (R242). Rotates each lane left by an immediate amount. -/
  | vrotli (z : Bool) (d : BitVec 7) (a : BitVec 7) (n : BitVec 5)
  /-- CEQ (R243). Sets mask bits where the lanes are equal as integers. -/
  | ceq (z : Bool) (d : BitVec 3) (a : BitVec 7) (b : BitVec 7)
  /-- CNE (R243). Sets mask bits where the lanes differ. -/
  | cne (z : Bool) (d : BitVec 3) (a : BitVec 7) (b : BitVec 7)
  /-- CLT (R243). Sets mask bits where a < b, signed. -/
  | clt (z : Bool) (d : BitVec 3) (a : BitVec 7) (b : BitVec 7)
  /-- CLE (R243). Sets mask bits where a ≤ b, signed. -/
  | cle (z : Bool) (d : BitVec 3) (a : BitVec 7) (b : BitVec 7)
  /-- CLTN (R243). Sets mask bits where a < b, natural. -/
  | cltn (z : Bool) (d : BitVec 3) (a : BitVec 7) (b : BitVec 7)
  /-- CLEN (R243). Sets mask bits where a ≤ b, natural. -/
  | clen (z : Bool) (d : BitVec 3) (a : BitVec 7) (b : BitVec 7)
  /-- FEQ (R243). Sets mask bits where the FP32 lanes are IEEE equal. -/
  | feq (z : Bool) (d : BitVec 3) (a : BitVec 7) (b : BitVec 7)
  /-- FLT (R243). Sets mask bits where a is IEEE less than b. -/
  | flt (z : Bool) (d : BitVec 3) (a : BitVec 7) (b : BitVec 7)
  /-- FLE (R243). Sets mask bits where a is IEEE less than or equal to b. -/
  | fle (z : Bool) (d : BitVec 3) (a : BitVec 7) (b : BitVec 7)
  /-- FUN (R243). Sets mask bits where either lane is NaN. -/
  | fun (z : Bool) (d : BitVec 3) (a : BitVec 7) (b : BitVec 7)
  /-- TLT (R231). Sets mask bits where a < b in totalOrder. -/
  | tlt (z : Bool) (d : BitVec 3) (a : BitVec 7) (b : BitVec 7)
  /-- TLE (R231). Sets mask bits where a ≤ b in totalOrder. -/
  | tle (z : Bool) (d : BitVec 3) (a : BitVec 7) (b : BitVec 7)
  /-- TEQ (R231). Sets mask bits where the lanes' bits are equal. -/
  | teq (z : Bool) (d : BitVec 3) (a : BitVec 7) (b : BitVec 7)
  /-- MAND (R244). ANDs two whole masks. -/
  | mand (z : Bool) (d : BitVec 3) (a : BitVec 3) (b : BitVec 3)
  /-- MOR (R244). ORs two whole masks. -/
  | mor (z : Bool) (d : BitVec 3) (a : BitVec 3) (b : BitVec 3)
  /-- MXOR (R244). XORs two whole masks. -/
  | mxor (z : Bool) (d : BitVec 3) (a : BitVec 3) (b : BitVec 3)
  /-- MANDN (R244). Writes M(a) AND NOT M(b). -/
  | mandn (z : Bool) (d : BitVec 3) (a : BitVec 3) (b : BitVec 3)
  /-- MNOT (R244). Inverts a whole mask. -/
  | mnot (z : Bool) (d : BitVec 3) (a : BitVec 3)
  /-- MMOV (R244). Copies a whole mask. -/
  | mmov (z : Bool) (d : BitVec 3) (a : BitVec 3)
  /-- MPOP (R244). Writes the count of set bits of a mask to a scalar. -/
  | mpop (z : Bool) (d : BitVec 7) (a : BitVec 3)
  /-- MFIRST (R244). Writes the lowest set lane of a mask, or 64, to a scalar. -/
  | mfirst (z : Bool) (d : BitVec 7) (a : BitVec 3)
  /-- MTOS (R244). Writes a mask as a 64-bit scalar. -/
  | mtos (z : Bool) (d : BitVec 7) (a : BitVec 3)
  /-- STOM (R244). Writes a scalar into a mask. -/
  | stom (z : Bool) (d : BitVec 3) (a : BitVec 7)
  /-- MSET (R244). Writes a mask of the active lanes. -/
  | mset (z : Bool) (d : BitVec 3)
  /-- FADD (R245). Adds FP32 lanes with RNE. -/
  | fadd (z : Bool) (d : BitVec 7) (a : BitVec 7) (b : BitVec 7)
  /-- FSUB (R245). Subtracts FP32 lanes with RNE. -/
  | fsub (z : Bool) (d : BitVec 7) (a : BitVec 7) (b : BitVec 7)
  /-- FMUL (R245). Multiplies FP32 lanes with RNE. -/
  | fmul (z : Bool) (d : BitVec 7) (a : BitVec 7) (b : BitVec 7)
  /-- FMA (R245). Computes a × b + c with one rounding. -/
  | fma (z : Bool) (d : BitVec 7) (a : BitVec 7) (b : BitVec 7)
  /-- FMS (R245). Computes a × b − c with one rounding. -/
  | fms (z : Bool) (d : BitVec 7) (a : BitVec 7) (b : BitVec 7)
  /-- FNMA (R245). Computes c − a × b with one rounding. -/
  | fnma (z : Bool) (d : BitVec 7) (a : BitVec 7) (b : BitVec 7)
  /-- FMIN (R245). Writes the smaller lane in the min-max order. -/
  | fmin (z : Bool) (d : BitVec 7) (a : BitVec 7) (b : BitVec 7)
  /-- FMAX (R245). Writes the larger lane in the min-max order. -/
  | fmax (z : Bool) (d : BitVec 7) (a : BitVec 7) (b : BitVec 7)
  /-- FMINI (R246). Writes the minimum, ignoring a single NaN. -/
  | fmini (z : Bool) (d : BitVec 7) (a : BitVec 7) (b : BitVec 7)
  /-- FMAXI (R246). Writes the maximum, ignoring a single NaN. -/
  | fmaxi (z : Bool) (d : BitVec 7) (a : BitVec 7) (b : BitVec 7)
  /-- FABS (R245). Clears the sign bit of each lane. -/
  | fabs (z : Bool) (d : BitVec 7) (a : BitVec 7)
  /-- FNEG (R245). Inverts the sign bit of each lane. -/
  | fneg (z : Bool) (d : BitVec 7) (a : BitVec 7)
  /-- FCPS (R245). Copies the sign of b onto a. -/
  | fcps (z : Bool) (d : BitVec 7) (a : BitVec 7) (b : BitVec 7)
  /-- FRINT (R245). Rounds each lane to an integral FP32 value, ties to even. -/
  | frint (z : Bool) (d : BitVec 7) (a : BitVec 7)
  /-- FSCL (R245). Scales each lane by 2^n. -/
  | fscl (z : Bool) (d : BitVec 7) (a : BitVec 7) (b : BitVec 7)
  /-- FCLASS (R247). Writes each lane's class mask. -/
  | fclass (z : Bool) (d : BitVec 7) (a : BitVec 7)
  /-- FCVT (R248). Converts each active lane under the conversion code and rounding mode. -/
  | fcvt (z : Bool) (r : BitVec 4) (d : BitVec 7) (a : BitVec 7) (c : BitVec 7)
  /-- FDIV (R249). Divides FP32 lanes, correctly rounded, with lookahead. -/
  | fdiv (z : Bool) (l : BitVec 4) (d : BitVec 7) (a : BitVec 7) (b : BitVec 7)
  /-- VTR_SQRT (R251). Writes the correctly rounded square root of each lane. -/
  | vtrSqrt (z : Bool) (l : BitVec 4) (d : BitVec 7) (a : BitVec 7)
  /-- VTR_RCP (R251). Writes the correctly rounded reciprocal of each lane. -/
  | vtrRcp (z : Bool) (l : BitVec 4) (d : BitVec 7) (a : BitVec 7)
  /-- VTR_RSQ (R251). Writes the correctly rounded reciprocal square root. -/
  | vtrRsq (z : Bool) (l : BitVec 4) (d : BitVec 7) (a : BitVec 7)
  /-- VTR_EXP2 (R251). Writes 2^x as a fixed function. -/
  | vtrExp2 (z : Bool) (l : BitVec 4) (d : BitVec 7) (a : BitVec 7)
  /-- VTR_LOG2 (R251). Writes log2 x as a fixed function. -/
  | vtrLog2 (z : Bool) (l : BitVec 4) (d : BitVec 7) (a : BitVec 7)
  /-- VTR_EXP (R251). Writes e^x as a fixed function. -/
  | vtrExp (z : Bool) (l : BitVec 4) (d : BitVec 7) (a : BitVec 7)
  /-- VTR_TANH (R251). Writes tanh x as a fixed function. -/
  | vtrTanh (z : Bool) (l : BitVec 4) (d : BitVec 7) (a : BitVec 7)
  /-- VTR_SIN (R251). Writes sin x as a fixed function. -/
  | vtrSin (z : Bool) (l : BitVec 4) (d : BitVec 7) (a : BitVec 7)
  /-- VTR_COS (R251). Writes cos x as a fixed function. -/
  | vtrCos (z : Bool) (l : BitVec 4) (d : BitVec 7) (a : BitVec 7)
  /-- LD (R174). Loads an element per active lane through a translation register. -/
  | ld (z : Bool) (l : BitVec 4) (d : BitVec 7) (a : BitVec 7) (x : BitVec 3) (w : BitVec 2) (h : BitVec 2)
  /-- ST (R174). Stores an element per active lane through a translation register. -/
  | st (z : Bool) (l : BitVec 4) (d : BitVec 7) (a : BitVec 7) (x : BitVec 3) (w : BitVec 2) (h : BitVec 2)
  /-- LDS (R174). Loads one scalar element for the group. -/
  | lds (z : Bool) (l : BitVec 4) (d : BitVec 7) (a : BitVec 7) (x : BitVec 3) (w : BitVec 2) (h : BitVec 2)
  /-- STS (R174). Stores one scalar element for the group. -/
  | sts (z : Bool) (l : BitVec 4) (d : BitVec 7) (a : BitVec 7) (x : BitVec 3) (w : BitVec 2) (h : BitVec 2)
  /-- LDP (R172). Loads elements from the scratchpad of the block or a gang peer. -/
  | ldp (z : Bool) (l : BitVec 4) (d : BitVec 7) (a : BitVec 7) (p : BitVec 3) (w : BitVec 2) (h : BitVec 2)
  /-- STP (R172). Stores elements into the scratchpad of the block or a gang peer. -/
  | stp (z : Bool) (l : BitVec 4) (d : BitVec 7) (a : BitVec 7) (p : BitVec 3) (w : BitVec 2) (h : BitVec 2)
  /-- PKLD (R208). Loads and decodes packed alphabet elements per lane. -/
  | pkld (z : Bool) (l : BitVec 4) (d : BitVec 7) (a : BitVec 7) (x : BitVec 3) (g : BitVec 3) (h : BitVec 1)
  /-- PKST (R210). Writes one symbol per lane into its container by whole-container read-modify-write. -/
  | pkst (z : Bool) (l : BitVec 4) (d : BitVec 7) (a : BitVec 7) (x : BitVec 3) (g : BitVec 3) (h : BitVec 1)
  /-- ATOM_ADD (R301). Atomically adds the operand to each lane's element and returns the old value. -/
  | atomAdd (z : Bool) (w : BitVec 1) (l : BitVec 3) (d : BitVec 7) (a : BitVec 7) (x : BitVec 3)
  /-- ATOM_AND (R301). Atomic AND returning the old value. -/
  | atomAnd (z : Bool) (w : BitVec 1) (l : BitVec 3) (d : BitVec 7) (a : BitVec 7) (x : BitVec 3)
  /-- ATOM_OR (R301). Atomic OR returning the old value. -/
  | atomOr (z : Bool) (w : BitVec 1) (l : BitVec 3) (d : BitVec 7) (a : BitVec 7) (x : BitVec 3)
  /-- ATOM_XOR (R301). Atomic XOR returning the old value. -/
  | atomXor (z : Bool) (w : BitVec 1) (l : BitVec 3) (d : BitVec 7) (a : BitVec 7) (x : BitVec 3)
  /-- ATOM_MIN (R301). Atomic signed minimum returning the old value. -/
  | atomMin (z : Bool) (w : BitVec 1) (l : BitVec 3) (d : BitVec 7) (a : BitVec 7) (x : BitVec 3)
  /-- ATOM_MAX (R301). Atomic signed maximum returning the old value. -/
  | atomMax (z : Bool) (w : BitVec 1) (l : BitVec 3) (d : BitVec 7) (a : BitVec 7) (x : BitVec 3)
  /-- ATOM_MINN (R301). Atomic natural minimum returning the old value. -/
  | atomMinn (z : Bool) (w : BitVec 1) (l : BitVec 3) (d : BitVec 7) (a : BitVec 7) (x : BitVec 3)
  /-- ATOM_MAXN (R301). Atomic natural maximum returning the old value. -/
  | atomMaxn (z : Bool) (w : BitVec 1) (l : BitVec 3) (d : BitVec 7) (a : BitVec 7) (x : BitVec 3)
  /-- ATOM_XCHG (R301). Atomic exchange returning the old value. -/
  | atomXchg (z : Bool) (w : BitVec 1) (l : BitVec 3) (d : BitVec 7) (a : BitVec 7) (x : BitVec 3)
  /-- ATOM_INC (R301). Atomic wrapping increment returning the old value. -/
  | atomInc (z : Bool) (w : BitVec 1) (l : BitVec 3) (d : BitVec 7) (a : BitVec 7) (x : BitVec 3)
  /-- ATOM_DEC (R301). Atomic wrapping decrement returning the old value. -/
  | atomDec (z : Bool) (w : BitVec 1) (l : BitVec 3) (d : BitVec 7) (a : BitVec 7) (x : BitVec 3)
  /-- ATOM_FADD (R301). Atomic FP32 add returning the old value. -/
  | atomFadd (z : Bool) (l : BitVec 3) (d : BitVec 7) (a : BitVec 7) (x : BitVec 3)
  /-- RED_ADD (R302). Non-returning far add at the home slice or an update-only copy. -/
  | redAdd (z : Bool) (w : BitVec 1) (l : BitVec 3) (d : BitVec 7) (a : BitVec 7) (x : BitVec 3)
  /-- RED_AND (R302). Non-returning far AND. -/
  | redAnd (z : Bool) (w : BitVec 1) (l : BitVec 3) (d : BitVec 7) (a : BitVec 7) (x : BitVec 3)
  /-- RED_OR (R302). Non-returning far OR. -/
  | redOr (z : Bool) (w : BitVec 1) (l : BitVec 3) (d : BitVec 7) (a : BitVec 7) (x : BitVec 3)
  /-- RED_XOR (R302). Non-returning far XOR. -/
  | redXor (z : Bool) (w : BitVec 1) (l : BitVec 3) (d : BitVec 7) (a : BitVec 7) (x : BitVec 3)
  /-- RED_MIN (R302). Non-returning far signed minimum. -/
  | redMin (z : Bool) (w : BitVec 1) (l : BitVec 3) (d : BitVec 7) (a : BitVec 7) (x : BitVec 3)
  /-- RED_MAX (R302). Non-returning far signed maximum. -/
  | redMax (z : Bool) (w : BitVec 1) (l : BitVec 3) (d : BitVec 7) (a : BitVec 7) (x : BitVec 3)
  /-- RED_MINN (R302). Non-returning far natural minimum. -/
  | redMinn (z : Bool) (w : BitVec 1) (l : BitVec 3) (d : BitVec 7) (a : BitVec 7) (x : BitVec 3)
  /-- RED_MAXN (R302). Non-returning far natural maximum. -/
  | redMaxn (z : Bool) (w : BitVec 1) (l : BitVec 3) (d : BitVec 7) (a : BitVec 7) (x : BitVec 3)
  /-- RED_XCHG (R302). Non-returning exchange performed at the home slice. -/
  | redXchg (z : Bool) (w : BitVec 1) (l : BitVec 3) (d : BitVec 7) (a : BitVec 7) (x : BitVec 3)
  /-- RED_INC (R302). Non-returning wrapping increment at the home slice. -/
  | redInc (z : Bool) (w : BitVec 1) (l : BitVec 3) (d : BitVec 7) (a : BitVec 7) (x : BitVec 3)
  /-- RED_DEC (R302). Non-returning wrapping decrement at the home slice. -/
  | redDec (z : Bool) (w : BitVec 1) (l : BitVec 3) (d : BitVec 7) (a : BitVec 7) (x : BitVec 3)
  /-- RED_FADD (R302). Non-returning far FP32 add. -/
  | redFadd (z : Bool) (l : BitVec 3) (d : BitVec 7) (a : BitVec 7) (x : BitVec 3)
  /-- CAS (R303). Compares each lane's element and swaps it on equality, returning the old value. -/
  | cas (z : Bool) (l : BitVec 4) (d : BitVec 7) (a : BitVec 7) (x : BitVec 3) (w : BitVec 1) (h : BitVec 2)
  /-- WAITC_EQ (R307). Waits until the element equals the comparand, optionally timed. -/
  | waitcEq (z : Bool) (d : BitVec 7) (a : BitVec 7) (x : BitVec 3) (t : BitVec 1)
  /-- WAITC_NE (R307). Waits until the element differs from the comparand. -/
  | waitcNe (z : Bool) (d : BitVec 7) (a : BitVec 7) (x : BitVec 3) (t : BitVec 1)
  /-- WAITC_LT (R307). Waits until the element is below the comparand, signed. -/
  | waitcLt (z : Bool) (d : BitVec 7) (a : BitVec 7) (x : BitVec 3) (t : BitVec 1)
  /-- WAITC_GE (R307). Waits until the element is at least the comparand, signed. -/
  | waitcGe (z : Bool) (d : BitVec 7) (a : BitVec 7) (x : BitVec 3) (t : BitVec 1)
  /-- WAITC_LTN (R307). Waits until the element is below the comparand, natural. -/
  | waitcLtn (z : Bool) (d : BitVec 7) (a : BitVec 7) (x : BitVec 3) (t : BitVec 1)
  /-- WAITC_GEN (R307). Waits until the element is at least the comparand, natural. -/
  | waitcGen (z : Bool) (d : BitVec 7) (a : BitVec 7) (x : BitVec 3) (t : BitVec 1)
  /-- WAITC_ANY (R307). Waits until the element shares a set bit with the comparand. -/
  | waitcAny (z : Bool) (d : BitVec 7) (a : BitVec 7) (x : BitVec 3) (t : BitVec 1)
  /-- COPY (R180). Checks and queues a copy or bulk reduce-add on a copy channel. -/
  | copy (z : Bool) (l : BitVec 4) (d : BitVec 7) (a : BitVec 7) (b : BitVec 7)
  /-- CWAIT (R184). Waits until a channel counter reaches a value, or raises the channel's error. -/
  | cwait (z : Bool) (d : BitVec 7) (a : BitVec 7) (b : BitVec 7)
  /-- CSTAT (R185). Reads a channel counter or status, optionally clearing the error state. -/
  | cstat (z : Bool) (d : BitVec 7) (b : BitVec 7)
  /-- PUBLISH (R188). Waits for the block's engine writes into a shadow, then swaps it in as one point of the order. -/
  | publish (z : Bool) (a : BitVec 7)
  /-- SHADOW (R186). Opens a shadow copy of a range for the block's engine writes. -/
  | shadow (z : Bool) (d : BitVec 7) (a : BitVec 7) (b : BitVec 7)
  /-- FENCE (R309). Orders the group's accesses at the named scope. -/
  | fence (z : Bool) (k : BitVec 3)
  /-- CLEAN (R311). Writes dirty bytes of a range out of caches up to a level. -/
  | clean (z : Bool) (v : BitVec 2) (a : BitVec 7) (b : BitVec 7)
  /-- INVAL (R311). Discards cached copies of a range up to a level. -/
  | inval (z : Bool) (v : BitVec 2) (a : BitVec 7) (b : BitVec 7)
  /-- CLINV (R311). Cleans then discards cached copies of a range up to a level. -/
  | clinv (z : Bool) (v : BitVec 2) (a : BitVec 7) (b : BitVec 7)
  /-- MBATCH (R273). Closes the open matrix batch and returns its number. -/
  | mbatch (z : Bool) (d : BitVec 7)
  /-- MWAIT (R274). Waits until the matrix batches up to a number have completed and raises their error. -/
  | mwait (z : Bool) (a : BitVec 7)
  /-- MBX (R189). Posts a one-doubleword message to a mailbox of the partition. -/
  | mbx (z : Bool) (d : BitVec 7) (a : BitVec 7) (b : BitVec 7)
  /-- MSQ (R147). Reports the Cooper share or the state of an address's sector. -/
  | msq (z : Bool) (d : BitVec 7) (a : BitVec 7) (b : BitVec 7)
  /-- TWR (R197). Writes a vector register into a tile row or column. -/
  | twr (z : Bool) (t : BitVec 5) (r : BitVec 1) (k : BitVec 7) (v : BitVec 7) (i : BitVec 5)
  /-- TRD (R197). Reads a tile row or column into a vector register. -/
  | trd (z : Bool) (t : BitVec 5) (r : BitVec 1) (k : BitVec 7) (v : BitVec 7) (i : BitVec 5)
  /-- MLOOP (R258). Checks a matrix loop and queues it on the quadrant's matrix engine. -/
  | mloop (z : Bool) (d : BitVec 7) (a : BitVec 7) (b : BitVec 7)
  /-- HAD (R275). Queues a Hadamard transform of a tile. -/
  | had (z : Bool) (d : BitVec 7) (a : BitVec 7) (b : BitVec 7)
  /-- QNT (R276). Queues the quantisation of a tile into E2M1 blocks. -/
  | qnt (z : Bool) (d : BitVec 7) (a : BitVec 7) (b : BitVec 7)
  /-- TDR_DIFF (R282). Drains P − N of a split pair to tiles or memory. -/
  | tdrDiff (z : Bool) (d : BitVec 7) (a : BitVec 7)
  /-- TDR_CANC (R282). Drains the cancellation ratio of a split pair. -/
  | tdrCanc (z : Bool) (d : BitVec 7) (a : BitVec 7)
  /-- TDR_AGREE (R282). Drains P − N where agreement meets the threshold, zeroing and counting elsewhere. -/
  | tdrAgree (z : Bool) (d : BitVec 7) (a : BitVec 7)
  /-- TDR_RAW (R282). Drains a tile or pair with its counts unchanged. -/
  | tdrRaw (z : Bool) (d : BitVec 7) (a : BitVec 7)
  /-- TZERO (R280). Queues the zeroing of a tile and its counts. -/
  | tzero (z : Bool) (d : BitVec 7)
  /-- TCOPY (R280). Queues a copy of a tile, its counts and its split mark. -/
  | tcopy (z : Bool) (d : BitVec 7) (a : BitVec 7)
  /-- TSTAT (R280). Reads a tile setting or quadrant statistic. -/
  | tstat (z : Bool) (d : BitVec 7) (a : BitVec 7) (b : BitVec 7)
  /-- TSETS (R280). Writes a tile setting or quadrant statistic. -/
  | tsets (z : Bool) (d : BitVec 7) (a : BitVec 7) (b : BitVec 7)
  /-- KVLD (R125). Walks the KV space and loads one 256-byte chunk of a row. -/
  | kvld (z : Bool) (l : BitVec 4) (d : BitVec 7) (a : BitVec 7) (b : BitVec 7)
  /-- KVAPP (R127). Writes one chunk of a KV row, taking or copying a page and committing the length. -/
  | kvapp (z : Bool) (d : BitVec 7) (a : BitVec 7) (b : BitVec 7)
  /-- KVFORK (R128). Makes an empty sequence share the parent's pages up to a length. -/
  | kvfork (z : Bool) (d : BitVec 7) (a : BitVec 7) (b : BitVec 7)
  /-- KVTRIM (R129). Shortens a sequence and releases its pages beyond the new length. -/
  | kvtrim (z : Bool) (d : BitVec 7) (a : BitVec 7)
  /-- KVQ (R130). Reads a KV quantity chosen by a selector. -/
  | kvq (z : Bool) (d : BitVec 7) (a : BitVec 7) (b : BitVec 7)
  /-- KVPIN (R131). Adds a block pin to the frame holding a row. -/
  | kvpin (z : Bool) (a : BitVec 7)
  /-- KVUNPIN (R131). Releases a matching pin from the block's pin table. -/
  | kvunpin (z : Bool) (a : BitVec 7)
  /-- PASS (R291). Hands on or releases the quadrant's issue-priority token. -/
  | pass (z : Bool) (d : BitVec 7) (a : BitVec 7)
  /-- TAKE (R291). Takes the issue-priority token, or waits for it. -/
  | take (z : Bool) (d : BitVec 7) (a : BitVec 7)
  /-- QUERY (R291). Reports the state of the issue-priority token. -/
  | query (z : Bool) (d : BitVec 7)
  /-- BAR (R348). Arrives at the block barrier and waits for its completion. -/
  | bar (z : Bool)
  /-- GBAR (R348). Arrives at a gang barrier and waits for its completion. -/
  | gbar (z : Bool) (a : BitVec 7)
  /-- ARRIVE (R348). Arrives at a barrier and returns its generation without waiting. -/
  | arrive (z : Bool) (d : BitVec 7) (a : BitVec 7)
  /-- AWAIT (R348). Waits until a barrier's generation differs from a value. -/
  | await (z : Bool) (a : BitVec 7) (b : BitVec 7)
  /-- TOKW (R363). Waits until the group holds the commit token. -/
  | tokw (z : Bool)
  /-- TOKP (R363). Passes the commit token to the next group in flat order. -/
  | tokp (z : Bool)
  /-- TICKQ (R363). Reads a ticketing quantity chosen by a selector. -/
  | tickq (z : Bool) (d : BitVec 7) (b : BitVec 7)
  /-- LAUNCH (R349). Reads a launch record and posts it to the device queue. -/
  | launch (z : Bool) (d : BitVec 7) (a : BitVec 7)
  /-- WEAVE (R216). Permutes lanes of a register pair through a draft. -/
  | weave (z : Bool) (d : BitVec 7) (a : BitVec 7) (n : BitVec 2)
  /-- WDRAFT (R216). Replaces a draft slot in one step. -/
  | wdraft (z : Bool) (n : BitVec 2) (a : BitVec 7)
  /-- SHFL (R216). Permutes lanes by indices computed at run time. -/
  | shfl (z : Bool) (d : BitVec 7) (a : BitVec 7) (b : BitVec 7)
  /-- RSUM (R254). Sums the active lanes in the fixed tree into a scalar. -/
  | rsum (z : Bool) (d : BitVec 7) (a : BitVec 7) (t : BitVec 1)
  /-- RMIN (R253). Writes the smallest active element to a scalar. -/
  | rmin (z : Bool) (d : BitVec 7) (a : BitVec 7) (t : BitVec 2)
  /-- RMAX (R253). Writes the largest active element to a scalar. -/
  | rmax (z : Bool) (d : BitVec 7) (a : BitVec 7) (t : BitVec 2)
  /-- ARGMIN (R253). Writes the index and value of the smallest active element. -/
  | argmin (z : Bool) (d : BitVec 7) (a : BitVec 7) (t : BitVec 2)
  /-- ARGMAX (R253). Writes the index and value of the largest active element. -/
  | argmax (z : Bool) (d : BitVec 7) (a : BitVec 7) (t : BitVec 2)
  /-- SCAN (R255). Writes inclusive prefix sums built from the fixed tree. -/
  | scan (z : Bool) (d : BitVec 7) (a : BitVec 7) (t : BitVec 1)
  /-- PKX (R214). Extracts one symbol per lane from a container in a register. -/
  | pkx (z : Bool) (d : BitVec 7) (a : BitVec 7) (g : BitVec 3)
  /-- PKI (R214). Inserts one symbol per lane into a container in a register. -/
  | pki (z : Bool) (d : BitVec 7) (a : BitVec 7) (g : BitVec 3)
  /-- ALSET (R205). Writes a valid value into an alphabet register after earlier packed instructions. -/
  | alset (z : Bool) (g : BitVec 3) (a : BitVec 7)
  /-- ALGET (R205). Reads an alphabet register into a scalar. -/
  | alget (z : Bool) (d : BitVec 7) (g : BitVec 3)
  /-- RAND (R364). Writes a counter-based ChaCha20 random word per lane. -/
  | rand (z : Bool) (d : BitVec 7) (a : BitVec 7) (b : BitVec 7)
  /-- FXSPLIT (R365). Splits FP32 lanes into exact fixed-point limb contributions. -/
  | fxsplit (z : Bool) (d : BitVec 7) (a : BitVec 7)
  /-- FXJOIN (R366). Joins fixed-point limbs into one rounded FP32 value. -/
  | fxjoin (z : Bool) (d : BitVec 7) (a : BitVec 7) (o : BitVec 7)
  /-- CRC (R367). Folds bytes of a scalar into a CRC-32C register. -/
  | crc (z : Bool) (d : BitVec 7) (a : BitVec 7) (b : BitVec 7)
  /-- CLK (R368). Reads the cycle or nanosecond counter. -/
  | clk (z : Bool) (d : BitVec 7) (b : BitVec 7)
  /-- ERET (R378). Leaves the trap handler and resumes the trapping group at epc. -/
  | eret (z : Bool)
  /-- GRD (R379). Reads a register of the stopped target group. -/
  | grd (z : Bool) (d : BitVec 7) (a : BitVec 7)
  /-- GWR (R379). Writes a register of the stopped target group. -/
  | gwr (z : Bool) (a : BitVec 7) (b : BitVec 7)
  /-- GRES (R378). Resumes a stopped target or stops a running one. -/
  | gres (z : Bool) (a : BitVec 7)
  /-- GKILL (R378). Kills the target's gang with or without relaunch. -/
  | gkill (z : Bool) (a : BitVec 7) (b : BitVec 7)
  /-- TQPOP (R380). Pops the oldest trap record or releases one by id with resume or abandon. -/
  | tqpop (z : Bool) (d : BitVec 7) (a : BitVec 7) (b : BitVec 7)
  /-- XSET (R381). Requests a translation invalidation and waits for it to complete. -/
  | xset (z : Bool) (a : BitVec 7) (b : BitVec 7)
  /-- CKPT (R386). Pre-empts a launch's blocks and writes a sealed checkpoint. -/
  | ckpt (z : Bool) (d : BitVec 7) (a : BitVec 7) (b : BitVec 7)
  /-- WALK_COMPLETE (R90). A translation walk or TLB lookup finishes, ending the fetch suspension or raising the fault. -/
  | walkComplete (g : GId) (sl : SlotId)
  /-- RUN_AHEAD_END (R95). Run-ahead stops at its first end event, restores the checkpoint and posts the XLATE record. -/
  | runAheadEnd (g : GId)
  /-- PRG_RESPONSE (R98). The host's PRG Response allows replay or turns the fault into PERM. -/
  | prgResponse (part rid : Nat) (success : Bool)
  /-- ATS_TRANSLATION_COMPLETION (R103). A Translation Completion arrives for a host page and supplies its translation. -/
  | atsTranslationCompletion (part pasid va : Nat) (present rd w : Bool) (hpa : Nat) (size : PSize)
  /-- ATS_INVALIDATE_REQUEST (R104). The host IOMMU's Invalidate Request starts an invalidation over a pasid range. -/
  | atsInvalidateRequest (part pasid start len : Nat)
  /-- INVALIDATION_COMPLETE (R101). An invalidation meets its completion conditions and its requester is answered. -/
  | invalidationComplete (part iid : Nat)
  /-- STAGE2_FAULT_RESOLVED (R100). The partition manager resolves or abandons stage-2 records, releasing the batch's record. -/
  | stage2FaultResolved (part : Nat) (rec : S2Name) (ok : Bool)
  /-- KV_INVALIDATION (R114). A KV table change by the Chandler drops covered KV translation cache entries. -/
  | kvInvalidation (part space seq : Nat)
  /-- FRAME_GRANT (R116). A grant of frames reaches a core's granted-frame cache and answers any outstanding refill. -/
  | frameGrant (die core : Nat) (frames : List Nat)
  /-- REFILL_RETRY (R116). Every 2,048 cycles a core retries posting a refill to a full mailbox. -/
  | refillRetry (die core : Nat)
  /-- REFILL_DEFERRED (R116). 65,536 cycles after an empty grant the core posts a new refill. -/
  | refillDeferred (die core : Nat)
  /-- COOPER_FILL_REQUEST (R139). An L2 fill reaches the Cooper and is served as a hit or as a whole-sector miss. -/
  | cooperFillRequest (pa sym : Nat)
  /-- COOPER_WRITEBACK_REQUEST (R139). An L2 write-back of a dirty sector reaches the Cooper. -/
  | cooperWritebackRequest (pa : Nat)
  /-- COOPER_LPDDR_FILL_DONE (R140). A sector fill from LPDDR completes and the waiting requests for the index are served. -/
  | cooperLpddrFillDone (die slot : Nat)
  /-- COOPER_INDEX_RELEASE (R142). The Chandler releases a blocked Cooper index. -/
  | cooperIndexRelease (die slot : Nat)
  /-- COOPER_READY (R143). After initialising every carve-out sector the Cooper's ready bit is posted. -/
  | cooperReady
  /-- REPLICATED_STORE (R145). A store to a replicated page reaches the replication sequencer and is sent to every replica. -/
  | replicatedStore (part pa n : Nat) (v : BitVec 64)
  /-- REPLICA_ACK (R145). A replica's home slice acknowledges an update; the last acknowledgement triggers the commit. -/
  | replicaAck (part rid die : Nat)
  /-- L2_FILL_REQUEST (R150). A request reaches a home slice and hits or starts a whole-line fill. -/
  | l2FillRequest (req : FillReq) (h : BitVec 2)
  /-- L2_FILL_DONE (R150). A line fill from HBM or the Cooper arrives at the home slice and waiting requests are served. -/
  | l2FillDone (pa sym : Nat)
  /-- L1_WRITEBACK (R151). An L1 write-back merges its dirty bytes into the home slice's line. -/
  | l1Writeback (die core line : Nat)
  /-- FLIT_TRANSFER_RECEIVE (R160). A transfer arrives over the fabric and is checked and decompressed. -/
  | flitTransferReceive (slice : Nat) (taker : Taker) (hdr : BitVec 16) (payload : List Byte) (badParity : List Nat)
  /-- MONITOR_WAKE (R162). A satisfied condition monitor's wake reaches the group's core or die dispatcher. -/
  | monitorWake (g : GId) (sl : SlotId)
  /-- WAITC_POLL (R163). Every 2,048 cycles a polling waiter re-reads the element and tries to arm a monitor. -/
  | waitcPoll (g : GId) (sl : SlotId)
  /-- WAITC_TIMEOUT (R164). A timed WAITC's time expires and a cancel is sent to its monitor. -/
  | waitcTimeout (g : GId) (sl : SlotId)
  /-- WAITC_REMOTE_POLL (R307). Every 2,048 cycles a WAITC on host or peer memory re-reads the element. -/
  | waitcRemotePoll (g : GId) (sl : SlotId)
  /-- UPDATE_COPY_RECALL (R167). The answers of the dies holding update-only copies are combined in die order before the waiting access. -/
  | updateCopyRecall (line : Nat)
  /-- COPY_START (R181). A copy channel begins the next queued copy of its core. -/
  | copyStart (die core ch : Nat)
  /-- COPY_ELEMENT_WRITTEN (R181). A copy element's write is performed and wptr advances. -/
  | copyElementWritten (die core ch : Nat)
  /-- STACK_SPILL (R177). The stack cache spills its oldest entries to memory. -/
  | stackSpill (g : GId)
  /-- STACK_FILL (R177). The stack cache fills older entries from memory. -/
  | stackFill (g : GId)
  /-- MATRIX_INSTRUCTION_START (R267). The matrix engine starts the next queued instruction once its tile waits are met. -/
  | matrixInstructionStart (die core quad : Nat)
  /-- MATRIX_K_STEP_COMPLETE (R265). A K-step of a matrix loop completes, updating the accumulator and progress. -/
  | matrixKStepComplete (die core quad : Nat)
  /-- PEER_ACCESS_ARRIVAL (R392). An access from a peer module arrives and is performed at the home slice. -/
  | peerAccessArrival (op : PeerOp) (pa n : Nat) (v v2 : BitVec 64)
  /-- CXL_MEM_ACCESS (R388). A host CXL.mem access is performed at the home slice. -/
  | cxlMemAccess (part : Nat) (store : Bool) (pa n : Nat) (v : BitVec 512)
  /-- CXL_CACHE_INVALIDATION (R390). A host write to the flag window invalidates the module's copy and wakes its WAITCs. -/
  | cxlCacheInvalidation (part pa n : Nat) (v : BitVec 64)
  /-- ABORT_COMPLETION (R383). An abort completion reaches a group, which takes ABORT and has its gang killed. -/
  | abortCompletion (a : AbortOf)
  /-- LAUNCH_RECORD_START (R321). The launch queue engine copies and starts a record, or refuses it. -/
  | launchRecordStart (part : Nat)
  /-- DISPATCH_RANGE_HANDOUT (R324). The leader hands a dispatcher a range of dispatch units. -/
  | dispatchRangeHandout (launch die : Nat)
  /-- DISPATCH_RANGE_SPLIT (R324). The leader takes back unstarted units of a range and hands them to another die. -/
  | dispatchRangeSplit (launch die dst n : Nat)
  /-- BLOCK_PLACE (R327). A dispatcher places a block on a core with room for it. -/
  | blockPlace (launch unit die core : Nat)
  /-- GANG_PLACE (R329). A dispatcher places a whole gang on cores of one neighbourhood. -/
  | gangPlace (launch unit die nbhd : Nat)
  /-- PREEMPT (R344). The blocks on a core are switched out through the shadow bank. -/
  | preempt (launch unit : Nat)
  /-- PREEMPT_SPILL (R344). The spill engine writes the outgoing bank and scratchpad to the image. -/
  | preemptSpill (launch unit : Nat)
  /-- COMPACT_CORE (R330). A dispatcher empties a core of pre-emptible blocks to set a new scratchpad part. -/
  | compactCore (die core : Nat)
  /-- UNIT_RETIRE (R325). A dispatch unit retires and its bit is set in the retired-unit bitmap. -/
  | unitRetire (launch unit : Nat)
  /-- LEADER_ELECTION (R326). After the leader's die is lost, the survivors elect a new leader and resume handing out units. -/
  | leaderElection (launch lost : Nat)
  /-- RUN_ISSUE (R340). The quadrant's free issue slot goes to the next run chosen by the arbitration rules. -/
  | runIssue (die core quad : Nat)
  /-- STAGED_LIST_RELEASE (R354). The Miller releases a block's staged writes in ascending block order. -/
  | stagedListRelease (launch : Nat)
  /-- HANDLER_ENTRY (R374). Forty cycles after the fault the on-core trap handler enters. -/
  | handlerEntry (die core quad : Nat)
  /-- HANDLER_ABANDON (R375). After 65,536 cycles a pending pre-emption abandons the handler. -/
  | handlerAbandon (die core quad : Nat)
  /-- LQTAIL_WRITE (R389). The host posts launch records by advancing a queue's tail. -/
  | lqtailWrite (acc : RegAcc) (q : Nat) (v : BitVec 64)
  /-- SCHEAD_WRITE (R389). The host consumes system-call entries by advancing the head. -/
  | scheadWrite (acc : RegAcc) (v : BitVec 64)
  /-- SCTAG (R389). Writing a tag delivers SCREPLY to the parked call and resumes its group. -/
  | sctag (acc : RegAcc) (tag : BitVec 64)
  /-- TQPOPID (R389). A host read pops the oldest trap record into TQBUF and returns its id. -/
  | tqpopid (acc : RegAcc)
  /-- TQRES (R389). The host releases a record by id with resume. -/
  | tqres (acc : RegAcc) (rid : BitVec 64)
  /-- TQABN (R389). The host releases a record by id with abandon. -/
  | tqabn (acc : RegAcc) (rid : BitVec 64)
  /-- INVCTL_GO (R391). Writing go = 1 to INVCTL starts an invalidation of the kind given. -/
  | invctlGo (acc : RegAcc) (v : BitVec 64)
  /-- REGISTER_WRITE (R389). A write to a register block register that has no behaviour of its own stores the value. -/
  | registerWrite (acc : RegAcc) (off : Nat) (v : BitVec 64)
  /-- MONITOR_LATCH (R396). A read of a monitor's offset 0 latches its other fields. -/
  | monitorLatch (acc : RegAcc) (m : Nat)
  /-- MONITOR_CLEAR (R396). A write to a monitor's offset 0 clears all its fields. -/
  | monitorClear (acc : RegAcc) (m : Nat)
  /-- MONITOR_SAMPLE (R396). A monitor takes a sample at its period or event and updates its bins. -/
  | monitorSample (part m v : Nat)
  /-- PARTITION_RECONFIGURE (R393). The Chandler changes the number of partitions or moves a die between idle partitions. -/
  | partitionReconfigure (n : Nat)
  /-- POWER_ON_BOOT (R394). At power-on the Chandler verifies and boots a firmware image and measures it. -/
  | powerOnBoot (record imageA imageB : List Byte)
  /-- GET_MEASUREMENTS (R394). An SPDM GET_MEASUREMENTS request is answered with the measurements. -/
  | getMeasurements
  /-- CHALLENGE (R394). An SPDM CHALLENGE request is answered. -/
  | challenge (nonce : List Byte)
  /-- DIE_FENCE (R397). The Chandler fences a die, pre-empting or killing its units. -/
  | dieFence (die : Nat)
  /-- DIE_RETURN (R397). A repaired die is returned to service by posting its READY bits. -/
  | dieReturn (die : Nat)
  /-- HBM_ROW_SPARE (R398). The Chandler spares an HBM row and rewrites withheld lines. -/
  | hbmRowSpare (pa n : Nat) (fix : List Byte)
  /-- FIRMWARE_UPDATE (R399). A new firmware image is verified and takes over from the running one. -/
  | firmwareUpdate (image : List Byte)
  /-- THERMAL_THROTTLE (R400). Above its thermal limit the hub lowers the clock by a step and counts it. -/
  | thermalThrottle
  /-- CXL_LINK_ERROR (R388). An unrecovered link error ends the host's outstanding requests with abort completions. -/
  | cxlLinkError (part : Nat)
  /-- PEER_LINK_FAILURE (R387). After 16 failed retries on a peer link the access ends with an abort. -/
  | peerLinkFailure (f : LinkFailure)
  /-- ILLEGAL_INSTRUCTION_WORD (R41). A fetched word with a reserved major, an unassigned code or a nonzero reserved field raises ILL at its address. -/
  | illegalInstructionWord (word : BitVec 32)
  /-- KV_FAULT_RESOLVED (R121). The Chandler's allocator resolves a MISSING or OFFLOADED KV record and releases it with resume, or forwards it to the trap queue. -/
  | kvFaultResolved (part rid : Nat) (ok : Bool)
  /-- COOPER_LPDDR_WRITE_DONE (R140). A Cooper write of a dirty victim or maintenance sector to LPDDR is performed, and fills of that index that were waiting for it proceed. -/
  | cooperLpddrWriteDone (die slot : Nat)
  /-- REMOTE_ACCESS_RESPONSE (R309). The value or acknowledgement of an access to a peer module or the host returns, and pending writes, FENCE waits and engine reads complete. -/
  | remoteAccessResponse (g : GId)
  /-- MATRIX_INSTRUCTION_COMPLETE (R274). A HAD, QNT, TDR, TZERO or TCOPY finishes on the matrix engine, ending waits of MWAIT and of instructions that name its tiles. -/
  | matrixInstructionComplete (die core quad : Nat)
  /-- LAUNCH_CANCEL (R320). The host or the Chandler cancels a launch, which ends with a completion record of status 4. -/
  | launchCancel (launch : Nat)
  /-- MACHINE_CHECK_CLEAR (R422). The Chandler clears a partition's machine check, after which its launch queues start records again. -/
  | machineCheckClear (part : Nat)
  /-- CHECKPOINT_RESTORE (R386). The Chandler's checkpoint service restores a sealed checkpoint of the requested generation, keeping logical identifiers and launchid. -/
  | checkpointRestore (part pa gen : Nat)
  /-- POWER_OFF (R400). Loss of module power turns the module fully off with no state kept. -/
  | powerOff
  deriving DecidableEq, Repr, Inhabited

end Sys2Proof
end

