-- ==== Sys2Proof/Decode.lean ====
section
/-! DEFINITION. The instruction decoder and, after it, the encoder (R22 to R26, R37 to R39).

A word is a natural number below 2^32, bit 0 the least significant (R5). Fields are taken by division, so
that a round trip is arithmetic. Every word decodes or is rejected by name: steps 1 to 3 of R41.
A field that names a register outside its class (step 4 of R41) still decodes; WellFormed refuses it.

The word noncomputable stands here, in Step.lean and in Core.lean for one reason: Lean's compiler has no tag for
a constructor with fields beyond the 245th of its type, and the opcode table has 347 rows. The kernel has
no such limit and evaluates all of these definitions. -/

namespace Sys2Proof

/-- Why no instruction is decoded. The first three are steps 1 to 3 of R41; all raise ILL. -/
inductive DecodeError where
  /-- A reserved major (R38). -/
  | reservedMajor
  /-- A function, condition, c, operation, mode or width code not assigned (R37, R39, R24). -/
  | unassignedCode
  /-- A reserved field that is not zero (R26). -/
  | reservedField
  /-- Fewer than four bytes are left: no word can be read. -/
  | tooShort
  deriving DecidableEq, Repr, Inhabited

/-- Bits [lo + n - 1 : lo] of a word. -/
def fld (w lo n : Nat) : BitVec n := BitVec.ofNat n (w / 2 ^ lo)

/-- The same bits as a number. -/
def fldNat (w lo n : Nat) : Nat := w / 2 ^ lo % 2 ^ n

/-- The run-boundary bit B (R23). -/
def zbit (w : Nat) : Bool := fldNat w 31 1 == 1

/-- The reserved bits [lo + n - 1 : lo] are not all zero. -/
def resv (w lo n : Nat) : Bool := fldNat w lo n != 0

/-- Major 0x00 (R37): ADD to ANDN. -/
def decodeMajor00 (w : Nat) : Except DecodeError Instr :=
  match fldNat w 21 4 with
  | 0 => .ok (.add (zbit w) (fld w 14 7) (fld w 7 7) (fld w 0 7))
  | 1 => .ok (.sub (zbit w) (fld w 14 7) (fld w 7 7) (fld w 0 7))
  | 2 => .ok (.and (zbit w) (fld w 14 7) (fld w 7 7) (fld w 0 7))
  | 3 => .ok (.or (zbit w) (fld w 14 7) (fld w 7 7) (fld w 0 7))
  | 4 => .ok (.xor (zbit w) (fld w 14 7) (fld w 7 7) (fld w 0 7))
  | 5 => .ok (.shl (zbit w) (fld w 14 7) (fld w 7 7) (fld w 0 7))
  | 6 => .ok (.shr (zbit w) (fld w 14 7) (fld w 7 7) (fld w 0 7))
  | 7 => .ok (.sra (zbit w) (fld w 14 7) (fld w 7 7) (fld w 0 7))
  | 8 => .ok (.mul (zbit w) (fld w 14 7) (fld w 7 7) (fld w 0 7))
  | 9 => .ok (.mulh (zbit w) (fld w 14 7) (fld w 7 7) (fld w 0 7))
  | 10 => .ok (.mulhn (zbit w) (fld w 14 7) (fld w 7 7) (fld w 0 7))
  | 11 => .ok (.min (zbit w) (fld w 14 7) (fld w 7 7) (fld w 0 7))
  | 12 => .ok (.max (zbit w) (fld w 14 7) (fld w 7 7) (fld w 0 7))
  | 13 => .ok (.minn (zbit w) (fld w 14 7) (fld w 7 7) (fld w 0 7))
  | 14 => .ok (.maxn (zbit w) (fld w 14 7) (fld w 7 7) (fld w 0 7))
  | 15 => .ok (.andn (zbit w) (fld w 14 7) (fld w 7 7) (fld w 0 7))
  | _ => .error .unassignedCode

/-- Major 0x01 (R37): SLT to ADDW. -/
def decodeMajor01 (w : Nat) : Except DecodeError Instr :=
  match fldNat w 21 4 with
  | 0 => .ok (.slt (zbit w) (fld w 14 7) (fld w 7 7) (fld w 0 7))
  | 1 => .ok (.sltn (zbit w) (fld w 14 7) (fld w 7 7) (fld w 0 7))
  | 2 => .ok (.seq (zbit w) (fld w 14 7) (fld w 7 7) (fld w 0 7))
  | 3 => if resv w 0 7 then .error .reservedField else .ok (.clz (zbit w) (fld w 14 7) (fld w 7 7))
  | 4 => if resv w 0 7 then .error .reservedField else .ok (.popc (zbit w) (fld w 14 7) (fld w 7 7))
  | 5 => if resv w 0 7 then .error .reservedField else .ok (.brev (zbit w) (fld w 14 7) (fld w 7 7))
  | 6 => .ok (.rotl (zbit w) (fld w 14 7) (fld w 7 7) (fld w 0 7))
  | 7 => .ok (.bfx (zbit w) (fld w 14 7) (fld w 7 7) (fld w 0 7))
  | 8 => .ok (.bfi (zbit w) (fld w 14 7) (fld w 7 7) (fld w 0 7))
  | 9 => .ok (.div (zbit w) (fld w 14 7) (fld w 7 7) (fld w 0 7))
  | 10 => .ok (.divn (zbit w) (fld w 14 7) (fld w 7 7) (fld w 0 7))
  | 11 => .ok (.rem (zbit w) (fld w 14 7) (fld w 7 7) (fld w 0 7))
  | 12 => .ok (.remn (zbit w) (fld w 14 7) (fld w 7 7) (fld w 0 7))
  | 13 => .ok (.csel (zbit w) (fld w 14 7) (fld w 7 7) (fld w 0 7))
  | 14 => .ok (.addw (zbit w) (fld w 14 7) (fld w 7 7) (fld w 0 7))
  | _ => .error .unassignedCode

/-- Major 0x02 (R37): ADDI. -/
def decodeMajor02 (w : Nat) : Except DecodeError Instr :=
  .ok (.addi (zbit w) (fld w 18 7) (fld w 11 7) (fld w 0 11))

/-- Major 0x03 (R37): ANDI. -/
def decodeMajor03 (w : Nat) : Except DecodeError Instr :=
  .ok (.andi (zbit w) (fld w 18 7) (fld w 11 7) (fld w 0 11))

/-- Major 0x04 (R37): ORI. -/
def decodeMajor04 (w : Nat) : Except DecodeError Instr :=
  .ok (.ori (zbit w) (fld w 18 7) (fld w 11 7) (fld w 0 11))

/-- Major 0x05 (R37): XORI. -/
def decodeMajor05 (w : Nat) : Except DecodeError Instr :=
  .ok (.xori (zbit w) (fld w 18 7) (fld w 11 7) (fld w 0 11))

/-- Major 0x06 (R37): SHLI, SHRI, SRAI, ROTLI. -/
def decodeMajor06 (w : Nat) : Except DecodeError Instr :=
  match fldNat w 9 2 with
  | 0 => if resv w 6 3 then .error .reservedField else .ok (.shli (zbit w) (fld w 18 7) (fld w 11 7) (fld w 0 6))
  | 1 => if resv w 6 3 then .error .reservedField else .ok (.shri (zbit w) (fld w 18 7) (fld w 11 7) (fld w 0 6))
  | 2 => if resv w 6 3 then .error .reservedField else .ok (.srai (zbit w) (fld w 18 7) (fld w 11 7) (fld w 0 6))
  | 3 => if resv w 6 3 then .error .reservedField else .ok (.rotli (zbit w) (fld w 18 7) (fld w 11 7) (fld w 0 6))
  | _ => .error .unassignedCode

/-- Major 0x07 (R37): SLTI. -/
def decodeMajor07 (w : Nat) : Except DecodeError Instr :=
  .ok (.slti (zbit w) (fld w 18 7) (fld w 11 7) (fld w 0 11))

/-- Major 0x08 (R37): LI. -/
def decodeMajor08 (w : Nat) : Except DecodeError Instr :=
  .ok (.li (zbit w) (fld w 18 7) (fld w 0 18))

/-- Major 0x09 (R37): LIS. -/
def decodeMajor09 (w : Nat) : Except DecodeError Instr :=
  .ok (.lis (zbit w) (fld w 18 7) (fld w 0 18))

/-- Major 0x0A (R37): GETS. -/
def decodeMajor0A (w : Nat) : Except DecodeError Instr :=
  if resv w 11 7 then .error .reservedField else .ok (.gets (zbit w) (fld w 18 7) (fld w 0 11))

/-- Major 0x0B (R37): SETS, XLT, SETS_XSP. -/
def decodeMajor0B (w : Nat) : Except DecodeError Instr :=
  if resv w 18 7 then .error .reservedField
  else if fldNat w 3 8 == 0x20 then .ok (.xlt (zbit w) (fld w 11 7) (fld w 0 3))
  else if fldNat w 3 8 == 0x23 then .ok (.setsXsp (zbit w) (fld w 11 7) (fld w 0 3))
  else .ok (.sets (zbit w) (fld w 11 7) (fld w 0 11))

/-- Major 0x0C (R37): WIN. -/
def decodeMajor0C (w : Nat) : Except DecodeError Instr :=
  if resv w 18 7 then .error .reservedField else .ok (.win (zbit w) (fld w 11 7) (fld w 0 11))

/-- Major 0x0D (R37): BRU_EQZ, BRU_NEZ, BRU_LTZ, BRU_GEZ, BRU_GTZ, BRU_LEZ, BRU_ALW. -/
def decodeMajor0D (w : Nat) : Except DecodeError Instr :=
  match fldNat w 21 4 with
  | 0 => .ok (.bruEqz (zbit w) (fld w 14 7) (fld w 0 14))
  | 1 => .ok (.bruNez (zbit w) (fld w 14 7) (fld w 0 14))
  | 2 => .ok (.bruLtz (zbit w) (fld w 14 7) (fld w 0 14))
  | 3 => .ok (.bruGez (zbit w) (fld w 14 7) (fld w 0 14))
  | 4 => .ok (.bruGtz (zbit w) (fld w 14 7) (fld w 0 14))
  | 5 => .ok (.bruLez (zbit w) (fld w 14 7) (fld w 0 14))
  | 6 => if resv w 14 7 then .error .reservedField else .ok (.bruAlw (zbit w) (fld w 0 14))
  | _ => .error .unassignedCode

/-- Major 0x0E (R37): BRD_SET, BRD_CLR. -/
def decodeMajor0E (w : Nat) : Except DecodeError Instr :=
  match fldNat w 21 4 with
  | 0 => if resv w 17 4 then .error .reservedField else .ok (.brdSet (zbit w) (fld w 14 3) (fld w 0 14))
  | 1 => if resv w 17 4 then .error .reservedField else .ok (.brdClr (zbit w) (fld w 14 3) (fld w 0 14))
  | _ => .error .unassignedCode

/-- Major 0x0F (R37): JMP, CALL. -/
def decodeMajor0F (w : Nat) : Except DecodeError Instr :=
  match fldNat w 21 4 with
  | 0 => .ok (.jmp (zbit w) (fld w 0 21))
  | 1 => .ok (.call (zbit w) (fld w 0 21))
  | _ => .error .unassignedCode

/-- Major 0x10 (R37): NOP, RET, JR, CALLR, JOIN, EXIT, YIELD, BRK. -/
def decodeMajor10 (w : Nat) : Except DecodeError Instr :=
  match fldNat w 21 4 with
  | 0 => if resv w 0 21 then .error .reservedField else .ok (.nop (zbit w))
  | 1 => if resv w 0 21 then .error .reservedField else .ok (.ret (zbit w))
  | 2 => if resv w 0 7 || resv w 14 7 then .error .reservedField else .ok (.jr (zbit w) (fld w 7 7))
  | 3 => if resv w 0 7 || resv w 14 7 then .error .reservedField else .ok (.callr (zbit w) (fld w 7 7))
  | 4 => if resv w 0 21 then .error .reservedField else .ok (.join (zbit w))
  | 5 => if resv w 0 21 then .error .reservedField else .ok (.exit (zbit w))
  | 6 => if resv w 0 21 then .error .reservedField else .ok (.yield (zbit w))
  | 7 => if resv w 0 21 then .error .reservedField else .ok (.brk (zbit w))
  | _ => .error .unassignedCode

/-- Major 0x11 (R37): TRAP. -/
def decodeMajor11 (w : Nat) : Except DecodeError Instr :=
  .ok (.trap (zbit w) (fld w 18 7) (fld w 11 7) (fld w 0 11))

/-- Major 0x12 (R37): VADD to VANDN. -/
def decodeMajor12 (w : Nat) : Except DecodeError Instr :=
  match fldNat w 21 4 with
  | 0 => .ok (.vadd (zbit w) (fld w 14 7) (fld w 7 7) (fld w 0 7))
  | 1 => .ok (.vsub (zbit w) (fld w 14 7) (fld w 7 7) (fld w 0 7))
  | 2 => .ok (.vmul (zbit w) (fld w 14 7) (fld w 7 7) (fld w 0 7))
  | 3 => .ok (.vmulh (zbit w) (fld w 14 7) (fld w 7 7) (fld w 0 7))
  | 4 => .ok (.vmulhn (zbit w) (fld w 14 7) (fld w 7 7) (fld w 0 7))
  | 5 => .ok (.vmad (zbit w) (fld w 14 7) (fld w 7 7) (fld w 0 7))
  | 6 => .ok (.vmin (zbit w) (fld w 14 7) (fld w 7 7) (fld w 0 7))
  | 7 => .ok (.vmax (zbit w) (fld w 14 7) (fld w 7 7) (fld w 0 7))
  | 8 => .ok (.vminn (zbit w) (fld w 14 7) (fld w 7 7) (fld w 0 7))
  | 9 => .ok (.vmaxn (zbit w) (fld w 14 7) (fld w 7 7) (fld w 0 7))
  | 10 => if resv w 0 7 then .error .reservedField else .ok (.vabs (zbit w) (fld w 14 7) (fld w 7 7))
  | 11 => if resv w 0 7 then .error .reservedField else .ok (.vneg (zbit w) (fld w 14 7) (fld w 7 7))
  | 12 => .ok (.vand (zbit w) (fld w 14 7) (fld w 7 7) (fld w 0 7))
  | 13 => .ok (.vor (zbit w) (fld w 14 7) (fld w 7 7) (fld w 0 7))
  | 14 => .ok (.vxor (zbit w) (fld w 14 7) (fld w 7 7) (fld w 0 7))
  | 15 => .ok (.vandn (zbit w) (fld w 14 7) (fld w 7 7) (fld w 0 7))
  | _ => .error .unassignedCode

/-- Major 0x13 (R37): VSHL to VLANE. -/
def decodeMajor13 (w : Nat) : Except DecodeError Instr :=
  match fldNat w 21 4 with
  | 0 => .ok (.vshl (zbit w) (fld w 14 7) (fld w 7 7) (fld w 0 7))
  | 1 => .ok (.vshr (zbit w) (fld w 14 7) (fld w 7 7) (fld w 0 7))
  | 2 => .ok (.vsra (zbit w) (fld w 14 7) (fld w 7 7) (fld w 0 7))
  | 3 => .ok (.vrotl (zbit w) (fld w 14 7) (fld w 7 7) (fld w 0 7))
  | 4 => if resv w 0 7 then .error .reservedField else .ok (.vclz (zbit w) (fld w 14 7) (fld w 7 7))
  | 5 => if resv w 0 7 then .error .reservedField else .ok (.vpopc (zbit w) (fld w 14 7) (fld w 7 7))
  | 6 => if resv w 0 7 then .error .reservedField else .ok (.vbrev (zbit w) (fld w 14 7) (fld w 7 7))
  | 7 => .ok (.vbfx (zbit w) (fld w 14 7) (fld w 7 7) (fld w 0 7))
  | 8 => .ok (.vbfi (zbit w) (fld w 14 7) (fld w 7 7) (fld w 0 7))
  | 9 => .ok (.vadds (zbit w) (fld w 14 7) (fld w 7 7) (fld w 0 7))
  | 10 => .ok (.vsubs (zbit w) (fld w 14 7) (fld w 7 7) (fld w 0 7))
  | 11 => .ok (.vaddsn (zbit w) (fld w 14 7) (fld w 7 7) (fld w 0 7))
  | 12 => .ok (.vsubsn (zbit w) (fld w 14 7) (fld w 7 7) (fld w 0 7))
  | 13 => if resv w 3 4 then .error .reservedField else .ok (.vsel (zbit w) (fld w 14 7) (fld w 7 7) (fld w 0 3))
  | 14 => if resv w 0 7 then .error .reservedField else .ok (.vsplat (zbit w) (fld w 14 7) (fld w 7 7))
  | 15 => if resv w 0 14 then .error .reservedField else .ok (.vlane (zbit w) (fld w 14 7))
  | _ => .error .unassignedCode

/-- Major 0x14 (R37): VADDI. -/
def decodeMajor14 (w : Nat) : Except DecodeError Instr :=
  .ok (.vaddi (zbit w) (fld w 18 7) (fld w 11 7) (fld w 0 11))

/-- Major 0x15 (R37): VSHLI, VSHRI, VSRAI, VROTLI. -/
def decodeMajor15 (w : Nat) : Except DecodeError Instr :=
  match fldNat w 9 2 with
  | 0 => if resv w 5 4 then .error .reservedField else .ok (.vshli (zbit w) (fld w 18 7) (fld w 11 7) (fld w 0 5))
  | 1 => if resv w 5 4 then .error .reservedField else .ok (.vshri (zbit w) (fld w 18 7) (fld w 11 7) (fld w 0 5))
  | 2 => if resv w 5 4 then .error .reservedField else .ok (.vsrai (zbit w) (fld w 18 7) (fld w 11 7) (fld w 0 5))
  | 3 => if resv w 5 4 then .error .reservedField else .ok (.vrotli (zbit w) (fld w 18 7) (fld w 11 7) (fld w 0 5))
  | _ => .error .unassignedCode

/-- Major 0x16 (R37): CEQ, CNE, CLT, CLE, CLTN, CLEN, FEQ, FLT, FLE, FUN, TLT, TLE, TEQ. -/
def decodeMajor16 (w : Nat) : Except DecodeError Instr :=
  match fldNat w 21 4 with
  | 0 => if resv w 17 4 then .error .reservedField else .ok (.ceq (zbit w) (fld w 14 3) (fld w 7 7) (fld w 0 7))
  | 1 => if resv w 17 4 then .error .reservedField else .ok (.cne (zbit w) (fld w 14 3) (fld w 7 7) (fld w 0 7))
  | 2 => if resv w 17 4 then .error .reservedField else .ok (.clt (zbit w) (fld w 14 3) (fld w 7 7) (fld w 0 7))
  | 3 => if resv w 17 4 then .error .reservedField else .ok (.cle (zbit w) (fld w 14 3) (fld w 7 7) (fld w 0 7))
  | 4 => if resv w 17 4 then .error .reservedField else .ok (.cltn (zbit w) (fld w 14 3) (fld w 7 7) (fld w 0 7))
  | 5 => if resv w 17 4 then .error .reservedField else .ok (.clen (zbit w) (fld w 14 3) (fld w 7 7) (fld w 0 7))
  | 6 => if resv w 17 4 then .error .reservedField else .ok (.feq (zbit w) (fld w 14 3) (fld w 7 7) (fld w 0 7))
  | 7 => if resv w 17 4 then .error .reservedField else .ok (.flt (zbit w) (fld w 14 3) (fld w 7 7) (fld w 0 7))
  | 8 => if resv w 17 4 then .error .reservedField else .ok (.fle (zbit w) (fld w 14 3) (fld w 7 7) (fld w 0 7))
  | 9 => if resv w 17 4 then .error .reservedField else .ok (.fun (zbit w) (fld w 14 3) (fld w 7 7) (fld w 0 7))
  | 10 => if resv w 17 4 then .error .reservedField else .ok (.tlt (zbit w) (fld w 14 3) (fld w 7 7) (fld w 0 7))
  | 11 => if resv w 17 4 then .error .reservedField else .ok (.tle (zbit w) (fld w 14 3) (fld w 7 7) (fld w 0 7))
  | 12 => if resv w 17 4 then .error .reservedField else .ok (.teq (zbit w) (fld w 14 3) (fld w 7 7) (fld w 0 7))
  | _ => .error .unassignedCode

/-- Major 0x17 (R37): MAND, MOR, MXOR, MANDN, MNOT, MMOV, MPOP, MFIRST, MTOS, STOM, MSET. -/
def decodeMajor17 (w : Nat) : Except DecodeError Instr :=
  match fldNat w 21 4 with
  | 0 => if resv w 3 4 || resv w 10 4 || resv w 17 4 then .error .reservedField else .ok (.mand (zbit w) (fld w 14 3) (fld w 7 3) (fld w 0 3))
  | 1 => if resv w 3 4 || resv w 10 4 || resv w 17 4 then .error .reservedField else .ok (.mor (zbit w) (fld w 14 3) (fld w 7 3) (fld w 0 3))
  | 2 => if resv w 3 4 || resv w 10 4 || resv w 17 4 then .error .reservedField else .ok (.mxor (zbit w) (fld w 14 3) (fld w 7 3) (fld w 0 3))
  | 3 => if resv w 3 4 || resv w 10 4 || resv w 17 4 then .error .reservedField else .ok (.mandn (zbit w) (fld w 14 3) (fld w 7 3) (fld w 0 3))
  | 4 => if resv w 0 7 || resv w 10 4 || resv w 17 4 then .error .reservedField else .ok (.mnot (zbit w) (fld w 14 3) (fld w 7 3))
  | 5 => if resv w 0 7 || resv w 10 4 || resv w 17 4 then .error .reservedField else .ok (.mmov (zbit w) (fld w 14 3) (fld w 7 3))
  | 6 => if resv w 0 7 || resv w 10 4 then .error .reservedField else .ok (.mpop (zbit w) (fld w 14 7) (fld w 7 3))
  | 7 => if resv w 0 7 || resv w 10 4 then .error .reservedField else .ok (.mfirst (zbit w) (fld w 14 7) (fld w 7 3))
  | 8 => if resv w 0 7 || resv w 10 4 then .error .reservedField else .ok (.mtos (zbit w) (fld w 14 7) (fld w 7 3))
  | 9 => if resv w 0 7 || resv w 17 4 then .error .reservedField else .ok (.stom (zbit w) (fld w 14 3) (fld w 7 7))
  | 10 => if resv w 0 14 || resv w 17 4 then .error .reservedField else .ok (.mset (zbit w) (fld w 14 3))
  | _ => .error .unassignedCode

/-- Major 0x18 (R37): FADD to FCLASS. -/
def decodeMajor18 (w : Nat) : Except DecodeError Instr :=
  match fldNat w 21 4 with
  | 0 => .ok (.fadd (zbit w) (fld w 14 7) (fld w 7 7) (fld w 0 7))
  | 1 => .ok (.fsub (zbit w) (fld w 14 7) (fld w 7 7) (fld w 0 7))
  | 2 => .ok (.fmul (zbit w) (fld w 14 7) (fld w 7 7) (fld w 0 7))
  | 3 => .ok (.fma (zbit w) (fld w 14 7) (fld w 7 7) (fld w 0 7))
  | 4 => .ok (.fms (zbit w) (fld w 14 7) (fld w 7 7) (fld w 0 7))
  | 5 => .ok (.fnma (zbit w) (fld w 14 7) (fld w 7 7) (fld w 0 7))
  | 6 => .ok (.fmin (zbit w) (fld w 14 7) (fld w 7 7) (fld w 0 7))
  | 7 => .ok (.fmax (zbit w) (fld w 14 7) (fld w 7 7) (fld w 0 7))
  | 8 => .ok (.fmini (zbit w) (fld w 14 7) (fld w 7 7) (fld w 0 7))
  | 9 => .ok (.fmaxi (zbit w) (fld w 14 7) (fld w 7 7) (fld w 0 7))
  | 10 => if resv w 0 7 then .error .reservedField else .ok (.fabs (zbit w) (fld w 14 7) (fld w 7 7))
  | 11 => if resv w 0 7 then .error .reservedField else .ok (.fneg (zbit w) (fld w 14 7) (fld w 7 7))
  | 12 => .ok (.fcps (zbit w) (fld w 14 7) (fld w 7 7) (fld w 0 7))
  | 13 => if resv w 0 7 then .error .reservedField else .ok (.frint (zbit w) (fld w 14 7) (fld w 7 7))
  | 14 => .ok (.fscl (zbit w) (fld w 14 7) (fld w 7 7) (fld w 0 7))
  | 15 => if resv w 0 7 then .error .reservedField else .ok (.fclass (zbit w) (fld w 14 7) (fld w 7 7))
  | _ => .error .unassignedCode

/-- Major 0x19 (R37): FCVT. -/
def decodeMajor19 (w : Nat) : Except DecodeError Instr :=
  .ok (.fcvt (zbit w) (fld w 21 4) (fld w 14 7) (fld w 7 7) (fld w 0 7))

/-- Major 0x1A (R37): FDIV. -/
def decodeMajor1A (w : Nat) : Except DecodeError Instr :=
  .ok (.fdiv (zbit w) (fld w 21 4) (fld w 14 7) (fld w 7 7) (fld w 0 7))

/-- Major 0x1B (R37): VTR_SQRT to VTR_COS. -/
def decodeMajor1B (w : Nat) : Except DecodeError Instr :=
  match fldNat w 0 7 with
  | 0 => .ok (.vtrSqrt (zbit w) (fld w 21 4) (fld w 14 7) (fld w 7 7))
  | 1 => .ok (.vtrRcp (zbit w) (fld w 21 4) (fld w 14 7) (fld w 7 7))
  | 2 => .ok (.vtrRsq (zbit w) (fld w 21 4) (fld w 14 7) (fld w 7 7))
  | 3 => .ok (.vtrExp2 (zbit w) (fld w 21 4) (fld w 14 7) (fld w 7 7))
  | 4 => .ok (.vtrLog2 (zbit w) (fld w 21 4) (fld w 14 7) (fld w 7 7))
  | 5 => .ok (.vtrExp (zbit w) (fld w 21 4) (fld w 14 7) (fld w 7 7))
  | 6 => .ok (.vtrTanh (zbit w) (fld w 21 4) (fld w 14 7) (fld w 7 7))
  | 7 => .ok (.vtrSin (zbit w) (fld w 21 4) (fld w 14 7) (fld w 7 7))
  | 8 => .ok (.vtrCos (zbit w) (fld w 21 4) (fld w 14 7) (fld w 7 7))
  | _ => .error .unassignedCode

/-- Major 0x20 (R37): LD. -/
def decodeMajor20 (w : Nat) : Except DecodeError Instr :=
  .ok (.ld (zbit w) (fld w 21 4) (fld w 14 7) (fld w 7 7) (fld w 4 3) (fld w 2 2) (fld w 0 2))

/-- Major 0x21 (R37): ST. -/
def decodeMajor21 (w : Nat) : Except DecodeError Instr :=
  .ok (.st (zbit w) (fld w 21 4) (fld w 14 7) (fld w 7 7) (fld w 4 3) (fld w 2 2) (fld w 0 2))

/-- Major 0x22 (R37): LDS. -/
def decodeMajor22 (w : Nat) : Except DecodeError Instr :=
  .ok (.lds (zbit w) (fld w 21 4) (fld w 14 7) (fld w 7 7) (fld w 4 3) (fld w 2 2) (fld w 0 2))

/-- Major 0x23 (R37): STS. -/
def decodeMajor23 (w : Nat) : Except DecodeError Instr :=
  .ok (.sts (zbit w) (fld w 21 4) (fld w 14 7) (fld w 7 7) (fld w 4 3) (fld w 2 2) (fld w 0 2))

/-- Major 0x24 (R37): LDP. -/
def decodeMajor24 (w : Nat) : Except DecodeError Instr :=
  .ok (.ldp (zbit w) (fld w 21 4) (fld w 14 7) (fld w 7 7) (fld w 4 3) (fld w 2 2) (fld w 0 2))

/-- Major 0x25 (R37): STP. -/
def decodeMajor25 (w : Nat) : Except DecodeError Instr :=
  .ok (.stp (zbit w) (fld w 21 4) (fld w 14 7) (fld w 7 7) (fld w 4 3) (fld w 2 2) (fld w 0 2))

/-- Major 0x26 (R37): PKLD. -/
def decodeMajor26 (w : Nat) : Except DecodeError Instr :=
  .ok (.pkld (zbit w) (fld w 21 4) (fld w 14 7) (fld w 7 7) (fld w 4 3) (fld w 1 3) (fld w 0 1))

/-- Major 0x27 (R37): PKST. -/
def decodeMajor27 (w : Nat) : Except DecodeError Instr :=
  .ok (.pkst (zbit w) (fld w 21 4) (fld w 14 7) (fld w 7 7) (fld w 4 3) (fld w 1 3) (fld w 0 1))

/-- Major 0x28 (R37): ATOM_ADD to ATOM_FADD. -/
def decodeMajor28 (w : Nat) : Except DecodeError Instr :=
  match fldNat w 0 4 with
  | 0 => .ok (.atomAdd (zbit w) (fld w 24 1) (fld w 21 3) (fld w 14 7) (fld w 7 7) (fld w 4 3))
  | 1 => .ok (.atomAnd (zbit w) (fld w 24 1) (fld w 21 3) (fld w 14 7) (fld w 7 7) (fld w 4 3))
  | 2 => .ok (.atomOr (zbit w) (fld w 24 1) (fld w 21 3) (fld w 14 7) (fld w 7 7) (fld w 4 3))
  | 3 => .ok (.atomXor (zbit w) (fld w 24 1) (fld w 21 3) (fld w 14 7) (fld w 7 7) (fld w 4 3))
  | 4 => .ok (.atomMin (zbit w) (fld w 24 1) (fld w 21 3) (fld w 14 7) (fld w 7 7) (fld w 4 3))
  | 5 => .ok (.atomMax (zbit w) (fld w 24 1) (fld w 21 3) (fld w 14 7) (fld w 7 7) (fld w 4 3))
  | 6 => .ok (.atomMinn (zbit w) (fld w 24 1) (fld w 21 3) (fld w 14 7) (fld w 7 7) (fld w 4 3))
  | 7 => .ok (.atomMaxn (zbit w) (fld w 24 1) (fld w 21 3) (fld w 14 7) (fld w 7 7) (fld w 4 3))
  | 8 => .ok (.atomXchg (zbit w) (fld w 24 1) (fld w 21 3) (fld w 14 7) (fld w 7 7) (fld w 4 3))
  | 9 => .ok (.atomInc (zbit w) (fld w 24 1) (fld w 21 3) (fld w 14 7) (fld w 7 7) (fld w 4 3))
  | 10 => .ok (.atomDec (zbit w) (fld w 24 1) (fld w 21 3) (fld w 14 7) (fld w 7 7) (fld w 4 3))
  | 11 => if resv w 24 1 then .error .reservedField else .ok (.atomFadd (zbit w) (fld w 21 3) (fld w 14 7) (fld w 7 7) (fld w 4 3))
  | _ => .error .unassignedCode

/-- Major 0x29 (R37): RED_ADD to RED_FADD. -/
def decodeMajor29 (w : Nat) : Except DecodeError Instr :=
  match fldNat w 0 4 with
  | 0 => .ok (.redAdd (zbit w) (fld w 24 1) (fld w 21 3) (fld w 14 7) (fld w 7 7) (fld w 4 3))
  | 1 => .ok (.redAnd (zbit w) (fld w 24 1) (fld w 21 3) (fld w 14 7) (fld w 7 7) (fld w 4 3))
  | 2 => .ok (.redOr (zbit w) (fld w 24 1) (fld w 21 3) (fld w 14 7) (fld w 7 7) (fld w 4 3))
  | 3 => .ok (.redXor (zbit w) (fld w 24 1) (fld w 21 3) (fld w 14 7) (fld w 7 7) (fld w 4 3))
  | 4 => .ok (.redMin (zbit w) (fld w 24 1) (fld w 21 3) (fld w 14 7) (fld w 7 7) (fld w 4 3))
  | 5 => .ok (.redMax (zbit w) (fld w 24 1) (fld w 21 3) (fld w 14 7) (fld w 7 7) (fld w 4 3))
  | 6 => .ok (.redMinn (zbit w) (fld w 24 1) (fld w 21 3) (fld w 14 7) (fld w 7 7) (fld w 4 3))
  | 7 => .ok (.redMaxn (zbit w) (fld w 24 1) (fld w 21 3) (fld w 14 7) (fld w 7 7) (fld w 4 3))
  | 8 => .ok (.redXchg (zbit w) (fld w 24 1) (fld w 21 3) (fld w 14 7) (fld w 7 7) (fld w 4 3))
  | 9 => .ok (.redInc (zbit w) (fld w 24 1) (fld w 21 3) (fld w 14 7) (fld w 7 7) (fld w 4 3))
  | 10 => .ok (.redDec (zbit w) (fld w 24 1) (fld w 21 3) (fld w 14 7) (fld w 7 7) (fld w 4 3))
  | 11 => if resv w 24 1 then .error .reservedField else .ok (.redFadd (zbit w) (fld w 21 3) (fld w 14 7) (fld w 7 7) (fld w 4 3))
  | _ => .error .unassignedCode

/-- Major 0x2A (R37): CAS. -/
def decodeMajor2A (w : Nat) : Except DecodeError Instr :=
  if resv w 3 1 then .ok (.cas (zbit w) (fld w 21 4) (fld w 14 7) (fld w 7 7) (fld w 4 3) (fld w 2 1) (fld w 0 2)) else .error .unassignedCode

/-- Major 0x2B (R37): WAITC_EQ to WAITC_ANY. -/
def decodeMajor2B (w : Nat) : Except DecodeError Instr :=
  match fldNat w 0 3 with
  | 0 => if resv w 21 4 then .error .reservedField else .ok (.waitcEq (zbit w) (fld w 14 7) (fld w 7 7) (fld w 4 3) (fld w 3 1))
  | 1 => if resv w 21 4 then .error .reservedField else .ok (.waitcNe (zbit w) (fld w 14 7) (fld w 7 7) (fld w 4 3) (fld w 3 1))
  | 2 => if resv w 21 4 then .error .reservedField else .ok (.waitcLt (zbit w) (fld w 14 7) (fld w 7 7) (fld w 4 3) (fld w 3 1))
  | 3 => if resv w 21 4 then .error .reservedField else .ok (.waitcGe (zbit w) (fld w 14 7) (fld w 7 7) (fld w 4 3) (fld w 3 1))
  | 4 => if resv w 21 4 then .error .reservedField else .ok (.waitcLtn (zbit w) (fld w 14 7) (fld w 7 7) (fld w 4 3) (fld w 3 1))
  | 5 => if resv w 21 4 then .error .reservedField else .ok (.waitcGen (zbit w) (fld w 14 7) (fld w 7 7) (fld w 4 3) (fld w 3 1))
  | 6 => if resv w 21 4 then .error .reservedField else .ok (.waitcAny (zbit w) (fld w 14 7) (fld w 7 7) (fld w 4 3) (fld w 3 1))
  | _ => .error .unassignedCode

/-- Major 0x2C (R37): COPY. -/
def decodeMajor2C (w : Nat) : Except DecodeError Instr :=
  .ok (.copy (zbit w) (fld w 21 4) (fld w 14 7) (fld w 7 7) (fld w 0 7))

/-- Major 0x2D (R37): CWAIT to MSQ. -/
def decodeMajor2D (w : Nat) : Except DecodeError Instr :=
  match fldNat w 21 4 with
  | 0 => .ok (.cwait (zbit w) (fld w 14 7) (fld w 7 7) (fld w 0 7))
  | 1 => if resv w 7 7 then .error .reservedField else .ok (.cstat (zbit w) (fld w 14 7) (fld w 0 7))
  | 2 => if resv w 0 7 || resv w 14 7 then .error .reservedField else .ok (.publish (zbit w) (fld w 7 7))
  | 3 => .ok (.shadow (zbit w) (fld w 14 7) (fld w 7 7) (fld w 0 7))
  | 4 => if resv w 0 14 || resv w 17 4 then .error .reservedField else .ok (.fence (zbit w) (fld w 14 3))
  | 5 => if resv w 16 5 then .error .reservedField else .ok (.clean (zbit w) (fld w 14 2) (fld w 7 7) (fld w 0 7))
  | 6 => if resv w 16 5 then .error .reservedField else .ok (.inval (zbit w) (fld w 14 2) (fld w 7 7) (fld w 0 7))
  | 7 => if resv w 16 5 then .error .reservedField else .ok (.clinv (zbit w) (fld w 14 2) (fld w 7 7) (fld w 0 7))
  | 8 => if resv w 0 14 then .error .reservedField else .ok (.mbatch (zbit w) (fld w 14 7))
  | 9 => if resv w 0 7 || resv w 14 7 then .error .reservedField else .ok (.mwait (zbit w) (fld w 7 7))
  | 10 => .ok (.mbx (zbit w) (fld w 14 7) (fld w 7 7) (fld w 0 7))
  | 11 => .ok (.msq (zbit w) (fld w 14 7) (fld w 7 7) (fld w 0 7))
  | _ => .error .unassignedCode

/-- Major 0x30 (R37): TWR. -/
def decodeMajor30 (w : Nat) : Except DecodeError Instr :=
  .ok (.twr (zbit w) (fld w 20 5) (fld w 19 1) (fld w 12 7) (fld w 5 7) (fld w 0 5))

/-- Major 0x31 (R37): TRD. -/
def decodeMajor31 (w : Nat) : Except DecodeError Instr :=
  .ok (.trd (zbit w) (fld w 20 5) (fld w 19 1) (fld w 12 7) (fld w 5 7) (fld w 0 5))

/-- Major 0x32 (R37): MLOOP. -/
def decodeMajor32 (w : Nat) : Except DecodeError Instr :=
  if resv w 21 4 then .error .reservedField else .ok (.mloop (zbit w) (fld w 14 7) (fld w 7 7) (fld w 0 7))

/-- Major 0x33 (R37): HAD. -/
def decodeMajor33 (w : Nat) : Except DecodeError Instr :=
  if resv w 21 4 then .error .reservedField else .ok (.had (zbit w) (fld w 14 7) (fld w 7 7) (fld w 0 7))

/-- Major 0x34 (R37): QNT. -/
def decodeMajor34 (w : Nat) : Except DecodeError Instr :=
  if resv w 21 4 then .error .reservedField else .ok (.qnt (zbit w) (fld w 14 7) (fld w 7 7) (fld w 0 7))

/-- Major 0x35 (R37): TDR_DIFF, TDR_CANC, TDR_AGREE, TDR_RAW. -/
def decodeMajor35 (w : Nat) : Except DecodeError Instr :=
  match fldNat w 0 7 with
  | 0 => if resv w 21 4 then .error .reservedField else .ok (.tdrDiff (zbit w) (fld w 14 7) (fld w 7 7))
  | 1 => if resv w 21 4 then .error .reservedField else .ok (.tdrCanc (zbit w) (fld w 14 7) (fld w 7 7))
  | 2 => if resv w 21 4 then .error .reservedField else .ok (.tdrAgree (zbit w) (fld w 14 7) (fld w 7 7))
  | 3 => if resv w 21 4 then .error .reservedField else .ok (.tdrRaw (zbit w) (fld w 14 7) (fld w 7 7))
  | _ => .error .unassignedCode

/-- Major 0x36 (R37): TZERO, TCOPY, TSTAT, TSETS. -/
def decodeMajor36 (w : Nat) : Except DecodeError Instr :=
  match fldNat w 21 4 with
  | 0 => if resv w 0 14 then .error .reservedField else .ok (.tzero (zbit w) (fld w 14 7))
  | 1 => if resv w 0 7 then .error .reservedField else .ok (.tcopy (zbit w) (fld w 14 7) (fld w 7 7))
  | 2 => .ok (.tstat (zbit w) (fld w 14 7) (fld w 7 7) (fld w 0 7))
  | 3 => .ok (.tsets (zbit w) (fld w 14 7) (fld w 7 7) (fld w 0 7))
  | _ => .error .unassignedCode

/-- Major 0x38 (R37): KVLD. -/
def decodeMajor38 (w : Nat) : Except DecodeError Instr :=
  .ok (.kvld (zbit w) (fld w 21 4) (fld w 14 7) (fld w 7 7) (fld w 0 7))

/-- Major 0x39 (R37): KVAPP, KVFORK, KVTRIM, KVQ, KVPIN, KVUNPIN. -/
def decodeMajor39 (w : Nat) : Except DecodeError Instr :=
  match fldNat w 21 4 with
  | 0 => .ok (.kvapp (zbit w) (fld w 14 7) (fld w 7 7) (fld w 0 7))
  | 1 => .ok (.kvfork (zbit w) (fld w 14 7) (fld w 7 7) (fld w 0 7))
  | 2 => if resv w 0 7 then .error .reservedField else .ok (.kvtrim (zbit w) (fld w 14 7) (fld w 7 7))
  | 3 => .ok (.kvq (zbit w) (fld w 14 7) (fld w 7 7) (fld w 0 7))
  | 4 => if resv w 0 7 || resv w 14 7 then .error .reservedField else .ok (.kvpin (zbit w) (fld w 7 7))
  | 5 => if resv w 0 7 || resv w 14 7 then .error .reservedField else .ok (.kvunpin (zbit w) (fld w 7 7))
  | _ => .error .unassignedCode

/-- Major 0x3A (R37): PASS, TAKE, QUERY. -/
def decodeMajor3A (w : Nat) : Except DecodeError Instr :=
  match fldNat w 21 4 with
  | 0 => if resv w 0 7 then .error .reservedField else .ok (.pass (zbit w) (fld w 14 7) (fld w 7 7))
  | 1 => if resv w 0 7 then .error .reservedField else .ok (.take (zbit w) (fld w 14 7) (fld w 7 7))
  | 2 => if resv w 0 14 then .error .reservedField else .ok (.query (zbit w) (fld w 14 7))
  | _ => .error .unassignedCode

/-- Major 0x3B (R37): BAR, GBAR, ARRIVE, AWAIT, TOKW, TOKP, TICKQ, LAUNCH. -/
def decodeMajor3B (w : Nat) : Except DecodeError Instr :=
  match fldNat w 21 4 with
  | 0 => if resv w 0 21 then .error .reservedField else .ok (.bar (zbit w))
  | 1 => if resv w 0 7 || resv w 14 7 then .error .reservedField else .ok (.gbar (zbit w) (fld w 7 7))
  | 2 => if resv w 0 7 then .error .reservedField else .ok (.arrive (zbit w) (fld w 14 7) (fld w 7 7))
  | 3 => if resv w 14 7 then .error .reservedField else .ok (.await (zbit w) (fld w 7 7) (fld w 0 7))
  | 4 => if resv w 0 21 then .error .reservedField else .ok (.tokw (zbit w))
  | 5 => if resv w 0 21 then .error .reservedField else .ok (.tokp (zbit w))
  | 6 => if resv w 7 7 then .error .reservedField else .ok (.tickq (zbit w) (fld w 14 7) (fld w 0 7))
  | 7 => if resv w 0 7 then .error .reservedField else .ok (.launch (zbit w) (fld w 14 7) (fld w 7 7))
  | _ => .error .unassignedCode

/-- Major 0x3C (R37): WEAVE to ALGET. -/
noncomputable def decodeMajor3C (w : Nat) : Except DecodeError Instr :=
  match fldNat w 21 4 with
  | 0 => if resv w 2 5 then .error .reservedField else .ok (.weave (zbit w) (fld w 14 7) (fld w 7 7) (fld w 0 2))
  | 1 => if resv w 0 7 || resv w 16 5 then .error .reservedField else .ok (.wdraft (zbit w) (fld w 14 2) (fld w 7 7))
  | 2 => .ok (.shfl (zbit w) (fld w 14 7) (fld w 7 7) (fld w 0 7))
  | 3 => if resv w 1 6 then .error .reservedField else .ok (.rsum (zbit w) (fld w 14 7) (fld w 7 7) (fld w 0 1))
  | 4 => if resv w 2 5 then .error .reservedField else .ok (.rmin (zbit w) (fld w 14 7) (fld w 7 7) (fld w 0 2))
  | 5 => if resv w 2 5 then .error .reservedField else .ok (.rmax (zbit w) (fld w 14 7) (fld w 7 7) (fld w 0 2))
  | 6 => if resv w 2 5 then .error .reservedField else .ok (.argmin (zbit w) (fld w 14 7) (fld w 7 7) (fld w 0 2))
  | 7 => if resv w 2 5 then .error .reservedField else .ok (.argmax (zbit w) (fld w 14 7) (fld w 7 7) (fld w 0 2))
  | 8 => if resv w 1 6 then .error .reservedField else .ok (.scan (zbit w) (fld w 14 7) (fld w 7 7) (fld w 0 1))
  | 9 => if resv w 3 4 then .error .reservedField else .ok (.pkx (zbit w) (fld w 14 7) (fld w 7 7) (fld w 0 3))
  | 10 => if resv w 3 4 then .error .reservedField else .ok (.pki (zbit w) (fld w 14 7) (fld w 7 7) (fld w 0 3))
  | 11 => if resv w 0 7 || resv w 17 4 then .error .reservedField else .ok (.alset (zbit w) (fld w 14 3) (fld w 7 7))
  | 12 => if resv w 0 7 || resv w 10 4 then .error .reservedField else .ok (.alget (zbit w) (fld w 14 7) (fld w 7 3))
  | _ => .error .unassignedCode

/-- Major 0x3D (R37): RAND, FXSPLIT, FXJOIN, CRC, CLK. -/
noncomputable def decodeMajor3D (w : Nat) : Except DecodeError Instr :=
  match fldNat w 21 4 with
  | 0 => .ok (.rand (zbit w) (fld w 14 7) (fld w 7 7) (fld w 0 7))
  | 1 => if resv w 0 7 then .error .reservedField else .ok (.fxsplit (zbit w) (fld w 14 7) (fld w 7 7))
  | 2 => .ok (.fxjoin (zbit w) (fld w 14 7) (fld w 7 7) (fld w 0 7))
  | 3 => .ok (.crc (zbit w) (fld w 14 7) (fld w 7 7) (fld w 0 7))
  | 4 => if resv w 7 7 then .error .reservedField else .ok (.clk (zbit w) (fld w 14 7) (fld w 0 7))
  | _ => .error .unassignedCode

/-- Major 0x3F (R37): ERET, GRD, GWR, GRES, GKILL, TQPOP, XSET, CKPT. -/
noncomputable def decodeMajor3F (w : Nat) : Except DecodeError Instr :=
  match fldNat w 21 4 with
  | 0 => if resv w 0 21 then .error .reservedField else .ok (.eret (zbit w))
  | 1 => if resv w 0 7 then .error .reservedField else .ok (.grd (zbit w) (fld w 14 7) (fld w 7 7))
  | 2 => if resv w 14 7 then .error .reservedField else .ok (.gwr (zbit w) (fld w 7 7) (fld w 0 7))
  | 3 => if resv w 0 7 || resv w 14 7 then .error .reservedField else .ok (.gres (zbit w) (fld w 7 7))
  | 4 => if resv w 14 7 then .error .reservedField else .ok (.gkill (zbit w) (fld w 7 7) (fld w 0 7))
  | 5 => .ok (.tqpop (zbit w) (fld w 14 7) (fld w 7 7) (fld w 0 7))
  | 6 => if resv w 14 7 then .error .reservedField else .ok (.xset (zbit w) (fld w 7 7) (fld w 0 7))
  | 7 => .ok (.ckpt (zbit w) (fld w 14 7) (fld w 7 7) (fld w 0 7))
  | _ => .error .unassignedCode

/-- Decodes one word (R23, R37); majors not listed are reserved (R38). -/
noncomputable def decode (w : Nat) : Except DecodeError Instr :=
  match fldNat w 25 6 with
  | 0x00 => decodeMajor00 w
  | 0x01 => decodeMajor01 w
  | 0x02 => decodeMajor02 w
  | 0x03 => decodeMajor03 w
  | 0x04 => decodeMajor04 w
  | 0x05 => decodeMajor05 w
  | 0x06 => decodeMajor06 w
  | 0x07 => decodeMajor07 w
  | 0x08 => decodeMajor08 w
  | 0x09 => decodeMajor09 w
  | 0x0A => decodeMajor0A w
  | 0x0B => decodeMajor0B w
  | 0x0C => decodeMajor0C w
  | 0x0D => decodeMajor0D w
  | 0x0E => decodeMajor0E w
  | 0x0F => decodeMajor0F w
  | 0x10 => decodeMajor10 w
  | 0x11 => decodeMajor11 w
  | 0x12 => decodeMajor12 w
  | 0x13 => decodeMajor13 w
  | 0x14 => decodeMajor14 w
  | 0x15 => decodeMajor15 w
  | 0x16 => decodeMajor16 w
  | 0x17 => decodeMajor17 w
  | 0x18 => decodeMajor18 w
  | 0x19 => decodeMajor19 w
  | 0x1A => decodeMajor1A w
  | 0x1B => decodeMajor1B w
  | 0x20 => decodeMajor20 w
  | 0x21 => decodeMajor21 w
  | 0x22 => decodeMajor22 w
  | 0x23 => decodeMajor23 w
  | 0x24 => decodeMajor24 w
  | 0x25 => decodeMajor25 w
  | 0x26 => decodeMajor26 w
  | 0x27 => decodeMajor27 w
  | 0x28 => decodeMajor28 w
  | 0x29 => decodeMajor29 w
  | 0x2A => decodeMajor2A w
  | 0x2B => decodeMajor2B w
  | 0x2C => decodeMajor2C w
  | 0x2D => decodeMajor2D w
  | 0x30 => decodeMajor30 w
  | 0x31 => decodeMajor31 w
  | 0x32 => decodeMajor32 w
  | 0x33 => decodeMajor33 w
  | 0x34 => decodeMajor34 w
  | 0x35 => decodeMajor35 w
  | 0x36 => decodeMajor36 w
  | 0x38 => decodeMajor38 w
  | 0x39 => decodeMajor39 w
  | 0x3A => decodeMajor3A w
  | 0x3B => decodeMajor3B w
  | 0x3C => decodeMajor3C w
  | 0x3D => decodeMajor3D w
  | 0x3F => decodeMajor3F w
  | _ => .error .reservedMajor

/-- The word of four bytes at rising addresses, little-endian (R22). -/
def wordOfBytes (b0 b1 b2 b3 : Byte) : Nat :=
  b0.toNat + 256 * b1.toNat + 65536 * b2.toNat + 16777216 * b3.toNat

/-- Decodes the instruction at the front of a list of bytes and returns the bytes after it. -/
noncomputable def decodeBytes : List Byte → Except DecodeError (Instr × List Byte)
  | b0 :: b1 :: b2 :: b3 :: rest =>
    match decode (wordOfBytes b0 b1 b2 b3) with
    | .ok i => .ok (i, rest)
    | .error e => .error e
  | _ => .error .tooShort

/-- The bytes of a word as memory stores them (R22). -/
def bytesOfWord (w : Nat) : List Byte :=
  [BitVec.ofNat 8 w, BitVec.ofNat 8 (w / 256), BitVec.ofNat 8 (w / 65536), BitVec.ofNat 8 (w / 16777216)]

/-- The instruction of a row of the opcode table whose bits are w: every row has 32 bits, and bits above
nbits are zero. -/
noncomputable def decodeTableWord (nbits w : Nat) : Option Instr :=
  match decodeBytes (bytesOfWord (w % 2 ^ nbits)) with
  | .ok (i, _) => some i
  | .error _ => none

/-! ## The encoder -/

/-- The run-boundary bit as a number (R23). -/
def zNat (z : Bool) : Nat := if z then 0x80000000 else 0

/-- Fields d at [20:14], a at [13:7], b at [6:0] beside the fixed bits (R23, R24). -/
def packD14A7B0 (z : Bool) (base : Nat) (d : BitVec 7) (a : BitVec 7) (b : BitVec 7) : Nat :=
  zNat z + base + d.toNat * 16384 + a.toNat * 128 + b.toNat

/-- Fields d at [20:14], a at [13:7] beside the fixed bits (R23, R24). -/
def packD14A7 (z : Bool) (base : Nat) (d : BitVec 7) (a : BitVec 7) : Nat :=
  zNat z + base + d.toNat * 16384 + a.toNat * 128

/-- Fields d at [24:18], a at [17:11], i at [10:0] beside the fixed bits (R23, R24). -/
def packD18A11I0 (z : Bool) (base : Nat) (d : BitVec 7) (a : BitVec 7) (i : BitVec 11) : Nat :=
  zNat z + base + d.toNat * 262144 + a.toNat * 2048 + i.toNat

/-- Fields d at [24:18], a at [17:11], n at [5:0] beside the fixed bits (R23, R24). -/
def packD18A11N0 (z : Bool) (base : Nat) (d : BitVec 7) (a : BitVec 7) (n : BitVec 6) : Nat :=
  zNat z + base + d.toNat * 262144 + a.toNat * 2048 + n.toNat

/-- Fields d at [24:18], i at [17:0] beside the fixed bits (R23, R24). -/
def packD18I0 (z : Bool) (base : Nat) (d : BitVec 7) (i : BitVec 18) : Nat :=
  zNat z + base + d.toNat * 262144 + i.toNat

/-- Fields d at [24:18], i at [10:0] beside the fixed bits (R23, R24). -/
def packD18I0W7_11 (z : Bool) (base : Nat) (d : BitVec 7) (i : BitVec 11) : Nat :=
  zNat z + base + d.toNat * 262144 + i.toNat

/-- Fields a at [17:11], i at [10:0] beside the fixed bits (R23, R24). -/
def packA11I0 (z : Bool) (base : Nat) (a : BitVec 7) (i : BitVec 11) : Nat :=
  zNat z + base + a.toNat * 2048 + i.toNat

/-- Fields a at [17:11], n at [2:0] beside the fixed bits (R23, R24). -/
def packA11N0 (z : Bool) (base : Nat) (a : BitVec 7) (n : BitVec 3) : Nat :=
  zNat z + base + a.toNat * 2048 + n.toNat

/-- Fields a at [20:14], i at [13:0] beside the fixed bits (R23, R24). -/
def packA14I0 (z : Bool) (base : Nat) (a : BitVec 7) (i : BitVec 14) : Nat :=
  zNat z + base + a.toNat * 16384 + i.toNat

/-- Fields i at [13:0] beside the fixed bits (R23, R24). -/
def packI0 (z : Bool) (base : Nat) (i : BitVec 14) : Nat :=
  zNat z + base + i.toNat

/-- Fields a at [16:14], i at [13:0] beside the fixed bits (R23, R24). -/
def packA14I0W3_14 (z : Bool) (base : Nat) (a : BitVec 3) (i : BitVec 14) : Nat :=
  zNat z + base + a.toNat * 16384 + i.toNat

/-- Fields i at [20:0] beside the fixed bits (R23, R24). -/
def packI0W21 (z : Bool) (base : Nat) (i : BitVec 21) : Nat :=
  zNat z + base + i.toNat

/-- No field beside the fixed bits (R23). -/
def pack (z : Bool) (base : Nat) : Nat :=
  zNat z + base

/-- Fields a at [13:7] beside the fixed bits (R23, R24). -/
def packA7 (z : Bool) (base : Nat) (a : BitVec 7) : Nat :=
  zNat z + base + a.toNat * 128

/-- Fields d at [20:14], a at [13:7], m at [2:0] beside the fixed bits (R23, R24). -/
def packD14A7M0 (z : Bool) (base : Nat) (d : BitVec 7) (a : BitVec 7) (m : BitVec 3) : Nat :=
  zNat z + base + d.toNat * 16384 + a.toNat * 128 + m.toNat

/-- Fields d at [20:14] beside the fixed bits (R23, R24). -/
def packD14 (z : Bool) (base : Nat) (d : BitVec 7) : Nat :=
  zNat z + base + d.toNat * 16384

/-- Fields d at [24:18], a at [17:11], n at [4:0] beside the fixed bits (R23, R24). -/
def packD18A11N0W7_7_5 (z : Bool) (base : Nat) (d : BitVec 7) (a : BitVec 7) (n : BitVec 5) : Nat :=
  zNat z + base + d.toNat * 262144 + a.toNat * 2048 + n.toNat

/-- Fields d at [16:14], a at [13:7], b at [6:0] beside the fixed bits (R23, R24). -/
def packD14A7B0W3_7_7 (z : Bool) (base : Nat) (d : BitVec 3) (a : BitVec 7) (b : BitVec 7) : Nat :=
  zNat z + base + d.toNat * 16384 + a.toNat * 128 + b.toNat

/-- Fields d at [16:14], a at [9:7], b at [2:0] beside the fixed bits (R23, R24). -/
def packD14A7B0W3_3_3 (z : Bool) (base : Nat) (d : BitVec 3) (a : BitVec 3) (b : BitVec 3) : Nat :=
  zNat z + base + d.toNat * 16384 + a.toNat * 128 + b.toNat

/-- Fields d at [16:14], a at [9:7] beside the fixed bits (R23, R24). -/
def packD14A7W3_3 (z : Bool) (base : Nat) (d : BitVec 3) (a : BitVec 3) : Nat :=
  zNat z + base + d.toNat * 16384 + a.toNat * 128

/-- Fields d at [20:14], a at [9:7] beside the fixed bits (R23, R24). -/
def packD14A7W7_3 (z : Bool) (base : Nat) (d : BitVec 7) (a : BitVec 3) : Nat :=
  zNat z + base + d.toNat * 16384 + a.toNat * 128

/-- Fields d at [16:14], a at [13:7] beside the fixed bits (R23, R24). -/
def packD14A7W3_7 (z : Bool) (base : Nat) (d : BitVec 3) (a : BitVec 7) : Nat :=
  zNat z + base + d.toNat * 16384 + a.toNat * 128

/-- Fields d at [16:14] beside the fixed bits (R23, R24). -/
def packD14W3 (z : Bool) (base : Nat) (d : BitVec 3) : Nat :=
  zNat z + base + d.toNat * 16384

/-- Fields r at [24:21], d at [20:14], a at [13:7], c at [6:0] beside the fixed bits (R23, R24). -/
def packR21D14A7C0 (z : Bool) (base : Nat) (r : BitVec 4) (d : BitVec 7) (a : BitVec 7) (c : BitVec 7) : Nat :=
  zNat z + base + r.toNat * 2097152 + d.toNat * 16384 + a.toNat * 128 + c.toNat

/-- Fields l at [24:21], d at [20:14], a at [13:7], b at [6:0] beside the fixed bits (R23, R24). -/
def packL21D14A7B0 (z : Bool) (base : Nat) (l : BitVec 4) (d : BitVec 7) (a : BitVec 7) (b : BitVec 7) : Nat :=
  zNat z + base + l.toNat * 2097152 + d.toNat * 16384 + a.toNat * 128 + b.toNat

/-- Fields l at [24:21], d at [20:14], a at [13:7] beside the fixed bits (R23, R24). -/
def packL21D14A7 (z : Bool) (base : Nat) (l : BitVec 4) (d : BitVec 7) (a : BitVec 7) : Nat :=
  zNat z + base + l.toNat * 2097152 + d.toNat * 16384 + a.toNat * 128

/-- Fields l at [24:21], d at [20:14], a at [13:7], x at [6:4], w at [3:2], h at [1:0] beside the fixed bits (R23, R24). -/
def packL21D14A7X4W2H0 (z : Bool) (base : Nat) (l : BitVec 4) (d : BitVec 7) (a : BitVec 7) (x : BitVec 3) (w : BitVec 2) (h : BitVec 2) : Nat :=
  zNat z + base + l.toNat * 2097152 + d.toNat * 16384 + a.toNat * 128 + x.toNat * 16 + w.toNat * 4 + h.toNat

/-- Fields l at [24:21], d at [20:14], a at [13:7], p at [6:4], w at [3:2], h at [1:0] beside the fixed bits (R23, R24). -/
def packL21D14A7P4W2H0 (z : Bool) (base : Nat) (l : BitVec 4) (d : BitVec 7) (a : BitVec 7) (p : BitVec 3) (w : BitVec 2) (h : BitVec 2) : Nat :=
  zNat z + base + l.toNat * 2097152 + d.toNat * 16384 + a.toNat * 128 + p.toNat * 16 + w.toNat * 4 + h.toNat

/-- Fields l at [24:21], d at [20:14], a at [13:7], x at [6:4], g at [3:1], h at [0:0] beside the fixed bits (R23, R24). -/
def packL21D14A7X4G1H0 (z : Bool) (base : Nat) (l : BitVec 4) (d : BitVec 7) (a : BitVec 7) (x : BitVec 3) (g : BitVec 3) (h : BitVec 1) : Nat :=
  zNat z + base + l.toNat * 2097152 + d.toNat * 16384 + a.toNat * 128 + x.toNat * 16 + g.toNat * 2 + h.toNat

/-- Fields w at [24:24], l at [23:21], d at [20:14], a at [13:7], x at [6:4] beside the fixed bits (R23, R24). -/
def packW24L21D14A7X4 (z : Bool) (base : Nat) (w : BitVec 1) (l : BitVec 3) (d : BitVec 7) (a : BitVec 7) (x : BitVec 3) : Nat :=
  zNat z + base + w.toNat * 16777216 + l.toNat * 2097152 + d.toNat * 16384 + a.toNat * 128 + x.toNat * 16

/-- Fields l at [23:21], d at [20:14], a at [13:7], x at [6:4] beside the fixed bits (R23, R24). -/
def packL21D14A7X4 (z : Bool) (base : Nat) (l : BitVec 3) (d : BitVec 7) (a : BitVec 7) (x : BitVec 3) : Nat :=
  zNat z + base + l.toNat * 2097152 + d.toNat * 16384 + a.toNat * 128 + x.toNat * 16

/-- Fields l at [24:21], d at [20:14], a at [13:7], x at [6:4], w at [2:2], h at [1:0] beside the fixed bits (R23, R24). -/
def packL21D14A7X4W2H0W4_7_7_3_1_2 (z : Bool) (base : Nat) (l : BitVec 4) (d : BitVec 7) (a : BitVec 7) (x : BitVec 3) (w : BitVec 1) (h : BitVec 2) : Nat :=
  zNat z + base + l.toNat * 2097152 + d.toNat * 16384 + a.toNat * 128 + x.toNat * 16 + w.toNat * 4 + h.toNat

/-- Fields d at [20:14], a at [13:7], x at [6:4], t at [3:3] beside the fixed bits (R23, R24). -/
def packD14A7X4T3 (z : Bool) (base : Nat) (d : BitVec 7) (a : BitVec 7) (x : BitVec 3) (t : BitVec 1) : Nat :=
  zNat z + base + d.toNat * 16384 + a.toNat * 128 + x.toNat * 16 + t.toNat * 8

/-- Fields d at [20:14], b at [6:0] beside the fixed bits (R23, R24). -/
def packD14B0 (z : Bool) (base : Nat) (d : BitVec 7) (b : BitVec 7) : Nat :=
  zNat z + base + d.toNat * 16384 + b.toNat

/-- Fields k at [16:14] beside the fixed bits (R23, R24). -/
def packK14 (z : Bool) (base : Nat) (k : BitVec 3) : Nat :=
  zNat z + base + k.toNat * 16384

/-- Fields v at [15:14], a at [13:7], b at [6:0] beside the fixed bits (R23, R24). -/
def packV14A7B0 (z : Bool) (base : Nat) (v : BitVec 2) (a : BitVec 7) (b : BitVec 7) : Nat :=
  zNat z + base + v.toNat * 16384 + a.toNat * 128 + b.toNat

/-- Fields t at [24:20], r at [19:19], k at [18:12], v at [11:5], i at [4:0] beside the fixed bits (R23, R24). -/
def packT20R19K12V5I0 (z : Bool) (base : Nat) (t : BitVec 5) (r : BitVec 1) (k : BitVec 7) (v : BitVec 7) (i : BitVec 5) : Nat :=
  zNat z + base + t.toNat * 1048576 + r.toNat * 524288 + k.toNat * 4096 + v.toNat * 32 + i.toNat

/-- Fields a at [13:7], b at [6:0] beside the fixed bits (R23, R24). -/
def packA7B0 (z : Bool) (base : Nat) (a : BitVec 7) (b : BitVec 7) : Nat :=
  zNat z + base + a.toNat * 128 + b.toNat

/-- Fields d at [20:14], a at [13:7], n at [1:0] beside the fixed bits (R23, R24). -/
def packD14A7N0 (z : Bool) (base : Nat) (d : BitVec 7) (a : BitVec 7) (n : BitVec 2) : Nat :=
  zNat z + base + d.toNat * 16384 + a.toNat * 128 + n.toNat

/-- Fields n at [15:14], a at [13:7] beside the fixed bits (R23, R24). -/
def packN14A7 (z : Bool) (base : Nat) (n : BitVec 2) (a : BitVec 7) : Nat :=
  zNat z + base + n.toNat * 16384 + a.toNat * 128

/-- Fields d at [20:14], a at [13:7], t at [0:0] beside the fixed bits (R23, R24). -/
def packD14A7T0 (z : Bool) (base : Nat) (d : BitVec 7) (a : BitVec 7) (t : BitVec 1) : Nat :=
  zNat z + base + d.toNat * 16384 + a.toNat * 128 + t.toNat

/-- Fields d at [20:14], a at [13:7], t at [1:0] beside the fixed bits (R23, R24). -/
def packD14A7T0W7_7_2 (z : Bool) (base : Nat) (d : BitVec 7) (a : BitVec 7) (t : BitVec 2) : Nat :=
  zNat z + base + d.toNat * 16384 + a.toNat * 128 + t.toNat

/-- Fields d at [20:14], a at [13:7], g at [2:0] beside the fixed bits (R23, R24). -/
def packD14A7G0 (z : Bool) (base : Nat) (d : BitVec 7) (a : BitVec 7) (g : BitVec 3) : Nat :=
  zNat z + base + d.toNat * 16384 + a.toNat * 128 + g.toNat

/-- Fields g at [16:14], a at [13:7] beside the fixed bits (R23, R24). -/
def packG14A7 (z : Bool) (base : Nat) (g : BitVec 3) (a : BitVec 7) : Nat :=
  zNat z + base + g.toNat * 16384 + a.toNat * 128

/-- Fields d at [20:14], g at [9:7] beside the fixed bits (R23, R24). -/
def packD14G7 (z : Bool) (base : Nat) (d : BitVec 7) (g : BitVec 3) : Nat :=
  zNat z + base + d.toNat * 16384 + g.toNat * 128

/-- Fields d at [20:14], a at [13:7], o at [6:0] beside the fixed bits (R23, R24). -/
def packD14A7O0 (z : Bool) (base : Nat) (d : BitVec 7) (a : BitVec 7) (o : BitVec 7) : Nat :=
  zNat z + base + d.toNat * 16384 + a.toNat * 128 + o.toNat

/-- The word of an instruction (R23, R24, R37); the events of the module have no encoding. -/
def encode : Instr → Option Nat
  | .add z d a b => some (packD14A7B0 z 0x00000000 d a b)
  | .sub z d a b => some (packD14A7B0 z 0x00200000 d a b)
  | .and z d a b => some (packD14A7B0 z 0x00400000 d a b)
  | .or z d a b => some (packD14A7B0 z 0x00600000 d a b)
  | .xor z d a b => some (packD14A7B0 z 0x00800000 d a b)
  | .shl z d a b => some (packD14A7B0 z 0x00A00000 d a b)
  | .shr z d a b => some (packD14A7B0 z 0x00C00000 d a b)
  | .sra z d a b => some (packD14A7B0 z 0x00E00000 d a b)
  | .mul z d a b => some (packD14A7B0 z 0x01000000 d a b)
  | .mulh z d a b => some (packD14A7B0 z 0x01200000 d a b)
  | .mulhn z d a b => some (packD14A7B0 z 0x01400000 d a b)
  | .min z d a b => some (packD14A7B0 z 0x01600000 d a b)
  | .max z d a b => some (packD14A7B0 z 0x01800000 d a b)
  | .minn z d a b => some (packD14A7B0 z 0x01A00000 d a b)
  | .maxn z d a b => some (packD14A7B0 z 0x01C00000 d a b)
  | .andn z d a b => some (packD14A7B0 z 0x01E00000 d a b)
  | .slt z d a b => some (packD14A7B0 z 0x02000000 d a b)
  | .sltn z d a b => some (packD14A7B0 z 0x02200000 d a b)
  | .seq z d a b => some (packD14A7B0 z 0x02400000 d a b)
  | .clz z d a => some (packD14A7 z 0x02600000 d a)
  | .popc z d a => some (packD14A7 z 0x02800000 d a)
  | .brev z d a => some (packD14A7 z 0x02A00000 d a)
  | .rotl z d a b => some (packD14A7B0 z 0x02C00000 d a b)
  | .bfx z d a b => some (packD14A7B0 z 0x02E00000 d a b)
  | .bfi z d a b => some (packD14A7B0 z 0x03000000 d a b)
  | .div z d a b => some (packD14A7B0 z 0x03200000 d a b)
  | .divn z d a b => some (packD14A7B0 z 0x03400000 d a b)
  | .rem z d a b => some (packD14A7B0 z 0x03600000 d a b)
  | .remn z d a b => some (packD14A7B0 z 0x03800000 d a b)
  | .csel z d a b => some (packD14A7B0 z 0x03A00000 d a b)
  | .addw z d a b => some (packD14A7B0 z 0x03C00000 d a b)
  | .addi z d a i => some (packD18A11I0 z 0x04000000 d a i)
  | .andi z d a i => some (packD18A11I0 z 0x06000000 d a i)
  | .ori z d a i => some (packD18A11I0 z 0x08000000 d a i)
  | .xori z d a i => some (packD18A11I0 z 0x0A000000 d a i)
  | .shli z d a n => some (packD18A11N0 z 0x0C000000 d a n)
  | .shri z d a n => some (packD18A11N0 z 0x0C000200 d a n)
  | .srai z d a n => some (packD18A11N0 z 0x0C000400 d a n)
  | .rotli z d a n => some (packD18A11N0 z 0x0C000600 d a n)
  | .slti z d a i => some (packD18A11I0 z 0x0E000000 d a i)
  | .li z d i => some (packD18I0 z 0x10000000 d i)
  | .lis z d i => some (packD18I0 z 0x12000000 d i)
  | .gets z d i => some (packD18I0W7_11 z 0x14000000 d i)
  | .sets z a i => some (packA11I0 z 0x16000000 a i)
  | .xlt z a n => some (packA11N0 z 0x16000100 a n)
  | .setsXsp z a n => some (packA11N0 z 0x16000118 a n)
  | .win z a i => some (packA11I0 z 0x18000000 a i)
  | .bruEqz z a i => some (packA14I0 z 0x1A000000 a i)
  | .bruNez z a i => some (packA14I0 z 0x1A200000 a i)
  | .bruLtz z a i => some (packA14I0 z 0x1A400000 a i)
  | .bruGez z a i => some (packA14I0 z 0x1A600000 a i)
  | .bruGtz z a i => some (packA14I0 z 0x1A800000 a i)
  | .bruLez z a i => some (packA14I0 z 0x1AA00000 a i)
  | .bruAlw z i => some (packI0 z 0x1AC00000 i)
  | .brdSet z a i => some (packA14I0W3_14 z 0x1C000000 a i)
  | .brdClr z a i => some (packA14I0W3_14 z 0x1C200000 a i)
  | .jmp z i => some (packI0W21 z 0x1E000000 i)
  | .call z i => some (packI0W21 z 0x1E200000 i)
  | .nop z => some (pack z 0x20000000)
  | .ret z => some (pack z 0x20200000)
  | .jr z a => some (packA7 z 0x20400000 a)
  | .callr z a => some (packA7 z 0x20600000 a)
  | .join z => some (pack z 0x20800000)
  | .exit z => some (pack z 0x20A00000)
  | .yield z => some (pack z 0x20C00000)
  | .brk z => some (pack z 0x20E00000)
  | .trap z d a i => some (packD18A11I0 z 0x22000000 d a i)
  | .vadd z d a b => some (packD14A7B0 z 0x24000000 d a b)
  | .vsub z d a b => some (packD14A7B0 z 0x24200000 d a b)
  | .vmul z d a b => some (packD14A7B0 z 0x24400000 d a b)
  | .vmulh z d a b => some (packD14A7B0 z 0x24600000 d a b)
  | .vmulhn z d a b => some (packD14A7B0 z 0x24800000 d a b)
  | .vmad z d a b => some (packD14A7B0 z 0x24A00000 d a b)
  | .vmin z d a b => some (packD14A7B0 z 0x24C00000 d a b)
  | .vmax z d a b => some (packD14A7B0 z 0x24E00000 d a b)
  | .vminn z d a b => some (packD14A7B0 z 0x25000000 d a b)
  | .vmaxn z d a b => some (packD14A7B0 z 0x25200000 d a b)
  | .vabs z d a => some (packD14A7 z 0x25400000 d a)
  | .vneg z d a => some (packD14A7 z 0x25600000 d a)
  | .vand z d a b => some (packD14A7B0 z 0x25800000 d a b)
  | .vor z d a b => some (packD14A7B0 z 0x25A00000 d a b)
  | .vxor z d a b => some (packD14A7B0 z 0x25C00000 d a b)
  | .vandn z d a b => some (packD14A7B0 z 0x25E00000 d a b)
  | .vshl z d a b => some (packD14A7B0 z 0x26000000 d a b)
  | .vshr z d a b => some (packD14A7B0 z 0x26200000 d a b)
  | .vsra z d a b => some (packD14A7B0 z 0x26400000 d a b)
  | .vrotl z d a b => some (packD14A7B0 z 0x26600000 d a b)
  | .vclz z d a => some (packD14A7 z 0x26800000 d a)
  | .vpopc z d a => some (packD14A7 z 0x26A00000 d a)
  | .vbrev z d a => some (packD14A7 z 0x26C00000 d a)
  | .vbfx z d a b => some (packD14A7B0 z 0x26E00000 d a b)
  | .vbfi z d a b => some (packD14A7B0 z 0x27000000 d a b)
  | .vadds z d a b => some (packD14A7B0 z 0x27200000 d a b)
  | .vsubs z d a b => some (packD14A7B0 z 0x27400000 d a b)
  | .vaddsn z d a b => some (packD14A7B0 z 0x27600000 d a b)
  | .vsubsn z d a b => some (packD14A7B0 z 0x27800000 d a b)
  | .vsel z d a m => some (packD14A7M0 z 0x27A00000 d a m)
  | .vsplat z d a => some (packD14A7 z 0x27C00000 d a)
  | .vlane z d => some (packD14 z 0x27E00000 d)
  | .vaddi z d a i => some (packD18A11I0 z 0x28000000 d a i)
  | .vshli z d a n => some (packD18A11N0W7_7_5 z 0x2A000000 d a n)
  | .vshri z d a n => some (packD18A11N0W7_7_5 z 0x2A000200 d a n)
  | .vsrai z d a n => some (packD18A11N0W7_7_5 z 0x2A000400 d a n)
  | .vrotli z d a n => some (packD18A11N0W7_7_5 z 0x2A000600 d a n)
  | .ceq z d a b => some (packD14A7B0W3_7_7 z 0x2C000000 d a b)
  | .cne z d a b => some (packD14A7B0W3_7_7 z 0x2C200000 d a b)
  | .clt z d a b => some (packD14A7B0W3_7_7 z 0x2C400000 d a b)
  | .cle z d a b => some (packD14A7B0W3_7_7 z 0x2C600000 d a b)
  | .cltn z d a b => some (packD14A7B0W3_7_7 z 0x2C800000 d a b)
  | .clen z d a b => some (packD14A7B0W3_7_7 z 0x2CA00000 d a b)
  | .feq z d a b => some (packD14A7B0W3_7_7 z 0x2CC00000 d a b)
  | .flt z d a b => some (packD14A7B0W3_7_7 z 0x2CE00000 d a b)
  | .fle z d a b => some (packD14A7B0W3_7_7 z 0x2D000000 d a b)
  | .fun z d a b => some (packD14A7B0W3_7_7 z 0x2D200000 d a b)
  | .tlt z d a b => some (packD14A7B0W3_7_7 z 0x2D400000 d a b)
  | .tle z d a b => some (packD14A7B0W3_7_7 z 0x2D600000 d a b)
  | .teq z d a b => some (packD14A7B0W3_7_7 z 0x2D800000 d a b)
  | .mand z d a b => some (packD14A7B0W3_3_3 z 0x2E000000 d a b)
  | .mor z d a b => some (packD14A7B0W3_3_3 z 0x2E200000 d a b)
  | .mxor z d a b => some (packD14A7B0W3_3_3 z 0x2E400000 d a b)
  | .mandn z d a b => some (packD14A7B0W3_3_3 z 0x2E600000 d a b)
  | .mnot z d a => some (packD14A7W3_3 z 0x2E800000 d a)
  | .mmov z d a => some (packD14A7W3_3 z 0x2EA00000 d a)
  | .mpop z d a => some (packD14A7W7_3 z 0x2EC00000 d a)
  | .mfirst z d a => some (packD14A7W7_3 z 0x2EE00000 d a)
  | .mtos z d a => some (packD14A7W7_3 z 0x2F000000 d a)
  | .stom z d a => some (packD14A7W3_7 z 0x2F200000 d a)
  | .mset z d => some (packD14W3 z 0x2F400000 d)
  | .fadd z d a b => some (packD14A7B0 z 0x30000000 d a b)
  | .fsub z d a b => some (packD14A7B0 z 0x30200000 d a b)
  | .fmul z d a b => some (packD14A7B0 z 0x30400000 d a b)
  | .fma z d a b => some (packD14A7B0 z 0x30600000 d a b)
  | .fms z d a b => some (packD14A7B0 z 0x30800000 d a b)
  | .fnma z d a b => some (packD14A7B0 z 0x30A00000 d a b)
  | .fmin z d a b => some (packD14A7B0 z 0x30C00000 d a b)
  | .fmax z d a b => some (packD14A7B0 z 0x30E00000 d a b)
  | .fmini z d a b => some (packD14A7B0 z 0x31000000 d a b)
  | .fmaxi z d a b => some (packD14A7B0 z 0x31200000 d a b)
  | .fabs z d a => some (packD14A7 z 0x31400000 d a)
  | .fneg z d a => some (packD14A7 z 0x31600000 d a)
  | .fcps z d a b => some (packD14A7B0 z 0x31800000 d a b)
  | .frint z d a => some (packD14A7 z 0x31A00000 d a)
  | .fscl z d a b => some (packD14A7B0 z 0x31C00000 d a b)
  | .fclass z d a => some (packD14A7 z 0x31E00000 d a)
  | .fcvt z r d a c => some (packR21D14A7C0 z 0x32000000 r d a c)
  | .fdiv z l d a b => some (packL21D14A7B0 z 0x34000000 l d a b)
  | .vtrSqrt z l d a => some (packL21D14A7 z 0x36000000 l d a)
  | .vtrRcp z l d a => some (packL21D14A7 z 0x36000001 l d a)
  | .vtrRsq z l d a => some (packL21D14A7 z 0x36000002 l d a)
  | .vtrExp2 z l d a => some (packL21D14A7 z 0x36000003 l d a)
  | .vtrLog2 z l d a => some (packL21D14A7 z 0x36000004 l d a)
  | .vtrExp z l d a => some (packL21D14A7 z 0x36000005 l d a)
  | .vtrTanh z l d a => some (packL21D14A7 z 0x36000006 l d a)
  | .vtrSin z l d a => some (packL21D14A7 z 0x36000007 l d a)
  | .vtrCos z l d a => some (packL21D14A7 z 0x36000008 l d a)
  | .ld z l d a x w h => some (packL21D14A7X4W2H0 z 0x40000000 l d a x w h)
  | .st z l d a x w h => some (packL21D14A7X4W2H0 z 0x42000000 l d a x w h)
  | .lds z l d a x w h => some (packL21D14A7X4W2H0 z 0x44000000 l d a x w h)
  | .sts z l d a x w h => some (packL21D14A7X4W2H0 z 0x46000000 l d a x w h)
  | .ldp z l d a p w h => some (packL21D14A7P4W2H0 z 0x48000000 l d a p w h)
  | .stp z l d a p w h => some (packL21D14A7P4W2H0 z 0x4A000000 l d a p w h)
  | .pkld z l d a x g h => some (packL21D14A7X4G1H0 z 0x4C000000 l d a x g h)
  | .pkst z l d a x g h => some (packL21D14A7X4G1H0 z 0x4E000000 l d a x g h)
  | .atomAdd z w l d a x => some (packW24L21D14A7X4 z 0x50000000 w l d a x)
  | .atomAnd z w l d a x => some (packW24L21D14A7X4 z 0x50000001 w l d a x)
  | .atomOr z w l d a x => some (packW24L21D14A7X4 z 0x50000002 w l d a x)
  | .atomXor z w l d a x => some (packW24L21D14A7X4 z 0x50000003 w l d a x)
  | .atomMin z w l d a x => some (packW24L21D14A7X4 z 0x50000004 w l d a x)
  | .atomMax z w l d a x => some (packW24L21D14A7X4 z 0x50000005 w l d a x)
  | .atomMinn z w l d a x => some (packW24L21D14A7X4 z 0x50000006 w l d a x)
  | .atomMaxn z w l d a x => some (packW24L21D14A7X4 z 0x50000007 w l d a x)
  | .atomXchg z w l d a x => some (packW24L21D14A7X4 z 0x50000008 w l d a x)
  | .atomInc z w l d a x => some (packW24L21D14A7X4 z 0x50000009 w l d a x)
  | .atomDec z w l d a x => some (packW24L21D14A7X4 z 0x5000000A w l d a x)
  | .atomFadd z l d a x => some (packL21D14A7X4 z 0x5000000B l d a x)
  | .redAdd z w l d a x => some (packW24L21D14A7X4 z 0x52000000 w l d a x)
  | .redAnd z w l d a x => some (packW24L21D14A7X4 z 0x52000001 w l d a x)
  | .redOr z w l d a x => some (packW24L21D14A7X4 z 0x52000002 w l d a x)
  | .redXor z w l d a x => some (packW24L21D14A7X4 z 0x52000003 w l d a x)
  | .redMin z w l d a x => some (packW24L21D14A7X4 z 0x52000004 w l d a x)
  | .redMax z w l d a x => some (packW24L21D14A7X4 z 0x52000005 w l d a x)
  | .redMinn z w l d a x => some (packW24L21D14A7X4 z 0x52000006 w l d a x)
  | .redMaxn z w l d a x => some (packW24L21D14A7X4 z 0x52000007 w l d a x)
  | .redXchg z w l d a x => some (packW24L21D14A7X4 z 0x52000008 w l d a x)
  | .redInc z w l d a x => some (packW24L21D14A7X4 z 0x52000009 w l d a x)
  | .redDec z w l d a x => some (packW24L21D14A7X4 z 0x5200000A w l d a x)
  | .redFadd z l d a x => some (packL21D14A7X4 z 0x5200000B l d a x)
  | .cas z l d a x w h => some (packL21D14A7X4W2H0W4_7_7_3_1_2 z 0x54000008 l d a x w h)
  | .waitcEq z d a x t => some (packD14A7X4T3 z 0x56000000 d a x t)
  | .waitcNe z d a x t => some (packD14A7X4T3 z 0x56000001 d a x t)
  | .waitcLt z d a x t => some (packD14A7X4T3 z 0x56000002 d a x t)
  | .waitcGe z d a x t => some (packD14A7X4T3 z 0x56000003 d a x t)
  | .waitcLtn z d a x t => some (packD14A7X4T3 z 0x56000004 d a x t)
  | .waitcGen z d a x t => some (packD14A7X4T3 z 0x56000005 d a x t)
  | .waitcAny z d a x t => some (packD14A7X4T3 z 0x56000006 d a x t)
  | .copy z l d a b => some (packL21D14A7B0 z 0x58000000 l d a b)
  | .cwait z d a b => some (packD14A7B0 z 0x5A000000 d a b)
  | .cstat z d b => some (packD14B0 z 0x5A200000 d b)
  | .publish z a => some (packA7 z 0x5A400000 a)
  | .shadow z d a b => some (packD14A7B0 z 0x5A600000 d a b)
  | .fence z k => some (packK14 z 0x5A800000 k)
  | .clean z v a b => some (packV14A7B0 z 0x5AA00000 v a b)
  | .inval z v a b => some (packV14A7B0 z 0x5AC00000 v a b)
  | .clinv z v a b => some (packV14A7B0 z 0x5AE00000 v a b)
  | .mbatch z d => some (packD14 z 0x5B000000 d)
  | .mwait z a => some (packA7 z 0x5B200000 a)
  | .mbx z d a b => some (packD14A7B0 z 0x5B400000 d a b)
  | .msq z d a b => some (packD14A7B0 z 0x5B600000 d a b)
  | .twr z t r k v i => some (packT20R19K12V5I0 z 0x60000000 t r k v i)
  | .trd z t r k v i => some (packT20R19K12V5I0 z 0x62000000 t r k v i)
  | .mloop z d a b => some (packD14A7B0 z 0x64000000 d a b)
  | .had z d a b => some (packD14A7B0 z 0x66000000 d a b)
  | .qnt z d a b => some (packD14A7B0 z 0x68000000 d a b)
  | .tdrDiff z d a => some (packD14A7 z 0x6A000000 d a)
  | .tdrCanc z d a => some (packD14A7 z 0x6A000001 d a)
  | .tdrAgree z d a => some (packD14A7 z 0x6A000002 d a)
  | .tdrRaw z d a => some (packD14A7 z 0x6A000003 d a)
  | .tzero z d => some (packD14 z 0x6C000000 d)
  | .tcopy z d a => some (packD14A7 z 0x6C200000 d a)
  | .tstat z d a b => some (packD14A7B0 z 0x6C400000 d a b)
  | .tsets z d a b => some (packD14A7B0 z 0x6C600000 d a b)
  | .kvld z l d a b => some (packL21D14A7B0 z 0x70000000 l d a b)
  | .kvapp z d a b => some (packD14A7B0 z 0x72000000 d a b)
  | .kvfork z d a b => some (packD14A7B0 z 0x72200000 d a b)
  | .kvtrim z d a => some (packD14A7 z 0x72400000 d a)
  | .kvq z d a b => some (packD14A7B0 z 0x72600000 d a b)
  | .kvpin z a => some (packA7 z 0x72800000 a)
  | .kvunpin z a => some (packA7 z 0x72A00000 a)
  | .pass z d a => some (packD14A7 z 0x74000000 d a)
  | .take z d a => some (packD14A7 z 0x74200000 d a)
  | .query z d => some (packD14 z 0x74400000 d)
  | .bar z => some (pack z 0x76000000)
  | .gbar z a => some (packA7 z 0x76200000 a)
  | .arrive z d a => some (packD14A7 z 0x76400000 d a)
  | .await z a b => some (packA7B0 z 0x76600000 a b)
  | .tokw z => some (pack z 0x76800000)
  | .tokp z => some (pack z 0x76A00000)
  | .tickq z d b => some (packD14B0 z 0x76C00000 d b)
  | .launch z d a => some (packD14A7 z 0x76E00000 d a)
  | .weave z d a n => some (packD14A7N0 z 0x78000000 d a n)
  | .wdraft z n a => some (packN14A7 z 0x78200000 n a)
  | .shfl z d a b => some (packD14A7B0 z 0x78400000 d a b)
  | .rsum z d a t => some (packD14A7T0 z 0x78600000 d a t)
  | .rmin z d a t => some (packD14A7T0W7_7_2 z 0x78800000 d a t)
  | .rmax z d a t => some (packD14A7T0W7_7_2 z 0x78A00000 d a t)
  | .argmin z d a t => some (packD14A7T0W7_7_2 z 0x78C00000 d a t)
  | .argmax z d a t => some (packD14A7T0W7_7_2 z 0x78E00000 d a t)
  | .scan z d a t => some (packD14A7T0 z 0x79000000 d a t)
  | .pkx z d a g => some (packD14A7G0 z 0x79200000 d a g)
  | .pki z d a g => some (packD14A7G0 z 0x79400000 d a g)
  | .alset z g a => some (packG14A7 z 0x79600000 g a)
  | .alget z d g => some (packD14G7 z 0x79800000 d g)
  | .rand z d a b => some (packD14A7B0 z 0x7A000000 d a b)
  | .fxsplit z d a => some (packD14A7 z 0x7A200000 d a)
  | .fxjoin z d a o => some (packD14A7O0 z 0x7A400000 d a o)
  | .crc z d a b => some (packD14A7B0 z 0x7A600000 d a b)
  | .clk z d b => some (packD14B0 z 0x7A800000 d b)
  | .eret z => some (pack z 0x7E000000)
  | .grd z d a => some (packD14A7 z 0x7E200000 d a)
  | .gwr z a b => some (packA7B0 z 0x7E400000 a b)
  | .gres z a => some (packA7 z 0x7E600000 a)
  | .gkill z a b => some (packA7B0 z 0x7E800000 a b)
  | .tqpop z d a b => some (packD14A7B0 z 0x7EA00000 d a b)
  | .xset z a b => some (packA7B0 z 0x7EC00000 a b)
  | .ckpt z d a b => some (packD14A7B0 z 0x7EE00000 d a b)
  | .walkComplete _ _ => none
  | .runAheadEnd _ => none
  | .prgResponse _ _ _ => none
  | .atsTranslationCompletion _ _ _ _ _ _ _ _ => none
  | .atsInvalidateRequest _ _ _ _ => none
  | .invalidationComplete _ _ => none
  | .stage2FaultResolved _ _ _ => none
  | .kvInvalidation _ _ _ => none
  | .frameGrant _ _ _ => none
  | .refillRetry _ _ => none
  | .refillDeferred _ _ => none
  | .cooperFillRequest _ _ => none
  | .cooperWritebackRequest _ => none
  | .cooperLpddrFillDone _ _ => none
  | .cooperIndexRelease _ _ => none
  | .cooperReady => none
  | .replicatedStore _ _ _ _ => none
  | .replicaAck _ _ _ => none
  | .l2FillRequest _ _ => none
  | .l2FillDone _ _ => none
  | .l1Writeback _ _ _ => none
  | .flitTransferReceive _ _ _ _ _ => none
  | .monitorWake _ _ => none
  | .waitcPoll _ _ => none
  | .waitcTimeout _ _ => none
  | .waitcRemotePoll _ _ => none
  | .updateCopyRecall _ => none
  | .copyStart _ _ _ => none
  | .copyElementWritten _ _ _ => none
  | .stackSpill _ => none
  | .stackFill _ => none
  | .matrixInstructionStart _ _ _ => none
  | .matrixKStepComplete _ _ _ => none
  | .peerAccessArrival _ _ _ _ _ => none
  | .cxlMemAccess _ _ _ _ _ => none
  | .cxlCacheInvalidation _ _ _ _ => none
  | .abortCompletion _ => none
  | .launchRecordStart _ => none
  | .dispatchRangeHandout _ _ => none
  | .dispatchRangeSplit _ _ _ _ => none
  | .blockPlace _ _ _ _ => none
  | .gangPlace _ _ _ _ => none
  | .preempt _ _ => none
  | .preemptSpill _ _ => none
  | .compactCore _ _ => none
  | .unitRetire _ _ => none
  | .leaderElection _ _ => none
  | .runIssue _ _ _ => none
  | .stagedListRelease _ => none
  | .handlerEntry _ _ _ => none
  | .handlerAbandon _ _ _ => none
  | .lqtailWrite _ _ _ => none
  | .scheadWrite _ _ => none
  | .sctag _ _ => none
  | .tqpopid _ => none
  | .tqres _ _ => none
  | .tqabn _ _ => none
  | .invctlGo _ _ => none
  | .registerWrite _ _ _ => none
  | .monitorLatch _ _ => none
  | .monitorClear _ _ => none
  | .monitorSample _ _ _ => none
  | .partitionReconfigure _ => none
  | .powerOnBoot _ _ _ => none
  | .getMeasurements => none
  | .challenge _ => none
  | .dieFence _ => none
  | .dieReturn _ => none
  | .hbmRowSpare _ _ _ => none
  | .firmwareUpdate _ => none
  | .thermalThrottle => none
  | .cxlLinkError _ => none
  | .peerLinkFailure _ => none
  | .illegalInstructionWord _ => none
  | .kvFaultResolved _ _ _ => none
  | .cooperLpddrWriteDone _ _ => none
  | .remoteAccessResponse _ => none
  | .matrixInstructionComplete _ _ _ => none
  | .launchCancel _ => none
  | .machineCheckClear _ => none
  | .checkpointRestore _ _ _ => none
  | .powerOff => none

/-- The constructors that are instruction words, not events of the module. -/
def Instr.isWord (i : Instr) : Bool := (encode i).isSome

/-! Each row of the opcode table by a word written out from its encoding (R23, R24, R37). -/

theorem decode_words_00 : [0x000ABD14, 0x802CEA07, 0x0042B545, 0x806357CB, 0x00823AC1, 0x80A7028C, 0x00CE1B09, 0x80E7C647, 0x010DC46A, 0x8132487A, 0x014768D1, 0x8172FD08, 0x0192A5B3, 0x81A1FE9D, 0x01C1A46E, 0x81E49336].map (decodeTableWord 32) =
    [some (.add false 0x2A 0x7A 0x14),
      some (.sub true 0x33 0x54 7),
      some (.and false 0xA 0x6A 0x45),
      some (.or true 0xD 0x2F 0x4B),
      some (.xor false 8 0x75 0x41),
      some (.shl true 0x1C 5 0xC),
      some (.shr false 0x38 0x36 9),
      some (.sra true 0x1F 0xC 0x47),
      some (.mul false 0x37 8 0x6A),
      some (.mulh true 0x49 0x10 0x7A),
      some (.mulhn false 0x1D 0x51 0x51),
      some (.min true 0x4B 0x7A 8),
      some (.max false 0x4A 0x4B 0x33),
      some (.minn true 7 0x7D 0x1D),
      some (.maxn false 6 0x48 0x6E),
      some (.andn true 0x12 0x26 0x36)] := by
  decide

theorem decode_words_01 : [0x0204E310, 0x82329448, 0x025A6C18, 0x8263A580, 0x0292A900, 0x82A65800, 0x02C363DC, 0x82E26488, 0x03140DC0, 0x833622B7, 0x035914BC, 0x8372FBBB, 0x038BD3A0, 0x83B98C5A, 0x03D9100B].map (decodeTableWord 32) =
    [some (.slt false 0x13 0x46 0x10),
      some (.sltn true 0x4A 0x28 0x48),
      some (.seq false 0x69 0x58 0x18),
      some (.clz true 0xE 0x4B),
      some (.popc false 0x4A 0x52),
      some (.brev true 0x19 0x30),
      some (.rotl false 0xD 0x47 0x5C),
      some (.bfx true 9 0x49 8),
      some (.bfi false 0x50 0x1B 0x40),
      some (.div true 0x58 0x45 0x37),
      some (.divn false 0x64 0x29 0x3C),
      some (.rem true 0x4B 0x77 0x3B),
      some (.remn false 0x2F 0x27 0x20),
      some (.csel true 0x66 0x18 0x5A),
      some (.addw false 0x64 0x20 0xB)] := by
  decide

theorem decode_words_02 : [0x05293C34].map (decodeTableWord 32) =
    [some (.addi false 0x4A 0x27 0x434)] := by
  decide

theorem decode_words_03 : [0x07038AC0].map (decodeTableWord 32) =
    [some (.andi false 0x40 0x71 0x2C0)] := by
  decide

theorem decode_words_04 : [0x0979D24E].map (decodeTableWord 32) =
    [some (.ori false 0x5E 0x3A 0x24E)] := by
  decide

theorem decode_words_05 : [0x0B3BF096].map (decodeTableWord 32) =
    [some (.xori false 0x4E 0x7E 0x96)] := by
  decide

theorem decode_words_06 : [0x0C42101B, 0x8C5B0A16, 0x0C53C420, 0x8CD8363E].map (decodeTableWord 32) =
    [some (.shli false 0x10 0x42 0x1B),
      some (.shri true 0x16 0x61 0x16),
      some (.srai false 0x14 0x78 0x20),
      some (.rotli true 0x36 6 0x3E)] := by
  decide

theorem decode_words_07 : [0x0F58561E].map (decodeTableWord 32) =
    [some (.slti false 0x56 0xA 0x61E)] := by
  decide

theorem decode_words_08 : [0x11224AC8].map (decodeTableWord 32) =
    [some (.li false 0x48 0x24AC8)] := by
  decide

theorem decode_words_09 : [0x139B807E].map (decodeTableWord 32) =
    [some (.lis false 0x66 0x3807E)] := by
  decide

theorem decode_words_0A : [0x15A40283].map (decodeTableWord 32) =
    [some (.gets false 0x69 0x283)] := by
  decide

theorem decode_words_0B : [0x16016003, 0x96016905, 0x1602011D].map (decodeTableWord 32) =
    [some (.sets false 0x2C 3),
      some (.xlt true 0x2D 5),
      some (.setsXsp false 0x40 5)] := by
  decide

theorem decode_words_0C : [0x18033BA7].map (decodeTableWord 32) =
    [some (.win false 0x67 0x3A7)] := by
  decide

theorem decode_words_0D : [0x1A0275C3, 0x9A233C76, 0x1A48DE58, 0x9A76AA82, 0x1A8243E3, 0x9AB7ACE6, 0x1AC013D1].map (decodeTableWord 32) =
    [some (.bruEqz false 9 0x35C3),
      some (.bruNez true 0xC 0x3C76),
      some (.bruLtz false 0x23 0x1E58),
      some (.bruGez true 0x5A 0x2A82),
      some (.bruGtz false 9 0x3E3),
      some (.bruLez true 0x5E 0x2CE6),
      some (.bruAlw false 0x13D1)] := by
  decide

theorem decode_words_0E : [0x1C01A4FE, 0x9C21B49B].map (decodeTableWord 32) =
    [some (.brdSet false 6 0x24FE),
      some (.brdClr true 6 0x349B)] := by
  decide

theorem decode_words_0F : [0x1E0E42B1, 0x9E291B69].map (decodeTableWord 32) =
    [some (.jmp false 0xE42B1),
      some (.call true 0x91B69)] := by
  decide

theorem decode_words_10 : [0x20000000, 0xA0200000, 0x20402E00, 0xA0601900, 0x20800000, 0xA0A00000, 0x20C00000, 0xA0E00000].map (decodeTableWord 32) =
    [some (.nop false),
      some (.ret true),
      some (.jr false 0x5C),
      some (.callr true 0x32),
      some (.join false),
      some (.exit true),
      some (.yield false),
      some (.brk true)] := by
  decide

theorem decode_words_11 : [0x23CAB2C7].map (decodeTableWord 32) =
    [some (.trap false 0x72 0x56 0x2C7)] := by
  decide

theorem decode_words_12 : [0x2400FCBC, 0xA42B8B4F, 0x2443E008, 0xA46731A5, 0x24846FA0, 0xA4ACD9F6, 0x24DC200B, 0xA4E59D34, 0x2511D272, 0xA524B4B8, 0x255BE380, 0xA5692D80, 0x258DBFAE, 0xA5B63931, 0x25DECF14, 0xA5E2CB94].map (decodeTableWord 32) =
    [some (.vadd false 3 0x79 0x3C),
      some (.vsub true 0x2E 0x16 0x4F),
      some (.vmul false 0xF 0x40 8),
      some (.vmulh true 0x1C 0x63 0x25),
      some (.vmulhn false 0x11 0x5F 0x20),
      some (.vmad true 0x33 0x33 0x76),
      some (.vmin false 0x70 0x40 0xB),
      some (.vmax true 0x16 0x3A 0x34),
      some (.vminn false 0x47 0x24 0x72),
      some (.vmaxn true 0x12 0x69 0x38),
      some (.vabs false 0x6F 0x47),
      some (.vneg true 0x24 0x5B),
      some (.vand false 0x36 0x7F 0x2E),
      some (.vor true 0x58 0x72 0x31),
      some (.vxor false 0x7B 0x1E 0x14),
      some (.vandn true 0xB 0x17 0x14)] := by
  decide

theorem decode_words_13 : [0x2607AA9E, 0xA6209FEB, 0x26530C22, 0xA6694093, 0x268DA280, 0xA6AC2780, 0x26D25480, 0xA6FE88D9, 0x271BA17A, 0xA7342A57, 0x2757C3BB, 0xA77D3864, 0x279EB858, 0xA7B9E404, 0x27CCDA00, 0xA7ECC000].map (decodeTableWord 32) =
    [some (.vshl false 0x1E 0x55 0x1E),
      some (.vshr true 2 0x3F 0x6B),
      some (.vsra false 0x4C 0x18 0x22),
      some (.vrotl true 0x25 1 0x13),
      some (.vclz false 0x36 0x45),
      some (.vpopc true 0x30 0x4F),
      some (.vbrev false 0x49 0x29),
      some (.vbfx true 0x7A 0x11 0x59),
      some (.vbfi false 0x6E 0x42 0x7A),
      some (.vadds true 0x50 0x54 0x57),
      some (.vsubs false 0x5F 7 0x3B),
      some (.vaddsn true 0x74 0x70 0x64),
      some (.vsubsn false 0x7A 0x70 0x58),
      some (.vsel true 0x67 0x48 4),
      some (.vsplat false 0x33 0x34),
      some (.vlane true 0x33)] := by
  decide

theorem decode_words_14 : [0x2839F514].map (decodeTableWord 32) =
    [some (.vaddi false 0xE 0x3E 0x514)] := by
  decide

theorem decode_words_15 : [0x2AD04007, 0xAA27FA07, 0x2AE4AC04, 0xAAB26E02].map (decodeTableWord 32) =
    [some (.vshli false 0x34 8 7),
      some (.vshri true 9 0x7F 7),
      some (.vsrai false 0x39 0x15 4),
      some (.vrotli true 0x2C 0x4D 2)] := by
  decide

theorem decode_words_16 : [0x2C0040C9, 0xAC20A28D, 0x2C40E784, 0xAC60781B, 0x2C815894, 0xACA190FB, 0x2CC0E72F, 0xACE1080F, 0x2D01DFFE, 0xAD211F3E, 0x2D40C593, 0xAD60702C, 0x2D81913E].map (decodeTableWord 32) =
    [some (.ceq false 1 1 0x49),
      some (.cne true 2 0x45 0xD),
      some (.clt false 3 0x4F 4),
      some (.cle true 1 0x70 0x1B),
      some (.cltn false 5 0x31 0x14),
      some (.clen true 6 0x21 0x7B),
      some (.feq false 3 0x4E 0x2F),
      some (.flt true 4 0x10 0xF),
      some (.fle false 7 0x3F 0x7E),
      some (.fun true 4 0x3E 0x3E),
      some (.tlt false 3 0xB 0x13),
      some (.tle true 1 0x60 0x2C),
      some (.teq false 6 0x22 0x3E)] := by
  decide

theorem decode_words_17 : [0x2E01C302, 0xAE214082, 0x2E414182, 0xAE618281, 0x2E81C280, 0xAEA0C300, 0x2EDBC080, 0xAEF68380, 0x2F088280, 0xAF20FA80, 0x2F408000].map (decodeTableWord 32) =
    [some (.mand false 7 6 2),
      some (.mor true 5 1 2),
      some (.mxor false 5 3 2),
      some (.mandn true 6 5 1),
      some (.mnot false 7 5),
      some (.mmov true 3 6),
      some (.mpop false 0x6F 1),
      some (.mfirst true 0x5A 7),
      some (.mtos false 0x22 5),
      some (.stom true 3 0x75),
      some (.mset false 2)] := by
  decide

theorem decode_words_18 : [0x300BB19D, 0xB0316364, 0x305055D2, 0xB06767E8, 0x30997FE2, 0xB0BB8CE8, 0x30C7F4B4, 0xB0F7F39E, 0x3106A1C0, 0xB12BAF04, 0x315FC200, 0xB1799200, 0x318F5119, 0xB1B66700, 0x31DED6BA, 0xB1FA3C00].map (decodeTableWord 32) =
    [some (.fadd false 0x2E 0x63 0x1D),
      some (.fsub true 0x45 0x46 0x64),
      some (.fmul false 0x41 0x2B 0x52),
      some (.fma true 0x1D 0x4F 0x68),
      some (.fms false 0x65 0x7F 0x62),
      some (.fnma true 0x6E 0x19 0x68),
      some (.fmin false 0x1F 0x69 0x34),
      some (.fmax true 0x5F 0x67 0x1E),
      some (.fmini false 0x1A 0x43 0x40),
      some (.fmaxi true 0x2E 0x5E 4),
      some (.fabs false 0x7F 4),
      some (.fneg true 0x66 0x24),
      some (.fcps false 0x3D 0x22 0x19),
      some (.frint true 0x59 0x4E),
      some (.fscl false 0x7B 0x2D 0x3A),
      some (.fclass true 0x68 0x78)] := by
  decide

theorem decode_words_19 : [0x339FD6FB].map (decodeTableWord 32) =
    [some (.fcvt false 0xC 0x7F 0x2D 0x7B)] := by
  decide

theorem decode_words_1A : [0x34C2CE8E].map (decodeTableWord 32) =
    [some (.fdiv false 6 0xB 0x1D 0xE)] := by
  decide

theorem decode_words_1B : [0x368F4D00, 0xB6C6DF01, 0x375FFA02, 0xB75B0083, 0x371D6A04, 0xB6D9E985, 0x365AEA86, 0xB65D5907, 0x37B73088].map (decodeTableWord 32) =
    [some (.vtrSqrt false 4 0x3D 0x1A),
      some (.vtrRcp true 6 0x1B 0x3E),
      some (.vtrRsq false 0xA 0x7F 0x74),
      some (.vtrExp2 true 0xA 0x6C 1),
      some (.vtrLog2 false 8 0x75 0x54),
      some (.vtrExp true 6 0x67 0x53),
      some (.vtrTanh false 2 0x6B 0x55),
      some (.vtrSin true 2 0x75 0x32),
      some (.vtrCos false 0xD 0x5C 0x61)] := by
  decide

theorem decode_words_20 : [0x408FB92B].map (decodeTableWord 32) =
    [some (.ld false 4 0x3E 0x72 2 2 3)] := by
  decide

theorem decode_words_21 : [0x42C333EA].map (decodeTableWord 32) =
    [some (.st false 6 0xC 0x67 6 2 2)] := by
  decide

theorem decode_words_22 : [0x44F83D1D].map (decodeTableWord 32) =
    [some (.lds false 7 0x60 0x7A 1 3 1)] := by
  decide

theorem decode_words_23 : [0x4664422E].map (decodeTableWord 32) =
    [some (.sts false 3 0x11 4 2 3 2)] := by
  decide

theorem decode_words_24 : [0x49B509DE].map (decodeTableWord 32) =
    [some (.ldp false 0xD 0x54 0x13 5 3 2)] := by
  decide

theorem decode_words_25 : [0x4B7E16AF].map (decodeTableWord 32) =
    [some (.stp false 0xB 0x78 0x2D 2 3 3)] := by
  decide

theorem decode_words_26 : [0x4C60C17D].map (decodeTableWord 32) =
    [some (.pkld false 3 3 2 7 6 1)] := by
  decide

theorem decode_words_27 : [0x4F63A265].map (decodeTableWord 32) =
    [some (.pkst false 0xB 0xE 0x44 6 2 1)] := by
  decide

theorem decode_words_28 : [0x519FF820, 0xD1FC0E11, 0x51671352, 0xD158A633, 0x51719B74, 0xD1423AE5, 0x517CDDE6, 0xD1BA7A57, 0x519ABB58, 0xD1514A59, 0x51A0F84A, 0xD0E6271B].map (decodeTableWord 32) =
    [some (.atomAdd false 1 4 0x7F 0x70 2),
      some (.atomAnd true 1 7 0x70 0x1C 1),
      some (.atomOr false 1 3 0x1C 0x26 5),
      some (.atomXor true 1 2 0x62 0x4C 3),
      some (.atomMin false 1 3 0x46 0x36 7),
      some (.atomMax true 1 2 8 0x75 6),
      some (.atomMinn false 1 3 0x73 0x3B 6),
      some (.atomMaxn true 1 5 0x69 0x74 5),
      some (.atomXchg false 1 4 0x6A 0x76 5),
      some (.atomInc true 1 2 0x45 0x14 5),
      some (.atomDec false 1 5 3 0x70 4),
      some (.atomFadd true 7 0x18 0x4E 1)] := by
  decide

theorem decode_words_29 : [0x53F9CA20, 0xD34F6861, 0x53320432, 0xD3D0E253, 0x53997214, 0xD3A21025, 0x5361B196, 0xD3AEA417, 0x53FCFA98, 0xD38AA7D9, 0x53B08D6A, 0xD26EA15B].map (decodeTableWord 32) =
    [some (.redAdd false 1 7 0x67 0x14 2),
      some (.redAnd true 1 2 0x3D 0x50 6),
      some (.redOr false 1 1 0x48 8 3),
      some (.redXor true 1 6 0x43 0x44 5),
      some (.redMin false 1 4 0x65 0x64 1),
      some (.redMax true 1 5 8 0x20 2),
      some (.redMinn false 1 3 6 0x63 1),
      some (.redMaxn true 1 5 0x3A 0x48 1),
      some (.redXchg false 1 7 0x73 0x75 1),
      some (.redInc true 1 4 0x2A 0x4F 5),
      some (.redDec false 1 5 0x42 0x1A 6),
      some (.redFadd true 3 0x3A 0x42 5)] := by
  decide

theorem decode_words_2A : [0x55AFA0AF].map (decodeTableWord 32) =
    [some (.cas false 0xD 0x3E 0x41 2 1 3)] := by
  decide

theorem decode_words_2B : [0x5610F8B8, 0xD61DE429, 0x561B1D2A, 0xD60D884B, 0x560E549C, 0xD6158FCD, 0x56028E6E].map (decodeTableWord 32) =
    [some (.waitcEq false 0x43 0x71 3 1),
      some (.waitcNe true 0x77 0x48 2 1),
      some (.waitcLt false 0x6C 0x3A 2 1),
      some (.waitcGe true 0x36 0x10 4 1),
      some (.waitcLtn false 0x39 0x29 1 1),
      some (.waitcGen true 0x56 0x1F 4 1),
      some (.waitcAny false 0xA 0x1C 6 1)] := by
  decide

theorem decode_words_2C : [0x58B94873].map (decodeTableWord 32) =
    [some (.copy false 5 0x65 0x10 0x73)] := by
  decide

theorem decode_words_2D : [0x5A190A79, 0xDA370053, 0x5A402A80, 0xDA6BC9A1, 0x5A808000, 0xDAA08EE0, 0x5AC059F2, 0xDAE08AFF, 0x5B158000, 0xDB203580, 0x5B474ADB, 0xDB6E2134].map (decodeTableWord 32) =
    [some (.cwait false 0x64 0x14 0x79),
      some (.cstat true 0x5C 0x53),
      some (.publish false 0x55),
      some (.shadow true 0x2F 0x13 0x21),
      some (.fence false 2),
      some (.clean true 2 0x1D 0x60),
      some (.inval false 1 0x33 0x72),
      some (.clinv true 2 0x15 0x7F),
      some (.mbatch false 0x56),
      some (.mwait true 0x6B),
      some (.mbx false 0x1D 0x15 0x5B),
      some (.msq true 0x38 0x42 0x34)] := by
  decide

theorem decode_words_30 : [0x60BB634C].map (decodeTableWord 32) =
    [some (.twr false 0xB 1 0x36 0x1A 0xC)] := by
  decide

theorem decode_words_31 : [0x62B8CBAC].map (decodeTableWord 32) =
    [some (.trd false 0xB 1 0xC 0x5D 0xC)] := by
  decide

theorem decode_words_32 : [0x6400D647].map (decodeTableWord 32) =
    [some (.mloop false 3 0x2C 0x47)] := by
  decide

theorem decode_words_33 : [0x660EDCDB].map (decodeTableWord 32) =
    [some (.had false 0x3B 0x39 0x5B)] := by
  decide

theorem decode_words_34 : [0x6800D92B].map (decodeTableWord 32) =
    [some (.qnt false 3 0x32 0x2B)] := by
  decide

theorem decode_words_35 : [0x6A10E800, 0xEA09A101, 0x6A1EC482, 0xEA03FF83].map (decodeTableWord 32) =
    [some (.tdrDiff false 0x43 0x50),
      some (.tdrCanc true 0x26 0x42),
      some (.tdrAgree false 0x7B 9),
      some (.tdrRaw true 0xF 0x7F)] := by
  decide

theorem decode_words_36 : [0x6C1D8000, 0xEC394F00, 0x6C5F788E, 0xEC62D123].map (decodeTableWord 32) =
    [some (.tzero false 0x76),
      some (.tcopy true 0x65 0x1E),
      some (.tstat false 0x7D 0x71 0xE),
      some (.tsets true 0xB 0x22 0x23)] := by
  decide

theorem decode_words_38 : [0x703D3218].map (decodeTableWord 32) =
    [some (.kvld false 1 0x74 0x64 0x18)] := by
  decide

theorem decode_words_39 : [0x7208F091, 0xF23A5BED, 0x725D6B80, 0xF27A7D22, 0x72801A00, 0xF2A00A00].map (decodeTableWord 32) =
    [some (.kvapp false 0x23 0x61 0x11),
      some (.kvfork true 0x69 0x37 0x6D),
      some (.kvtrim false 0x75 0x57),
      some (.kvq true 0x69 0x7A 0x22),
      some (.kvpin false 0x34),
      some (.kvunpin true 0x14)] := by
  decide

theorem decode_words_3A : [0x74117B00, 0xF430A500, 0x74500000].map (decodeTableWord 32) =
    [some (.pass false 0x45 0x76),
      some (.take true 0x42 0x4A),
      some (.query false 0x40)] := by
  decide

theorem decode_words_3B : [0x76000000, 0xF6202D00, 0x764A8600, 0xF6601208, 0x76800000, 0xF6A00000, 0x76D9C059, 0xF6E61B80].map (decodeTableWord 32) =
    [some (.bar false),
      some (.gbar true 0x5A),
      some (.arrive false 0x2A 0xC),
      some (.await true 0x24 8),
      some (.tokw false),
      some (.tokp true),
      some (.tickq false 0x67 0x59),
      some (.launch true 0x18 0x37)] := by
  decide

theorem decode_words_3C : [0x781CC502, 0xF8206900, 0x784333A2, 0xF862E701, 0x789B8E81, 0xF8A8B781, 0x78CEC102, 0xF8F1DB02, 0x79140881, 0xF921A206, 0x7947FC81, 0xF9609100, 0x7981C100].map (decodeTableWord 32) =
    [some (.weave false 0x73 0xA 2),
      some (.wdraft true 1 0x52),
      some (.shfl false 0xC 0x67 0x22),
      some (.rsum true 0xB 0x4E 1),
      some (.rmin false 0x6E 0x1D 1),
      some (.rmax true 0x22 0x6F 1),
      some (.argmin false 0x3B 2 2),
      some (.argmax true 0x47 0x36 2),
      some (.scan false 0x50 0x11 1),
      some (.pkx true 6 0x44 6),
      some (.pki false 0x1F 0x79 1),
      some (.alset true 2 0x22),
      some (.alget false 7 2)] := by
  decide

theorem decode_words_3D : [0x7A06BC28, 0xFA345400, 0x7A51311B, 0xFA699D41, 0x7A95C017].map (decodeTableWord 32) =
    [some (.rand false 0x1A 0x78 0x28),
      some (.fxsplit true 0x51 0x28),
      some (.fxjoin false 0x44 0x62 0x1B),
      some (.crc true 0x26 0x3A 0x41),
      some (.clk false 0x57 0x17)] := by
  decide

theorem decode_words_3F : [0x7E000000, 0xFE28D680, 0x7E403383, 0xFE601080, 0x7E800282, 0xFEA0EF41, 0x7EC023FE, 0xFEE6613D].map (decodeTableWord 32) =
    [some (.eret false),
      some (.grd true 0x23 0x2D),
      some (.gwr false 0x67 3),
      some (.gres true 0x21),
      some (.gkill false 5 2),
      some (.tqpop true 3 0x5E 0x41),
      some (.xset false 0x47 0x7E),
      some (.ckpt true 0x19 0x42 0x3D)] := by
  decide

end Sys2Proof
end

