-- ==== Sys2Proof/Config.lean ====
section
/-! DEFINITION. What one part fixes and the spec leaves open: the free values of the model.

A free value is an opaque constant: nothing in Lean can evaluate it, so a theorem about it holds whatever it is.
Where a fresh value is needed each time, the constant is applied to a counter of State (State.free). -/

namespace Sys2Proof.Config

/-- The cycles beyond one that the n-th step of the machine takes; every duration that the spec leaves open
(R421) is part of it. Log entry 5. -/
opaque stepCycles : Nat → Nat

/-- The nanoseconds that the n-th step takes; the clock rate changes under thermal steps (R400). Log entry 5. -/
opaque stepNanos : Nat → Nat

/-- What a defective ALU writes under unchecked issue (R239, R387). Log entry 14. -/
opaque aluGarbage : Nat → W64

/-- Whether the accesses of higher lanes are performed after a lane's access ended with an abort
completion (R383). Log entry 13. -/
opaque laneAfterAbort : Nat → Bool

/-- Whether the ECDSA P-256 signature of an image or a record verifies against the boot ROM's key (R394);
neither the key nor the place of the signature is given. Log entry 20. -/
opaque signatureOk : List Byte → Bool

/-- The number of an image, by which the newer of two is told (R394). Log entry 20. -/
opaque imageNumber : List Byte → Nat

/-- The fields of a signed configuration record, whose layout is not given: field number, record (R394).
Log entry 20. -/
opaque recordField : Nat → List Byte → Nat

/-- What the Chandler gives a partition when it builds it: a counter, the partition, the field (R78, R107, R112, R186, R374,
R390). Log entry 20. -/
opaque partField : Nat → Nat → Nat → Nat

/-- Whether an error of seven or more symbols in one HBM burst is detected (R138). Log entry 15. -/
opaque burstDetected : Nat → Bool

/-- Which of a die's three HBM controllers holds a sector slot of the die's carve-out share (R135, R142): die, slot. Log
entry 16. -/
opaque coopController : Nat → Nat → Nat

/-- The bytes that an undetected error passes on as data (R138): counter and address. Log entry 15. -/
opaque burstByte : Nat → Nat → Byte

/-- The answer to a CHALLENGE: a signature with a key that is not given over the nonce and the measurements (R394). Log
entry 20. -/
opaque challengeAnswer : List Byte → List Byte

/-- The detail of a STACK fault of RET, which pushes no entry (R336, R376). Log entry 23. -/
opaque retDetail : Nat → W64

/-- The bytes of a system-call entry, whose layout is not given: code, s(a), launch identifier, flat group number, tag,
byte number (R382). Log entry 24. -/
opaque callEntry : Nat → W64 → W64 → W64 → W64 → Nat → Byte

/-- The bytes of a section of a pre-emption image whose contents R385 names and whose layout it does not give: section, contents,
byte number. Log entry 30. -/
opaque imageLayout : Nat → List Nat → Nat → Byte

/-- The bytes of a pre-emption image that are the module's own: a counter and the byte's number (R385). Log entry 30. -/
opaque imageByte : Nat → Nat → Byte

end Sys2Proof.Config
end

