-- ==== Sys2Proof/Machine/State.lean ====
section
/-! DEFINITION. The state of the Denkinum 960 as plain data, its reasons to stop, and the state after reset.

Quantities of a fixed number of like things (registers, lanes, memory bytes, cores, dies, partitions) are held as
`SMap`: a list sorted by number, with no entry equal to what an unlisted number reads as. INVENTORY.md lists each
field with the rule of spec/ that names it. -/

namespace Sys2Proof.Machine

/-- Why the machine stops. The module itself never does: every fault of the spec is a next state. -/
inductive Fault where
  /-- An instruction word is given to `exec` in a state in which no PC slot holds an issue slot and is ready to
  issue (R340). Raised by every instruction word, never through `step`. Safe. -/
  | noIssuingSlot
  deriving DecidableEq, Repr, Inhabited

/-- Why an instruction has no meaning. -/
inductive Refusal where
  /-- An arm of `exec` without a meaning yet, by its mnemonic. Safe. -/
  | notModelled (mnemonic : String)
  deriving DecidableEq, Repr

/-- The fault classes, codes 1 to 14 in this order (R369). -/
inductive FClass where
  | ill | priv | align | limit | xlate | perm | kv | code | lookahead | stack | abort | check | trap | brk
  deriving DecidableEq, Repr, Inhabited

/-! ## Translation -/

/-- The permissions of a leaf (R81). -/
structure Perm where
  rd : Bool := false
  w : Bool := false
  a : Bool := false
  x : Bool := false
  deriving DecidableEq, Repr, Inhabited

/-- A whole translation of a page (R83): bases of the page of the stated size, and the permissions of both stages. -/
structure Trans where
  vbase : Nat
  frame : Nat
  /-- The intermediate address of the page; 0 for a page of type host. -/
  ipa : Nat
  size : PSize
  /-- The size of the stage-2 leaf's page (R186). -/
  size2 : PSize
  p1 : Perm
  p2 : Perm
  host : Bool
  repl : Bool
  deriving DecidableEq, Repr, Inhabited

/-- A TLB entry: an ordinary one is tagged by asid, one obtained by ATS by pasid (R85). -/
structure TlbEntry where
  part : Nat
  tag : Nat
  tr : Trans
  deriving DecidableEq, Repr, Inhabited

/-- A translation register (R63, R66, R102). -/
structure XReg where
  v : Bool := false
  sp : Bool := false
  base : Nat := 0
  frame : Nat := 0
  limit : Nat := 0
  size : PSize := .k64
  p1 : Perm := {}
  p2 : Perm := {}
  host : Bool := false
  repl : Bool := false
  ipa : Nat := 0
  stale : Bool := false
  deriving DecidableEq, Repr, Inhabited

/-! ## Groups -/

/-- A load whose checks have passed and whose result is not written yet (R36, R90): LD, LDS, or a PKLD under the substitute
policy. It holds all that it needs: the destination name under the window base at issue, the bytes of an access, the hint, the
lanes with the addresses that they read, and for a PKLD the alphabet register, its number, and each lane's element index. -/
structure HeldLoad where
  vec : Bool
  d : Nat
  wb : Nat
  n : Nat
  h : Nat
  lanes : List (Nat × Nat × Bool)
  al : Option (W64 × Nat) := none
  idx : List (Nat × Nat) := []
  deriving DecidableEq, Repr, Inhabited

/-- What a PC slot waits for while it is not eligible (R340). -/
inductive Wait where
  | none
  /-- Parked after a JOIN, at the address after it (R334). -/
  | join
  /-- At a barrier, waiting for its completion: the selector, the generation in which this slot executed the
  instruction, and the scalar that receives it (R347). -/
  | barrier (sel : W64) (gen : Nat) (d : Option Nat)
  /-- AWAIT: until the barrier's generation differs (R348). -/
  | gen (sel : W64) (gen : Nat)
  /-- WAITC with its physical address, condition, comparand, first result scalar, deadline, next re-check, and whether a
  monitor is armed and whether the element lies beyond the package (R306 to R308). -/
  | cond (pa : Nat) (c : WCond) (v : W64) (d : Nat) (deadline : Option Nat) (next : Nat) (armed remote : Bool)
  /-- CWAIT: channel, counter (wptr or rdone), value (R184). -/
  | copy (ch : Nat) (wptr : Bool) (need : Nat)
  /-- COPY behind eight queued copies of the block on a channel (R180). -/
  | copyRoom (ch : Nat)
  /-- MWAIT: the batches up to a number (R274). -/
  | batches (n : Nat)
  /-- A slice access or a tile setting behind matrix instructions naming a tile (R198, R280). -/
  | tile (t : Nat)
  /-- Behind every QNT of the block on the quadrant (R280). -/
  | qnt
  /-- A matrix instruction at a full queue (R267). -/
  | queueRoom
  /-- Accesses beyond the package not yet performed: FENCE (host included or not), EXIT, TRAP, MBX (R309, R335). -/
  | remote (host : Bool)
  /-- EXIT of the last lanes: the group's matrix instructions (R335). -/
  | drain
  /-- TAKE: the issue-priority token, and the scalar that receives the result (R291). -/
  | prio (d : Nat)
  /-- The commit token (R363). -/
  | token
  /-- A ticketed ATOM or CAS: the release of every lower block (R356). -/
  | lower
  /-- PUBLISH: engine writes of the block issued before a given arrival number (R188). -/
  | engine (seq : Nat)
  /-- A push that needs room in the stack cache, or a pop that needs a fill (R177). -/
  | spill
  /-- The entries in memory when it began to wait. -/
  | fill (n : Nat)
  /-- TRAP at a full system-call ring (R382). -/
  | ring
  /-- An ATS translation of a page (R83), for an access or for the fetch of the slot's instruction (R105). -/
  | ats (page : Nat)
  | fetch (page : Nat)
  /-- XSET, PUBLISH: an invalidation in progress (R381, R188). -/
  | inval (id : Nat)
  /-- The tile fetch unit behind twelve pinned lines of a set (R191). -/
  | engineRoom
  /-- A load held at a replica until the commit of a store (R145). -/
  | replica (pa : Nat)
  /-- ALSET behind packed loads and stores of the block (R205). -/
  | packed
  /-- An access whose translation lands in a range that PUBLISH is invalidating (R188). -/
  | held (id : Nat)
  /-- A result of the group's other slot that is not written yet (R31, R342). -/
  | interlock
  /-- A load held at a replica, whose fetch suspension has ended (R90, R145). -/
  | load (x : HeldLoad)
  /-- The Translation Request of its instruction is answered: it executes again, its checks not yet passed (R90). -/
  | walked
  /-- XLATE while a load of the group's other slot has not landed (R93). -/
  | landing
  /-- CKPT of a launch: the handlers at work on its cores, or the Translation Request of a page of its area (R83, R375, R386); and
  the scalar that receives the result. -/
  | ckpt (launch d : Nat) (page : Option Nat)
  deriving DecidableEq, Repr, Inhabited

/-- A register that lookahead and the interlock watch (R29 to R31): vectors by physical number. -/
inductive WReg where
  | s (n : Nat)
  | v (p : Nat)
  | x (n : Nat)
  deriving DecidableEq, Repr, Inhabited

/-- A PC slot (R332). -/
structure Slot where
  /-- Canonical; for an empty slot the value last written for it by GWR (R379). -/
  pc : W64 := 0
  gpc : W64 := 0
  lanes : W64 := 0
  wait : Wait := .none
  /-- Runs of other slots since this slot last issued or became eligible (R340). -/
  waited : Nat := 0
  /-- The deadline of a timed WAITC that is issued again (R164). -/
  until_ : Option Nat := none
  /-- The alphabet register that a waiting PKLD or PKST has read (R206). -/
  al : Option W64 := none
  /-- What the instruction that the slot waits in will write (R31). -/
  pend : List WReg := []
  /-- A cancelled BAR or GBAR: its selector and the generation in which the slot executed it (R348). -/
  redo : Option (W64 × Nat) := none
  deriving DecidableEq, Repr, Inhabited

/-- An entry of the stack (R176). -/
structure SEntry where
  pending : Bool
  pc : W64
  lanes : W64
  deriving DecidableEq, Repr, Inhabited

/-- A lookahead window: instructions of the slot that may still issue inside it, the registers, and whether
reading them is allowed (R29, R30). -/
structure Window where
  sl : SlotId
  left : Nat
  regs : List WReg
  readOk : Bool
  deriving DecidableEq, Repr, Inhabited

/-- An error of a matrix instruction that no MWAIT has collected (R270, R274). -/
structure MErr where
  seq : Nat
  pc : W64
  batch : Nat
  cls : FClass
  sub : Nat
  tile : Nat
  progress : Nat
  detail : W64
  /-- The stage and level of the malformed table entry behind a PERM (R82). -/
  table : Option (Nat × Nat) := none
  deriving DecidableEq, Repr, Inhabited

/-- A page of an XLATE record (R97). -/
structure Page where
  first : Bool
  kind : Kind
  host : Bool
  page : Nat
  deriving DecidableEq, Repr, Inhabited

/-- A stage-2 fault record (R100). -/
structure S2Rec where
  kind : Kind
  walk : Bool
  level : Nat
  va : Nat
  ctx : Nat
  ipa : Nat
  deriving DecidableEq, Repr, Inhabited

/-- A fault as an instruction raises it (R51, R376): class, sub-code, lane, detail; for XLATE the kind, whether the
leaf is of type host, and a stage-2 fault; for KV the coordinate and the table entry. -/
structure FaultRec where
  cls : FClass
  sub : Nat := 0
  lane : Option Nat := none
  detail : W64 := 0
  page : Option (Kind × Bool) := none
  s2 : Option S2Rec := none
  kv : Option (W64 × Nat) := none
  /-- The result register of a CWAIT. -/
  cwd : Option Nat := none
  /-- The stage and level of a malformed table entry (R82). -/
  table : Option (Nat × Nat) := none
  deriving DecidableEq, Repr, Inhabited

/-- Whether a group executes, and if not why. -/
inductive Run where
  | running
  /-- Stopped by a fault that goes to the on-core handler, or inside the handler (R374). -/
  | trapped
  /-- Parked until a replayable record is released (R96, R123). -/
  | parked (rid : Nat)
  /-- Parked by the default handler on a BRK notice (R377). -/
  | brk (rid : Nat)
  /-- Parked on a system call, with its tag and the register of the reply (R382). -/
  | syscall (tag : Nat) (d : Nat)
  /-- Stopped by GRES 1 (R378). -/
  | stopped
  /-- GRES 1 takes effect at the next run boundary. -/
  | stopping
  | exited
  /-- The handler's context while no handler is entered. -/
  | idle
  deriving DecidableEq, Repr, Inhabited

/-- The registers of a group's bank (R52, R193, R194, R63, R57). -/
structure Bank where
  s : SMap W64 := []
  /-- Lane l of physical register p under key 64 p + l. -/
  v : SMap W32 := []
  m : SMap W64 := []
  x : SMap XReg := []
  wb : Nat := 0
  rmode : Nat := 0
  stkbase : W64 := 0
  stklim : W64 := 0
  slotA : Slot := {}
  slotB : Slot := {}
  /-- The entries in the stack cache, newest first (R177). -/
  stk : List SEntry := []
  /-- The number of older entries in memory. -/
  spilled : Nat := 0
  wins : List Window := []
  deriving DecidableEq, Repr, Inhabited

/-- Registers whose value depends on a missing result during run-ahead (R94). -/
structure Poison where
  s : List Nat := []
  v : List Nat := []
  m : List Nat := []
  x : List Nat := []
  wb : Bool := false
  deriving DecidableEq, Repr, Inhabited

/-- Run-ahead: the checkpoint, what is poisoned, the pages and stage-2 faults found, and the instructions run
(R93 to R95); `ended` holds the end cause once an end event has happened. -/
structure Ahead where
  saved : Bank
  sl : SlotId
  poison : Poison := {}
  pages : List Page := []
  s2 : List S2Rec := []
  count : Nat := 0
  ended : Option Nat := none
  deriving DecidableEq, Repr, Inhabited

/-- A group, or a handler context (R374). -/
structure Grp where
  b : Bank := {}
  /-- The vector allocation A (R34). -/
  valloc : Nat := 8
  idx1 : Nat := 0
  quad : Nat := 0
  rslot : Nat := 0
  priv : Bool := false
  run : Run := .running
  epc : W64 := 0
  ecause : W64 := 0
  edetail : W64 := 0
  /-- The result register of the CWAIT that raised the fault, as the default handler finds it in the instruction at epc
  (R377). -/
  cwd : Option Nat := none
  /-- The stage and level of the malformed table entry behind a PERM (R82). -/
  table : Option (Nat × Nat) := none
  /-- The slot that stopped, which resumes at epc (R378). -/
  eslot : SlotId := .a
  batch : Nat := 0
  merrs : List MErr := []
  ahead : Option Ahead := none
  /-- A spill or fill fault kept pending (R178). -/
  stkFault : Option FaultRec := none
  /-- The barriers at which the group has arrived, each with the generation of its last arrival (R347, R348). -/
  arrived : List (W64 × Nat) := []
  deriving DecidableEq, Repr, Inhabited

/-! ## Blocks -/

/-- A block's name: its launch (key) and flat index. -/
structure BId where
  launch : Nat
  flat : Nat
  deriving DecidableEq, Repr, Inhabited

/-- The settings of a tile (R279). -/
structure TSet where
  thr : W32 := 0
  zcnt : W32 := 0
  tdst : W64 := 0
  /-- tdctl without its split mark. -/
  tdctl : W64 := 0
  split : Bool := false
  deriving DecidableEq, Repr, Inhabited

/-- QNT statistics of a block on a quadrant (R278). -/
structure QStat where
  clip : W64 := 0
  total : W64 := 0
  under : W64 := 0
  max : W32 := 0
  flags : Bool := false
  deriving DecidableEq, Repr, Inhabited

/-- A pin-table entry (R120). -/
structure Pin where
  space : Nat
  seq : Nat
  layer : Nat
  head : Nat
  page : Nat
  frame : Nat
  tpp : Nat
  deriving DecidableEq, Repr, Inhabited

/-- A block's counters and error state of one channel (R181, R182). -/
structure Chan where
  rdone : Nat := 0
  wptr : Nat := 0
  /-- The class of the error and its sub-code. -/
  err : Option (FClass × Nat) := none
  off : Nat := 0
  /-- The stage and level of the malformed table entry behind a PERM (R82). -/
  table : Option (Nat × Nat) := none
  deriving DecidableEq, Repr, Inhabited

/-- A page of an open shadow: its intermediate address, live frame and shadow frame (R186). -/
structure ShPage where
  va : Nat
  ipa : Nat
  live : Nat
  shadow : Nat
  deriving DecidableEq, Repr, Inhabited

/-- An open shadow with its handle (R186). -/
structure Shadow where
  handle : Nat
  pages : List ShPage
  /-- Once PUBLISH has begun: the engine writes that arrived before this number go to the shadow frames (R188). -/
  pub : Option Nat := none
  /-- The leaves are rewritten: the invalidation that PUBLISH waits for (R188). -/
  closing : Option Nat := none
  deriving DecidableEq, Repr, Inhabited

/-- A staged write (R353). -/
inductive Staged where
  | store (pa n : Nat) (v : W64) (repl : Bool)
  | red (op : AOp) (pa n : Nat) (v : W64)
  | launch (lid : Nat) (rec : List W64)
  deriving DecidableEq, Repr, Inhabited

/-- Where a block is: waiting to be placed, on a core, out with its scratchpad still held by the core,
or out with its image written (R344). -/
inductive Place where
  | core (die core : Nat)
  | leaving (die core : Nat)
  | image
  | gone
  deriving DecidableEq, Repr, Inhabited

/-- A block. Its groups stand in State.groups. -/
structure Block where
  place : Place := .image
  /-- When it was placed last, for "most recently placed" (R330). -/
  placedAt : Nat := 0
  scratch : SMap Byte := []
  /-- Element (i, j) of tile t under key 4096 t + 64 i + j. -/
  tile : SMap W32 := []
  cnt : SMap (BitVec 16) := []
  tset : SMap TSet := []
  qst : SMap QStat := []
  al : SMap W64 := []
  alflags : BitVec 8 := 0
  /-- Entry l of draft n under key 64 n + l; unlisted entries are the identity's (R215). -/
  drafts : SMap (Option (BitVec 8)) := []
  pins : List Pin := []
  chs : SMap Chan := []
  shadows : List Shadow := []
  bgen : Nat := 0
  bcnt : Nat := 0
  /-- The gang's counters at which groups have arrived since they last completed, kept by its block of index 0 (R347). -/
  counters : List W64 := []
  tgroup : Nat := 0
  staged : List Staged := []
  /-- The translations that led to the staged writes (R101, R355). -/
  stagedBy : List TlbEntry := []
  /-- The block has exited, its list not yet released (R354). -/
  exited : Bool := false
  /-- The number of the image that the spill engine has written, which names the bytes that are the module's own (R344, R385; log
  entry 30). -/
  image : Option Nat := none
  deriving DecidableEq, Repr, Inhabited

/-! ## Engines -/

/-- A copy of a block on a channel (R179 to R181). -/
structure Copy where
  seq : Nat
  bid : BId
  ch : Nat
  kind : Nat
  op : Nat
  src : W64
  dst : W64
  len : Nat
  /-- The channel has begun to perform it. -/
  begun : Bool := false
  /-- The channel performs it now (R181). -/
  active : Bool := false
  /-- The element that has been read and not yet written (R181, R417). -/
  val : Option W64 := none
  /-- Bytes performed. -/
  done : Nat := 0
  /-- The record it is held on (R182). -/
  held : Option Nat := none
  deriving DecidableEq, Repr, Inhabited

/-- The instructions of the matrix queue (R267), with what each reads at issue. -/
inductive MOp where
  | mloop (desc : W64) (p : List W64) (al : W64)
  | had (ctl : W64)
  | qnt (ctl : W64)
  | tdr (mode : Nat)
  | tzero
  | tcopy
  deriving DecidableEq, Repr, Inhabited

/-- An entry of a matrix queue. Entries stand in the order of their queues. -/
structure MEntry where
  /-- Arrival number at the tile file. -/
  seq : Nat
  g : GId
  /-- The instruction's address. -/
  pc : W64
  batch : Nat
  word : Nat
  op : MOp
  d : Nat
  a : Nat
  /-- The engine executes it. -/
  started : Bool := false
  /-- K-steps completed, or rows drained. -/
  progress : Nat := 0
  /-- The zero points read when the loop started (R264). -/
  zps : List Int := []
  /-- The record it is held on, and whether that is a KV record (R269, R288). -/
  held : Option Nat := none
  kv : Bool := false
  /-- A drain has passed its start checks (R281). -/
  checked : Bool := false
  /-- Elements that a drain in progress has still to stage (R357). -/
  due : Nat := 0
  /-- The fault it is held on: class, sub-code, detail. -/
  why : FClass := .xlate
  sub : Nat := 0
  detail : W64 := 0
  /-- The strips that the step in progress has fetched (R191). -/
  stripA : List Byte := []
  stripB : List Byte := []
  /-- The frames that the step in progress pins (R120), and the L2 lines (R191). -/
  pins : List Nat := []
  lines : List Nat := []
  deriving DecidableEq, Repr, Inhabited

/-! ## Caches, memory side -/

/-- An L1 line of 64 bytes: its number, dirty bytes, exclusive, retention class (R151, R153). -/
structure L1Line where
  line : Nat
  mask : Nat := 0
  excl : Bool := false
  cls : Nat := 1
  deriving DecidableEq, Repr, Inhabited

/-- An L2 line of 256 bytes: its number, dirty sectors, retention class, engine pins (R150, R153, R191). -/
structure L2Line where
  line : Nat
  dirty : Nat := 0
  cls : Nat := 1
  pins : Nat := 0
  deriving DecidableEq, Repr, Inhabited

/-- An entry of a KV translation cache (R114). -/
structure KvEntry where
  part : Nat
  space : Nat
  seq : Nat
  layer : Nat
  head : Nat
  page : Nat
  entry : W64
  entryPa : Nat
  length : Nat
  deriving DecidableEq, Repr, Inhabited

/-- A request that waits at a home slice for the fill of a line: the line, the request's hint, who asked, and for which address
(R150, R155). -/
structure L2Fill where
  line : Nat
  hint : Nat
  taker : Taker
  pa : Nat
  deriving DecidableEq, Repr, Inhabited

/-- A condition monitor (R161). -/
structure Mon where
  pa : Nat
  c : WCond
  v : W64
  g : GId
  sl : SlotId
  deriving DecidableEq, Repr, Inhabited

/-- A wake on its way (R162). -/
structure Wake where
  g : GId
  sl : SlotId
  v : W64
  deriving DecidableEq, Repr, Inhabited

/-- An update-only copy on a die (R166): partial results by byte offset in the line. -/
structure Upd where
  die : Nat
  line : Nat
  op : AOp
  w64 : Bool
  parts : SMap W64
  deriving DecidableEq, Repr, Inhabited

/-- The state of a Cooper sector (R138). -/
structure Sector where
  tag : Nat := 0
  v : Bool := false
  d : Bool := false
  deriving DecidableEq, Repr, Inhabited

/-- A request that waits at the Cooper behind a fill of its slot: a fill request or the write-back of 64 bytes, with the wrong
symbols that its burst is read with (R139, R140). -/
structure CoopReq where
  slot : Nat
  pa : Nat
  wb : Bool
  sym : Nat
  deriving DecidableEq, Repr, Inhabited

/-- A Cooper transfer with LPDDR on its way (R139, R140): slot, LPDDR sector number. -/
structure CoopWrite where
  slot : Nat
  sector : Nat
  deriving DecidableEq, Repr, Inhabited

/-- A read of 64 bytes of a strip that serves several requests: of an A strip the quadrants of a core, of a B strip the cores of
a gang (R14, R192). -/
structure Cast where
  part : Nat
  pa : Nat
  /-- The core of an A strip. -/
  core : Option Nat
  /-- The gang of a B strip: launch and unit. -/
  gang : Nat × Nat
  /-- The cycle at which it was performed. -/
  cycle : Nat
  v : BitVec 512
  /-- Whom it has served: core, matrix instruction, K-step. -/
  takers : List (Nat × Nat × Nat)
  deriving DecidableEq, Repr, Inhabited

/-- An access to the host or a peer not yet performed at its destination (R297, R309). -/
structure Remote where
  g : GId
  /-- 0 for the host, 1 + m for module m. -/
  dest : Nat
  pa : Nat
  n : Nat
  v : W64
  red : Option AOp := none
  /-- The hint of a store (R153). -/
  h : Nat := 0
  deriving DecidableEq, Repr, Inhabited

/-! ## Cores and dies -/

/-- Whether a datapath computes rightly (R237, R239, R283). -/
inductive Health where
  | sound
  /-- Wrong once: the re-issue agrees. -/
  | glitch
  /-- Wrong always. -/
  | broken
  deriving DecidableEq, Repr, Inhabited

/-- A quadrant (R290, R340, R374). -/
structure Quad where
  /-- The holder of the issue-priority token (R290). -/
  prio : Option GId := none
  /-- The PC slot that issued last, as 2 rslot + slot; rule 4 starts after it (R340). -/
  last : Nat := 15
  /-- The run in progress: its slot and the instructions issued in it (R342). -/
  cur : Option (GId × SlotId × Nat) := none
  /-- The groups stopped for the handler, the first being served (R374). -/
  traps : List GId := []
  /-- The cycle at which the handler enters, or none once it has entered. -/
  entry : Option Nat := none
  /-- Whether a custom handler is running for the first of `traps`. -/
  active : Bool := false
  /-- The run that an interlock stalls: its slot and the instructions issued in it (R342). -/
  held : Option (GId × SlotId × Nat) := none
  /-- The ALUs by number, and the adders of the reduction tree: adder j of level k under key 64 k + j (R236, R254). -/
  alus : SMap Health := []
  adders : SMap Health := []
  res : Health := .sound
  deriving DecidableEq, Repr, Inhabited

/-- A core (R169, R116, R85, R237). -/
structure Core where
  p : Nat := 0
  frames : List Nat := []
  refill : Bool := false
  retryAt : Option Nat := none
  deferAt : Option Nat := none
  /-- The unit for whose P the core is compacted: launch, unit (R330). -/
  want : Option (Nat × Nat) := none
  l1 : List L1Line := []
  tlb : List TlbEntry := []
  fenced : Bool := false
  transient : Nat := 0
  quads : SMap Quad := []
  deriving DecidableEq, Repr, Inhabited

/-- A compute die (R85, R114, R138, R150, R142). -/
structure Die where
  tlb : List TlbEntry := []
  kv : List KvEntry := []
  /-- L2 lines, least recently used first. -/
  l2 : List L2Line := []
  /-- The requests at the home slices whose lines are being filled, oldest first (R150). -/
  l2Fills : List L2Fill := []
  cooper : SMap Sector := []
  blocked : List Nat := []
  /-- The 64-byte sectors of L2 lines whose write-back the Cooper dropped: their bytes are gone when the line goes (R139, R142). -/
  lost : List Nat := []
  coopWrites : List CoopWrite := []
  coopFills : List CoopWrite := []
  /-- Requests behind a fill of their slot, oldest first (R140). -/
  coopReqs : List CoopReq := []
  /-- Wrong symbols by burst of 64 bytes: of the die's HBM window, and of its carve-out as 32 slot + burst (R138). -/
  damage : SMap Nat := []
  coopDamage : SMap Nat := []
  /-- Corrected errors since the monitor of the die took its last sample (R387, R396). -/
  corrected : Nat := 0
  deriving DecidableEq, Repr, Inhabited

/-! ## Launches -/

/-- Why and how a launch ended (R320). -/
structure Ended where
  status : Nat
  reason : Nat
  deriving DecidableEq, Repr, Inhabited

/-- A launch (R317 to R326, R354, R360). -/
structure Launch where
  part : Nat
  id : Nat
  record : List W64
  /-- From the context descriptor, read once at the start (R79). -/
  root : Nat := 0
  pasid : Nat := 0
  hosten : Bool := false
  asid : Nat := 0
  /-- The launch was refused for want of a usable context descriptor (R79, R319). -/
  noctx : Bool := false
  /-- The shared range (R359). -/
  shBase : Nat := 0
  shLen : Nat := 0
  leader : Nat := 0
  counter : Nat := 0
  /-- Units handed to a die and not yet begun to be placed: unit, die (R324). -/
  handed : List (Nat × Nat) := []
  /-- Units placed at least once and held by a die: unit, die. -/
  held : List (Nat × Nat) := []
  /-- Units out of their cores, to be placed again (R330, R331). -/
  again : List Nat := []
  /-- Units that a new leader hands out before those beyond the counter (R326). -/
  lost : List Nat := []
  retired : List Nat := []
  /-- Relaunches by unit (R331), and of all units. -/
  relaunch : SMap Nat := []
  relaunches : Nat := 0
  /-- The flat number of the group that holds the commit token (R360). -/
  token : Nat := 0
  /-- Groups that have ever held it (R362). -/
  everHeld : List Nat := []
  /-- The lowest block index that has not released (R354). -/
  miller : Nat := 0
  disc : Bool := false
  ended : Option Ended := none
  /-- The completion record is written, or is not to be written. -/
  reported : Bool := false
  /-- The record that holds the completion record back (R320). -/
  hubRec : Option Nat := none
  deriving DecidableEq, Repr, Inhabited

/-! ## Partitions -/

/-- The kinds of a trap-queue record (R371). -/
inductive RKind where
  | replayable | notice | fatal
  deriving DecidableEq, Repr, Inhabited

/-- What a release of a record acts on (R373). -/
inductive Owner where
  | nobody
  | group (g : GId)
  | engine (seq : Nat)
  | copy (seq : Nat)
  | hub (launch : Nat)
  | brk (g : GId)
  deriving DecidableEq, Repr, Inhabited

/-- A record of the trap queue or on its way to it (R372). -/
structure Rec where
  /-- Sequence number: bits [63:8] of the identifier. -/
  rid : Nat
  cls : FClass
  kind : RKind
  src : Nat
  hdl : Bool := false
  launch : Nat
  gflat : Nat
  epc : W64 := 0
  cause : W64 := 0
  detail : W64 := 0
  payload : List W64 := []
  owner : Owner := .nobody
  /-- Stage-2 records (R100) that must be resolved before the record is released to software. -/
  s2 : List S2Rec := []
  /-- A Page Request Group is outstanding, or is to be sent when the record is posted; under the context's pasid (R79, R98). -/
  prg : Bool := false
  asked : Bool := false
  pasid : Nat := 0
  /-- The stage and level of the malformed table entry behind a PERM (R82). -/
  table : Option (Nat × Nat) := none
  popped : Bool := false
  /-- The class code of the envelope where it is not the code of `cls` (R372, R378). -/
  code : Option Nat := none
  deriving DecidableEq, Repr, Inhabited

/-- An invalidation's extent (R101, R381, R104). -/
inductive Extent where
  /-- A range of a context, under the asid and the pasid of the context. -/
  | virt (asid pasid start len : Nat)
  | ctx (asid pasid : Nat)
  | ipa (start len : Nat)
  | all
  | ats (pasid start len : Nat)
  /-- The intermediate pages of a published shadow (R188). -/
  | pages (ipas : List Nat)
  deriving DecidableEq, Repr, Inhabited

/-- Who asked for an invalidation. -/
inductive Asker where
  | chandler
  | host
  | group (g : GId) (sl : SlotId)
  | iommu
  deriving DecidableEq, Repr, Inhabited

/-- An invalidation in progress (R101). -/
structure Inval where
  id : Nat
  ext : Extent
  asker : Asker
  /-- The frames that go back to the shadow pool when it completes (R188). -/
  frames : List Nat := []
  deriving DecidableEq, Repr, Inhabited

/-- A replicated store at the sequencer (R145): offset in the HBM window, dies that have acknowledged. -/
structure RStore where
  rid : Nat
  off : Nat
  n : Nat
  v : BitVec 512
  acks : List Nat := []
  deriving DecidableEq, Repr, Inhabited

/-- A message of a mailbox with its sender (R189). -/
structure Msg where
  v : W64
  die : Nat
  core : Nat
  launch : Nat
  deriving DecidableEq, Repr, Inhabited

/-- The trap-handler descriptor (R374). -/
structure Handler where
  custom : Bool := false
  entry : W64 := 0
  /-- Its context, by number, and what the context table gives for it. -/
  ctxNo : Nat := 0
  root : Nat := 0
  pasid : Nat := 0
  hosten : Bool := false
  asid : Nat := 0
  stack : W64 := 0
  deriving DecidableEq, Repr, Inhabited

/-- A host launch queue's registers (R389). -/
structure LQ where
  base : W64 := 0
  size : W64 := 0
  head : W64 := 0
  tail : W64 := 0
  deriving DecidableEq, Repr, Inhabited

/-- A party that reads a monitor: one that reads register blocks, a group, or a peer (R389, R396; log entry 21). -/
inductive Reader where
  | party (p : Party)
  | group (g : GId)
  | peer
  deriving DecidableEq, Repr, Inhabited

/-- The fields of a monitor as a party's last latch found them (R396). -/
structure Latch where
  who : Reader
  min : W64
  max : W64
  count : W64
  sum : W64
  bins : SMap W32
  deriving DecidableEq, Repr, Inhabited

/-- A monitor (R396), with the fields latched for each party that reads it. -/
structure Monitor where
  min : W64 := 0
  max : W64 := 0
  count : W64 := 0
  sum : W64 := 0
  bins : SMap W32 := []
  latched : List Latch := []
  deriving DecidableEq, Repr, Inhabited

/-- A record of the device queue: its launch identifier, the priority of the launch that posted it, the record (R319,
R349). -/
structure DevRec where
  id : Nat
  prio : Nat
  record : List W64
  deriving DecidableEq, Repr, Inhabited

/-- A partition (R393, R371, R389). -/
structure Part where
  dies : List Nat := []
  debug : Bool := false
  ctxTable : Nat := 0
  s2root : Nat := 0
  spaces : Nat := 0
  frameTable : Nat := 0
  poolBase : Nat := 0
  poolSize : Nat := 0
  /-- Free frames of the shadow pool (R186). -/
  shadowPool : List Nat := []
  handler : Handler := {}
  flagBase : Nat := 0
  flagLen : Nat := 0
  lq : SMap LQ := []
  /-- The device queue, oldest first (R321, R349). -/
  devq : List DevRec := []
  /-- The queue that started a record last, for the round-robin (R321). -/
  rr : Nat := 16
  scbase : W64 := 0
  scsize : W64 := 0
  schead : W64 := 0
  sctail : W64 := 0
  screply : W64 := 0
  /-- The tags of parked calls (R382). -/
  calls : List Nat := []
  nextTag : Nat := 1
  tqbuf : W64 := 0
  tqrslt : Bool := false
  invstart : W64 := 0
  invlen : W64 := 0
  invctl : W64 := 0
  /-- Trap-queue slots (R371): slot number, record. -/
  tq : List (Nat × Rec) := []
  /-- Records whose producers wait, oldest first. -/
  tqWait : List Rec := []
  /-- BRK notices whose slot was freed by a pop, still outstanding: slot number, record (R373). -/
  brks : List (Nat × Rec) := []
  /-- Records with the Chandler: KV records with its allocator (R121), XLATE records whose stage-2 records are not yet
  resolved (R100), and XLATE records released with resume before their PRG Response (R98). -/
  chandler : List Rec := []
  nextRid : Nat := 1
  mbox0 : List Msg := []
  mbox1 : List Msg := []
  mons : SMap Monitor := []
  invs : List Inval := []
  repl : List RStore := []
  nextLaunch : Nat := 1
  /-- The machine check that halted the launches (R422). -/
  halted : Bool := false
  /-- The reason of a machine check whose halt is due (R142, R422). -/
  mcheck : Option Nat := none
  deriving DecidableEq, Repr, Inhabited

/-- A pre-emption that waits for a handler to leave, since when, and the handler whose CKPT asks for it (R375, R386). -/
structure Pend where
  launch : Nat
  unit : Nat
  since : Nat
  by_ : Option GId := none
  deriving DecidableEq, Repr, Inhabited

/-- What a checkpoint's bytes hold (R386). -/
structure Ckpt where
  bytes : List Byte
  launch : Nat × Launch
  blocks : List (BId × Block)
  groups : List (GId × Grp)
  matq : List MEntry
  copies : List Copy
  deriving DecidableEq, Repr, Inhabited

/-! ## The module -/

/-- An access from outside that waits for the commit of a replicated store (R145): a peer's, or the host's. -/
structure OutAcc where
  op : PeerOp
  part : Nat
  pa : Nat
  n : Nat
  v : BitVec 512
  v2 : W64
  /-- The host's, of 1 to 64 bytes (R388). -/
  host : Bool := false
  /-- Its answer is bytes. -/
  wide : Bool := false
  deriving DecidableEq, Repr, Inhabited

/-- Interrupts to the Chandler and the host (R383, R142, R371, R156, R237). -/
inductive Irq where
  | cooperError (die slot : Nat)
  | machineCheck (part : Nat)
  | fabricError (slice : Nat) (taker : Taker)
  | memoryError (line : Nat)
  | fenceCore (die core : Nat)
  /-- An uncorrectable error in a core's SRAM, register files, tiles or stack cache (R387). -/
  | sramError (die core : Nat)
  deriving DecidableEq, Repr, Inhabited

/-- A transfer over the on-chip network: a header flit and data flits of 32 bytes (R155). -/
inductive Transfer where
  /-- By a slice's network interface: the slice's number in the package, the receiver, the block header, the payload and its data
  flits (R149, R155, R159). -/
  | block (slice : Nat) (taker : Taker) (hdr : BitVec 16) (payload : List Byte) (n : Nat)
  /-- One that is never compressed: its bytes and its data flits. -/
  | plain (bytes n : Nat)
  deriving DecidableEq, Repr, Inhabited

/-- What the module sends to the outside world as the answer to a request. -/
inductive Answer where
  | value (n : Nat) (v : W64)
  /-- A block that a receiver has rebuilt (R160). -/
  | block (bytes : List Byte)
  /-- The bytes of a load. -/
  | data (bytes : List Byte)
  | abort
  | invalidated (part : Nat)
  | ats (part : Nat)
  /-- A Page Request under a pasid for a host page of a record, and whether it is the last of its group (R79, R98). -/
  | pageRequest (part pasid rid page : Nat) (last : Bool)
  /-- A Translation Request with PASID (R103). -/
  | atsRequest (part pasid page : Nat)
  /-- A stage-2 fault record for the partition manager (R100). -/
  | stage2 (part rid : Nat) (dws : List W64)
  | measurements (image record : List Byte)
  | challenge (sig : List Byte)
  | popId (id : W64)
  | refused
  | offloaded (entry : W64)
  | freed (frame : Nat)
  | ckptDone (ok : Bool)
  deriving DecidableEq, Repr, Inhabited

/-- The fields of the signed configuration record that the manual names (R136, R392, R393). -/
structure Cfg where
  nparts : Nat := 1
  share : Nat := 1
  domain : Nat := 0
  /-- Route table: module, set of ports as bits (R392). -/
  routes : SMap Nat := []
  spares : SMap Nat := []
  deriving DecidableEq, Repr, Inhabited

/-- Firmware banks and measurements (R394, R399). -/
structure Firmware where
  bankA : List Byte := []
  bankB : List Byte := []
  runningB : Bool := false
  imageHash : List Byte := []
  recordHash : List Byte := []
  deriving DecidableEq, Repr, Inhabited

/-- A Translation Completion that has arrived: present, permissions, host physical address, size (R103). -/
structure Ats where
  part : Nat
  pasid : Nat
  va : Nat
  present : Bool
  rd : Bool
  w : Bool
  hpa : Nat
  size : PSize
  deriving DecidableEq, Repr, Inhabited

/-- A core's name. -/
structure CId where
  die : Nat
  core : Nat
  deriving DecidableEq, Repr, Inhabited

/-- The state of one module. -/
structure State where
  /-- Module power (R400). -/
  power : Bool := false
  ready : W64 := 0
  fenced : W64 := 0
  /-- The dies that the Chandler is fencing: no unit is placed there, and the fence takes effect when the pre-emptible units have
  left (R397). -/
  fencing : List Nat := []
  throttle : W64 := 0
  cfg : Cfg := {}
  fw : Firmware := {}
  cycle : Nat := 0
  nanos : Nat := 0
  /-- What a load inside the package returns (R293), by physical address; above 2^52 the read-only copies that a die keeps of
  lines beyond the package, in a part of its own for each die (R298). -/
  mem : SMap Byte := []
  /-- What the home slice holds or would fill (R150, R151). -/
  l2m : SMap Byte := []
  /-- What HBM, the Cooper's sector, the host or the peer holds (R132, R139, R298). -/
  low : SMap Byte := []
  /-- What the LPDDR channels hold (R139). -/
  lpd : SMap Byte := []
  /-- The 256-byte lines whose data is withheld (R383). -/
  withheld : List Nat := []
  /-- Translation Completions that no walk has used yet (R103). -/
  ats : List Ats := []
  /-- Translation Requests on their way: partition, pasid, page of 64 KiB (R103). -/
  atsOut : List (Nat × Nat × Nat) := []
  monitors : List Mon := []
  wakes : List Wake := []
  updates : List Upd := []
  remote : List Remote := []
  /-- Accesses of peers and the host held at a replica (R145). -/
  outHeld : List OutAcc := []
  copies : List Copy := []
  matq : List MEntry := []
  casts : List Cast := []
  dies : SMap Die := []
  /-- Under key 256 die + core. -/
  cores : SMap Core := []
  parts : SMap Part := []
  launches : List (Nat × Launch) := []
  blocks : List (BId × Block) := []
  groups : List (GId × Grp) := []
  /-- Pre-emptions that wait for a handler to leave (R375). -/
  pends : List Pend := []
  irqs : List Irq := []
  outbox : List Answer := []
  /-- The transfers over the on-chip network, oldest first (R155). -/
  fabric : List Transfer := []
  /-- The model's own: the steps that come next (log entry 3), the quadrant whose run goes on and the one that started a
  run last (log entry 4), the number of the next free value, and arrival numbers. -/
  agenda : List Instr := []
  cur : Option (Nat × Nat × Nat) := none
  turn : Nat := 0
  free : Nat := 0
  seq : Nat := 0
  /-- What the checkpoints that the module has written hold, whose bytes are its own (R385; log entry 30). -/
  ckpts : List Ckpt := []
  deriving DecidableEq, Repr, Inhabited

/-- The machine right after reset: power is off or has just come on, no firmware is started, no bit of READY is
posted, and nothing is configured, placed or stored (R394, R395, R400). -/
def State.reset : State := {}

end Sys2Proof.Machine
end

