-- ==== Sys2Proof/Machine/Maps.lean ====
section
/-! DEFINITION. Numbered quantities and keyed lists: how State's sorted lists are read and written. -/

namespace Sys2Proof.Machine

/-- What number k reads as. -/
def mget {α : Type} (d : α) : SMap α → Nat → α
  | [], _ => d
  | (j, v) :: r, k => if j = k then v else mget d r k

/-- Puts v at its place in a sorted list, replacing what stands under k. -/
def mput {α : Type} (k : Nat) (v : α) : SMap α → SMap α
  | [] => [(k, v)]
  | (j, w) :: r =>
    if j < k then (j, w) :: mput k v r
    else if j = k then (k, v) :: r
    else (k, v) :: (j, w) :: r

/-- Removes what stands under k. -/
def mdel {α : Type} (k : Nat) (m : SMap α) : SMap α := m.filter fun e => e.1 != k

/-- Writes v under k; writing the value d that an unlisted number reads as removes the entry. -/
def mset {α : Type} [DecidableEq α] (d : α) (m : SMap α) (k : Nat) (v : α) : SMap α :=
  if v = d then mdel k m else mput k v m

/-- Numbers rise strictly from a lower bound, and no entry equals d. -/
def mwfFrom {α : Type} [DecidableEq α] (d : α) : Nat → SMap α → Bool
  | _, [] => true
  | lo, (k, v) :: r => decide (lo ≤ k) && decide (v ≠ d) && mwfFrom d (k + 1) r

/-- The canonical form: strictly rising numbers, no entry equal to what an unlisted number reads as. -/
def mwf {α : Type} [DecidableEq α] (d : α) (m : SMap α) : Bool := mwfFrom d 0 m

/-- The n numbers from lo read as src reads them, every other as dst does. -/
def mcopy {α : Type} (src dst : SMap α) (lo n : Nat) : SMap α :=
  dst.filter (fun e => decide (e.1 < lo)) ++ (src.filter fun e => decide (lo ≤ e.1 ∧ e.1 < lo + n)) ++
    dst.filter fun e => decide (lo + n ≤ e.1)

/-- The n numbers from lo of dst read as those from `from_` of src, every other as before. -/
def mcopyTo {α : Type} (src dst : SMap α) (from_ lo n : Nat) : SMap α :=
  mcopy ((src.filter fun e => decide (from_ ≤ e.1 ∧ e.1 < from_ + n)).map fun e => (e.1 - from_ + lo, e.2)) dst lo n

/-- The n numbers from dst read as those from src did. -/
def mmove {α : Type} (m : SMap α) (src dst n : Nat) : SMap α := mcopyTo m m src dst n

/-- The n numbers from lo read as d. -/
def mclear {α : Type} (m : SMap α) (lo n : Nat) : SMap α := mcopy [] m lo n

/-- The value under a key of a keyed list. -/
def alook {κ α : Type} [DecidableEq κ] : List (κ × α) → κ → Option α
  | [], _ => none
  | (j, v) :: r, k => if j = k then some v else alook r k

/-- Replaces the value under a key, or adds it at the end. -/
def aput {κ α : Type} [DecidableEq κ] (k : κ) (v : α) : List (κ × α) → List (κ × α)
  | [] => [(k, v)]
  | (j, w) :: r => if j = k then (k, v) :: r else (j, w) :: aput k v r

/-- Changes the value under a key, if there is one. -/
def amod {κ α : Type} [DecidableEq κ] (k : κ) (f : α → α) : List (κ × α) → List (κ × α)
  | [] => []
  | (j, w) :: r => if j = k then (j, f w) :: r else (j, w) :: amod k f r

/-- Removes what stands under a key. -/
def adel {κ α : Type} [DecidableEq κ] (k : κ) (m : List (κ × α)) : List (κ × α) :=
  m.filter fun e => decide (e.1 ≠ k)

/-! ## Bytes and numbers -/

/-- The n bytes from address a as a number, little-endian (R22). -/
def loadN (m : SMap Byte) (a : Nat) : Nat → Nat
  | 0 => 0
  | n + 1 => (mget 0 m a).toNat + 256 * loadN m (a + 1) n

/-- Writes the low n bytes of v from address a, little-endian (R22). -/
def storeN (m : SMap Byte) (a v : Nat) : Nat → SMap Byte
  | 0 => m
  | n + 1 => storeN (mset 0 m a (BitVec.ofNat 8 v)) (a + 1) (v / 256) n

/-- The bytes from address a. -/
def bytesAt (m : SMap Byte) (a : Nat) : Nat → List Byte
  | 0 => []
  | n + 1 => mget 0 m a :: bytesAt m (a + 1) n

/-- Writes a list of bytes from address a. -/
def storeBytes (m : SMap Byte) (a : Nat) : List Byte → SMap Byte
  | [] => m
  | b :: r => storeBytes (mset 0 m a b) (a + 1) r

/-- Bits [lo + n - 1 : lo] of a number. -/
def bits (x lo n : Nat) : Nat := x / 2 ^ lo % 2 ^ n

/-- Bit i of a number. -/
def bit (x i : Nat) : Bool := x.testBit i

/-- A w-bit number read in two's complement. -/
def sext (w x : Nat) : Int := if x % 2 ^ w < 2 ^ (w - 1) then (x % 2 ^ w : Nat) else (x % 2 ^ w : Nat) - 2 ^ w

/-- An integer's low w bits. -/
def low (w : Nat) (x : Int) : Nat := (x % 2 ^ w).toNat

/-- 1 or 0. -/
def b01 (b : Bool) : Nat := if b then 1 else 0

/-- Rounds x up to a multiple of n. -/
def ceilDiv (x n : Nat) : Nat := (x + n - 1) / n

/-- The lanes of a mask, ascending. -/
def lanesOf (mask : W64) : List Nat := (List.range 64).filter fun l => mask.toNat.testBit l

/-- A 64-bit number holds a canonical virtual address: bits [63:57] equal bit [56] (R77). -/
def canonical (x : Nat) : Bool := bits x 56 8 == 0 || bits x 56 8 == 255

/-- The low 57 bits of a virtual address. -/
def va57 (x : Nat) : Nat := x % 2 ^ 57

/-- A 57-bit address as the canonical 64-bit value (R64). -/
def canon (x : Nat) : W64 := BitVec.ofInt 64 (sext 57 x)

/-- Consecutive numbers from a. -/
def upFrom (a n : Nat) : List Nat := (List.range n).map (a + ·)

/-- A list without repeats of earlier elements. -/
def distinct {α : Type} [DecidableEq α] (l : List α) : List α :=
  l.foldl (fun acc x => if acc.contains x then acc else acc ++ [x]) []

end Sys2Proof.Machine
end

