-- ==== Sys2Proof/Machine/Float.lean ====
section
/-! DEFINITION. Number formats, rounding, comparison, and floating-point arithmetic (R218 to R234, R245 to R252).

A value is a sign, a natural significand and a power of two, so every sum and product is exact; a quotient or a root
is computed to more bits than any format has, with a last bit that says whether anything was cut off. Rounding to a
format is one function, `roundTo`. -/

namespace Sys2Proof.Machine

/-- The floating-point formats of R218. -/
inductive Fmt where
  | fp32 | fp16 | bf16 | e4m3 | e5m2 | e2m1 | e3m5 | e8m0
  deriving DecidableEq, Repr, Inhabited

/-- The rounding modes of R225. -/
inductive RMode where
  | rne | rtz | rdn | rup | rna | sr | sat
  deriving DecidableEq, Repr, Inhabited

/-- A value: NaN, an infinity, or (-1)^neg · m · 2^e. -/
inductive Val where
  | nan
  | inf (neg : Bool)
  | fin (neg : Bool) (m : Nat) (e : Int)
  deriving DecidableEq, Repr, Inhabited

/-- Width of the mantissa field (R218). -/
def Fmt.man : Fmt → Nat
  | .fp32 => 23 | .fp16 => 10 | .bf16 => 7 | .e4m3 => 3 | .e5m2 => 2 | .e2m1 => 1 | .e3m5 => 5 | .e8m0 => 0

/-- Width of the exponent field (R218). -/
def Fmt.exp : Fmt → Nat
  | .fp32 => 8 | .fp16 => 5 | .bf16 => 8 | .e4m3 => 4 | .e5m2 => 5 | .e2m1 => 2 | .e3m5 => 3 | .e8m0 => 8

/-- The exponent bias (R218). -/
def Fmt.bias : Fmt → Int
  | .fp32 => 127 | .fp16 => 15 | .bf16 => 127 | .e4m3 => 7 | .e5m2 => 15 | .e2m1 => 1 | .e3m5 => 3 | .e8m0 => 127

/-- The exponent of the smallest normal value (R218). -/
def Fmt.emin : Fmt → Int
  | .e8m0 => -127
  | f => 1 - f.bias

/-- Whether the format has a sign bit. -/
def Fmt.signed : Fmt → Bool
  | .e3m5 => false | .e8m0 => false | _ => true

/-- The largest finite value as a significand and a power of two (R218). -/
def Fmt.maxFin : Fmt → Nat × Int
  | .fp32 => (2 ^ 24 - 1, 104) | .fp16 => (2047, 5) | .bf16 => (255, 120) | .e4m3 => (7, 6) | .e5m2 => (7, 13)
  | .e2m1 => (3, 1) | .e3m5 => (63, -1) | .e8m0 => (1, 127)

/-- The encoding of the largest finite value, sign clear. -/
def Fmt.maxBits : Fmt → Nat
  | .fp32 => 0x7F7FFFFF | .fp16 => 0x7BFF | .bf16 => 0x7F7F | .e4m3 => 0x7E | .e5m2 => 0x7B | .e2m1 => 7
  | .e3m5 => 0xFF | .e8m0 => 0xFE

/-- The encoding of +infinity, where the format has one; elsewhere what R226 gives for it. -/
def Fmt.infBits : Fmt → Nat
  | .fp32 => 0x7F800000 | .fp16 => 0x7C00 | .bf16 => 0x7F80 | .e4m3 => 0x7F | .e5m2 => 0x7C | .e2m1 => 7
  | .e3m5 => 0xFF | .e8m0 => 0xFF

/-- The canonical NaN (R230), or what R226 gives for a NaN input. -/
def Fmt.nanBits : Fmt → Nat
  | .fp32 => 0x7FC00000 | .fp16 => 0x7E00 | .bf16 => 0x7FC0 | .e4m3 => 0x7F | .e5m2 => 0x7E | .e2m1 => 7
  | .e3m5 => 0xFF | .e8m0 => 0xFF

/-- The sign bit of a format as a number to add. -/
def Fmt.signBit (f : Fmt) : Nat := if f.signed then 2 ^ (f.man + f.exp) else 0

/-- The value of an encoding (R219, R222); xv is the extra value of E2M1 in halves. -/
def decodeFmt (f : Fmt) (xv : Int) (c : Nat) : Val :=
  let m := bits c 0 f.man
  let e := bits c f.man f.exp
  let neg := f.signed && c.testBit (f.man + f.exp)
  match f with
  | .e8m0 => if e = 255 then .nan else .fin false 1 ((e : Int) - 127)
  | .e2m1 =>
    if c % 16 = 8 then .fin (decide (xv < 0)) xv.natAbs (-1)
    else if e = 0 then .fin neg m (-1) else .fin neg (2 + m) ((e : Int) - 2)
  | _ =>
    let top := 2 ^ f.exp - 1
    if e = top && (f = .fp32 || f = .fp16 || f = .bf16 || f = .e5m2) then
      if m = 0 then .inf neg else .nan
    else if e = top && f = .e4m3 && m = 7 then .nan
    else if e = 0 then .fin neg m (1 - f.bias - f.man)
    else .fin neg (2 ^ f.man + m) ((e : Int) - f.bias - f.man)

/-- The value of FP32 bits. -/
def f32 (x : W32) : Val := decodeFmt .fp32 0 x.toNat

/-- The number of bits of a natural number. -/
def bitLen (m : Nat) : Nat := if m = 0 then 0 else Nat.log2 m + 1

/-- Whether m · 2^e is above n · 2^k. -/
def magGt (m : Nat) (e : Int) (n : Nat) (k : Int) : Bool :=
  if e ≤ k then decide (n * 2 ^ (k - e).toNat < m) else decide (n < m * 2 ^ (e - k).toNat)

/-- Whether the mode moves a magnitude between a and b up to b (R225): the part cut off is r of 2^sh, the
significand kept is q. -/
def roundUp (f : Fmt) (mode : RMode) (w : W32) (neg : Bool) (q r sh : Nat) : Bool :=
  if r = 0 then false
  else
    match mode with
    | .rne | .sat => decide (2 ^ sh < 2 * r) || (decide (2 * r = 2 ^ sh) && (f = .e8m0 || q % 2 = 1))
    | .rna => decide (2 ^ sh ≤ 2 * r)
    | .rtz => false
    | .rdn => neg
    | .rup => !neg
    | .sr => decide (w.toNat * 2 ^ sh < r * 2 ^ 32)

/-- The encoding of an overflow (R226). -/
def overflowBits (f : Fmt) (mode : RMode) (neg : Bool) : Nat :=
  let s := if neg then f.signBit else 0
  match f with
  | .e2m1 => s + 7
  | .e3m5 => 0xFF
  | .e8m0 =>
    match mode with
    | .rtz | .rdn | .sat => 0xFE
    | _ => 0xFF
  | _ =>
    let big := if f = .e4m3 then 0x7F else s + f.infBits
    match mode with
    | .rne | .rna | .sr => big
    | .rtz | .sat => s + f.maxBits
    | .rdn => if neg then big else f.maxBits
    | .rup => if neg then s + f.maxBits else big

/-- The encoding of a magnitude q · 2^u on the grid and within the finite range. -/
def gridBits (f : Fmt) (neg : Bool) (q : Nat) (u : Int) : Nat :=
  let s := if neg then f.signBit else 0
  if q = 0 then (if f = .e2m1 then 0 else s)
  else
    let ex := (Nat.log2 q : Int) + u
    match f with
    | .e8m0 => (ex + 127).toNat
    | _ =>
      if ex < f.emin then s + q
      else
        let d := (f.man : Int) - Nat.log2 q
        let sig := if d < 0 then q / 2 ^ (-d).toNat else q * 2 ^ d.toNat
        s + (ex + f.bias).toNat * 2 ^ f.man + (sig - 2 ^ f.man)

/-- Round(x, F, mode) of R225 and R226; w holds the random bits of SR. -/
def roundTo (f : Fmt) (mode : RMode) (w : W32) (x : Val) : Nat :=
  match x with
  | .nan => f.nanBits
  | .inf neg =>
    match f with
    | .e2m1 => (if neg then 8 else 0) + 7
    | .e3m5 => if neg then 0 else 0xFF
    | .e8m0 => if neg then 0 else if mode = .sat then 0xFE else 0xFF
    | .e4m3 => if mode = .sat then (if neg then f.signBit else 0) + f.maxBits else 0x7F
    | _ => (if neg then f.signBit else 0) + (if mode = .sat then f.maxBits else f.infBits)
  | .fin neg m e =>
    if m = 0 then (if f = .e2m1 then 0 else if neg then f.signBit else 0)
    else if neg && !f.signed then 0
    else
      let top := (Nat.log2 m : Int) + e
      if f = .e8m0 && decide (top < -127) then 0
      else
        let u := (if top < f.emin then f.emin else top) - f.man
        let sh := (u - e).toNat
        let q0 := if u ≤ e then m * 2 ^ (e - u).toNat else m / 2 ^ sh
        let r := if u ≤ e then 0 else m % 2 ^ sh
        let q := if roundUp f mode w neg q0 r sh then q0 + 1 else q0
        if magGt q u f.maxFin.1 f.maxFin.2 then overflowBits f mode neg else gridBits f neg q u

/-- RoundF32(x, RNE) as bits (R50). -/
def toF32 (x : Val) : W32 := BitVec.ofNat 32 (roundTo .fp32 .rne 0 x)

/-- A value rounded to the grid of integers (R228). -/
def roundInt (mode : RMode) (w : W32) (neg : Bool) (m : Nat) (e : Int) : Int :=
  let q0 := if 0 ≤ e then m * 2 ^ e.toNat else m / 2 ^ (-e).toNat
  let r := if 0 ≤ e then 0 else m % 2 ^ (-e).toNat
  let q := if roundUp .fp32 mode w neg q0 r (-e).toNat then q0 + 1 else q0
  if neg then -(q : Int) else q

/-- A value rounded into [lo, hi], saturating; NaN gives 0 (R228). -/
def toInt (lo hi : Int) (mode : RMode) (w : W32) (x : Val) : Int :=
  match x with
  | .nan => 0
  | .inf neg => if neg then lo else hi
  | .fin neg m e => let q := roundInt mode w neg m e; if q < lo then lo else if hi < q then hi else q

/-- An integer as a value. -/
def ofInt (x : Int) : Val := .fin (decide (x < 0)) x.natAbs 0

/-! ## Exact arithmetic -/

/-- The value with the other sign. -/
def Val.neg : Val → Val
  | .nan => .nan
  | .inf n => .inf (!n)
  | .fin n m e => .fin (!n) m e

/-- A finite value as a signed significand. -/
def signedM (n : Bool) (m : Nat) : Int := if n then -(m : Int) else m

/-- The exact sum (R246, R229): an exact zero is +0 unless both terms are zeros of one sign, or negative in
mode RDN. -/
def Val.addM (rdn : Bool) (a b : Val) : Val :=
  match a, b with
  | .nan, _ => .nan
  | _, .nan => .nan
  | .inf x, .inf y => if x = y then .inf x else .nan
  | .inf x, .fin _ _ _ => .inf x
  | .fin _ _ _, .inf y => .inf y
  | .fin n m e, .fin n' m' e' =>
    let k := if e ≤ e' then e else e'
    let t := signedM n m * 2 ^ (e - k).toNat + signedM n' m' * 2 ^ (e' - k).toNat
    if t = 0 then .fin (if m = 0 && m' = 0 && n = n' then n else rdn) 0 0
    else .fin (decide (t < 0)) t.natAbs k

/-- The exact sum under RNE's zero rule. -/
def Val.add (a b : Val) : Val := Val.addM false a b

/-- The exact product (R246): infinity times zero is NaN; a zero has the product of the signs. -/
def Val.mul (a b : Val) : Val :=
  match a, b with
  | .nan, _ => .nan
  | _, .nan => .nan
  | .inf x, .inf y => .inf (x != y)
  | .inf x, .fin n m _ => if m = 0 then .nan else .inf (x != n)
  | .fin n m _, .inf y => if m = 0 then .nan else .inf (n != y)
  | .fin n m e, .fin n' m' e' => .fin (n != n') (m * m') (e + e')

/-- A quotient of magnitudes to at least k bits, with a last bit that tells whether it was cut off. -/
def divMag (m : Nat) (e : Int) (m' : Nat) (e' : Int) (k : Nat) : Nat × Int :=
  let sh := k + bitLen m'
  let q := m * 2 ^ sh / m'
  let r := m * 2 ^ sh % m'
  (2 * q + b01 (r != 0), e - e' - sh - 1)

/-- The quotient of R249. -/
def Val.div (a b : Val) : Val :=
  match a, b with
  | .nan, _ => .nan
  | _, .nan => .nan
  | .inf _, .inf _ => .nan
  | .inf x, .fin n _ _ => .inf (x != n)
  | .fin n _ _, .inf y => .fin (n != y) 0 0
  | .fin n m e, .fin n' m' e' =>
    if m' = 0 then (if m = 0 then .nan else .inf (n != n'))
    else if m = 0 then .fin (n != n') 0 0
    else let (q, k) := divMag m e m' e' 64; .fin (n != n') q k

/-- The square root of n by its bits from 2^i down. -/
def isqrtFrom (n : Nat) : Nat → Nat → Nat
  | 0, r => r
  | i + 1, r => if (r + 2 ^ i) * (r + 2 ^ i) ≤ n then isqrtFrom n i (r + 2 ^ i) else isqrtFrom n i r

/-- The natural square root. -/
def isqrt (n : Nat) : Nat := isqrtFrom n (bitLen n / 2 + 1) 0

/-- The square root of a magnitude to at least 64 bits, with its last bit as in `divMag`. -/
def sqrtMag (m : Nat) (e : Int) : Nat × Int :=
  let odd : Nat := if e % 2 = 0 then 0 else 1
  let n := m * 2 ^ (odd + 128)
  let r := isqrt n
  (2 * r + b01 (r * r != n), (e - odd) / 2 - 65)

/-- SQRT of R251 and R252. -/
def Val.sqrt : Val → Val
  | .nan => .nan
  | .inf n => if n then .nan else .inf false
  | .fin n m e =>
    if m = 0 then .fin n 0 0 else if n then .nan else let (q, k) := sqrtMag m e; .fin false q k

/-- RCP of R251 and R252. -/
def Val.rcp (a : Val) : Val := Val.div (.fin false 1 0) a

/-- RSQ of R251 and R252: the root of the reciprocal, cut off once. -/
def Val.rsq : Val → Val
  | .nan => .nan
  | .inf n => if n then .nan else .fin false 0 0
  | .fin n m e =>
    if m = 0 then .inf n
    else if n then .nan
    else
      let odd : Nat := if e % 2 = 0 then 0 else 1
      let d := m * 2 ^ odd
      let k := 128 + 2 * bitLen d
      let q := isqrt (2 ^ k / d)
      .fin false (2 * q + b01 (q * q * d != 2 ^ k)) (-((e - odd) / 2) - (k / 2 : Nat) - 1)

/-! ## Comparison (R231, R232, R243) -/

/-- Compares two values that are not NaN, zeros of both signs equal. -/
def Val.cmp (a b : Val) : Ordering :=
  match a, b with
  | .inf x, .inf y => if x = y then .eq else if x then .lt else .gt
  | .inf x, _ => if x then .lt else .gt
  | _, .inf y => if y then .gt else .lt
  | .fin n m e, .fin n' m' e' =>
    let k := if e ≤ e' then e else e'
    compare (signedM n m * 2 ^ (e - k).toNat) (signedM n' m' * 2 ^ (e' - k).toNat)
  | _, _ => .eq

/-- NaN bits of FP32. -/
def isNaN (x : W32) : Bool := decide (0x7F800000 < x.toNat % 2 ^ 31)

/-- IEEE equality (R243). -/
def feq (a b : W32) : Bool := !isNaN a && !isNaN b && (f32 a).cmp (f32 b) == .eq

/-- IEEE less. -/
def flt (a b : W32) : Bool := !isNaN a && !isNaN b && (f32 a).cmp (f32 b) == .lt

/-- IEEE less or equal. -/
def fle (a b : W32) : Bool := flt a b || feq a b

/-- The natural key of the totalOrder predicate (R231). -/
def totalKey (x : W32) : Nat := if x.toNat < 2 ^ 31 then x.toNat + 2 ^ 31 else 2 ^ 32 - 1 - x.toNat

/-- Strictly below in the min-max order of R232, NaNs apart: the numeric order with -0 below +0. -/
def mmLt (a b : W32) : Bool := decide (totalKey a < totalKey b)

/-- FMIN or FMAX by the min-max order (R232). -/
def fmm (max : Bool) (a b : W32) : W32 :=
  if isNaN a || isNaN b then 0x7FC00000
  else if max then (if mmLt a b then b else a) else (if mmLt b a then b else a)

/-- FMINI or FMAXI (R246). -/
def fmmi (max : Bool) (a b : W32) : W32 :=
  if isNaN a && isNaN b then 0x7FC00000
  else if isNaN a then b
  else if isNaN b then a
  else fmm max a b

/-- The class mask of R247. -/
def fclass (x : W32) : W32 :=
  let m := x.toNat % 2 ^ 31
  let neg := decide (2 ^ 31 ≤ x.toNat)
  let k : Nat :=
    if isNaN x then 8
    else if m = 0x7F800000 then (if neg then 0 else 7)
    else if m = 0 then (if neg then 3 else 4)
    else if m < 0x800000 then (if neg then 2 else 5)
    else (if neg then 1 else 6)
  BitVec.ofNat 32 (2 ^ k)

/-! ## VF (R245, R246) -/

/-- fadd. -/
def fadd (a b : W32) : W32 := toF32 ((f32 a).add (f32 b))
/-- fsub. -/
def fsub (a b : W32) : W32 := toF32 ((f32 a).add (f32 b).neg)
/-- fmul. -/
def fmul (a b : W32) : W32 := toF32 ((f32 a).mul (f32 b))
/-- fma: a × b + c, rounded once. -/
def fma (a b c : W32) : W32 := toF32 (((f32 a).mul (f32 b)).add (f32 c))
/-- fms: a × b − c. -/
def fms (a b c : W32) : W32 := toF32 (((f32 a).mul (f32 b)).add (f32 c).neg)
/-- fnma: c − a × b. -/
def fnma (a b c : W32) : W32 := toF32 ((f32 c).add ((f32 a).mul (f32 b)).neg)

/-- frint: to an integral value, ties to even, keeping the sign. -/
def frint (a : W32) : W32 :=
  match f32 a with
  | .fin n m e =>
    if 0 ≤ e then a
    else
      let q := (roundInt .rne 0 false m e).toNat
      toF32 (.fin n q 0)
  | v => toF32 v

/-- fscl: a × 2^n with n signed. -/
def fscl (a b : W32) : W32 :=
  match f32 a with
  | .fin n m e => toF32 (.fin n m (e + sext 32 b.toNat))
  | v => toF32 v

/-- fcps: the sign of b, the rest of a. -/
def fcps (a b : W32) : W32 := (b &&& 0x80000000) ||| (a &&& 0x7FFFFFFF)

/-- FDIV (R249). -/
def fdiv (a b : W32) : W32 := toF32 ((f32 a).div (f32 b))

/-! ## FCVT (R233, R234) -/

/-- The kinds of an FCVT operand type. -/
inductive CTy where
  | flt (f : Fmt)
  | int (w : Nat) (signed : Bool)
  deriving DecidableEq, Repr, Inhabited

/-- The narrow format of a conversion code's bits [2:0]. -/
def narrowFmt : Nat → Fmt
  | 1 => .fp16 | 2 => .bf16 | 3 => .e4m3 | 4 => .e5m2 | 5 => .e2m1 | 6 => .e3m5 | _ => .e8m0

/-- The assigned conversion codes: destination and source type (R233). -/
def cvtTypes (c : Nat) : Option (CTy × CTy) :=
  let f := CTy.flt .fp32
  if 1 ≤ c ∧ c ≤ 7 then some (.flt (narrowFmt c), f)
  else if 9 ≤ c ∧ c ≤ 15 then some (f, .flt (narrowFmt (c - 8)))
  else
    match c with
    | 0x10 => some (.int 32 true, f)
    | 0x11 => some (.int 32 false, f)
    | 0x12 => some (.int 64 true, f)
    | 0x13 => some (.int 64 false, f)
    | 0x14 => some (f, .int 32 true)
    | 0x15 => some (f, .int 32 false)
    | 0x16 => some (f, .int 64 true)
    | 0x17 => some (f, .int 64 false)
    | 0x18 => some (.int 8 true, f)
    | 0x19 => some (.int 8 false, f)
    | 0x1A => some (.int 16 true, f)
    | 0x1B => some (.int 16 false, f)
    | _ => none

/-- The mode of FCVT's fn, 0 reading rmode (R37, R57). -/
def cvtMode (fn rmode : Nat) : RMode :=
  match if fn = 0 then rmode + 1 else fn with
  | 1 => .rne | 2 => .rtz | 3 => .rdn | 4 => .rup | 5 => .rna | 6 => .sr | _ => .sat

/-- The value of a source of a given type (R221, R222). -/
def srcVal (t : CTy) (x : Nat) : Val :=
  match t with
  | .flt .e2m1 => decodeFmt .e2m1 (sext 6 (bits x 8 6)) (x % 16)
  | .flt f => decodeFmt f 0 x
  | .int w true => ofInt (sext w x)
  | .int w false => ofInt (x % 2 ^ w : Nat)

/-- Convert of R234. An infinite source of an exact code under SAT gives ±max for FP32, as the pseudocode with R226 says; the
sentence that every mode gives an exact code the same result is read of finite sources (log entry 59). -/
def convert (dst src : CTy) (mode : RMode) (x : Nat) (w : W32) : Nat :=
  let v := srcVal src x
  match dst with
  | .flt f => roundTo f mode w v
  | .int n true => low n (toInt (-(2 ^ (n - 1) : Nat)) ((2 ^ (n - 1) : Nat) - 1) mode w v)
  | .int n false => low n (toInt 0 ((2 ^ n : Nat) - 1) mode w v)

/-! ## Transcendentals (R250 to R252)

Each of the six inexact functions is computed as an integer at scale 2^512 whose distance from the exact value is
below 2^130 of these units, by series of fixed length. R251 asks for the value truncated to a 256th of the FP32 spacing
and then rounded: no source value brings the exact value so near an end of those 256ths that the distance could matter
(log entry 11). -/

/-- ln 2 at scale 2^512. -/
def ln2C : Nat :=
  0xb17217f7d1cf79abc9e3b39803f2f6af40f343267298b62d8a0d175b8baafa2be7b876206debac98559552fb4afa1b10ed2eae35c138214427573b291169b825

/-- π / 2 at scale 2^512. -/
def halfPiC : Nat :=
  0x1921fb54442d18469898cc51701b839a252049c1114cf98e804177d4c76273644a29410f31c6809bbdf2a33679a748636605614dbe4be286e9fc26adadaa3848b

/-- One at scale 2^512. -/
def oneC : Nat := 2 ^ 512

/-- The sum of the terms t · r^k / (i + 1) … from index i on: the series of e^r, and with step 2 those of sine and cosine
by alternating signs. -/
def expSeries (r : Nat) : Nat → Nat → Nat → Nat
  | 0, _, _ => 0
  | n + 1, i, t => t + expSeries r n (i + 1) (t * r / oneC / i)

/-- e^r for 0 ≤ r < 1, at scale 2^512. -/
def expC (r : Nat) : Nat := expSeries r 110 1 oneC

/-- The alternating series with terms t · r2^k / (i (i + 1)) …. -/
def trigSeries (r2 : Nat) : Nat → Nat → Int → Int
  | 0, _, _ => 0
  | n + 1, i, t => t + trigSeries r2 n (i + 2) (-(t * r2 / oneC / ((i * (i + 1) : Nat) : Int)))

/-- sin r for 0 ≤ r < 2, at scale 2^512. -/
def sinC (r : Nat) : Int := trigSeries (r * r / oneC) 70 2 r

/-- cos r for 0 ≤ r < 2, at scale 2^512. -/
def cosC (r : Nat) : Int := trigSeries (r * r / oneC) 70 1 oneC

/-- The series z + z^3 / 3 + z^5 / 5 + …. -/
def atanhSeries (z2 : Nat) : Nat → Nat → Nat → Nat
  | 0, _, _ => 0
  | n + 1, i, t => t / i + atanhSeries z2 n (i + 2) (t * z2 / oneC)

/-- The natural logarithm of m / 2^k in [1, 2), at scale 2^512. -/
def lnC (m k : Nat) : Nat :=
  let z := (m - 2 ^ k) * oneC / (m + 2 ^ k)
  2 * atanhSeries (z * z / oneC) 180 1 z

/-- A finite value at scale 2^512, rounded down in magnitude; exact for FP32 values. -/
def fixC (m : Nat) (e : Int) : Nat := if -512 ≤ e then m * 2 ^ (e + 512).toNat else m / 2 ^ (-e - 512).toNat

/-- RoundF32(Trunc(y), RNE) of R251 for the magnitude a · 2^k. -/
def truncRound (neg : Bool) (a : Nat) (k : Int) : W32 :=
  if a = 0 then toF32 (.fin neg 0 0)
  else
    let top := (Nat.log2 a : Int) + k
    let u := (if top < -126 then -126 else top) - 23 - 8
    let q := if u ≤ k then a * 2 ^ (k - u).toNat else a / 2 ^ (u - k).toNat
    toF32 (.fin neg q u)

/-- 2^(n + f) with f at scale 2^512 given as y = f · ln 2. -/
def pow2F (n : Int) (y : Nat) : W32 :=
  if 200 < n then toF32 (.inf false)
  else if n < -300 then toF32 (.fin false 0 0)
  else truncRound false (expC y) (n - 512)

/-- EXP2 of a finite value. -/
def exp2F (neg : Bool) (m : Nat) (e : Int) : W32 :=
  if m = 0 then 0x3F800000
  else if 9 < (Nat.log2 m : Int) + e then (if neg then 0 else 0x7F800000)
  else
    let a := fixC m e
    let t : Int := if neg then -(a : Int) else a
    let n := t / oneC
    let f := (t % oneC).toNat
    if f = 0 then toF32 (.fin false 1 n) else pow2F n (f * ln2C / oneC)

/-- EXP of a finite value. -/
def expF (neg : Bool) (m : Nat) (e : Int) : W32 :=
  if m = 0 then 0x3F800000
  else if 9 < (Nat.log2 m : Int) + e then (if neg then 0 else 0x7F800000)
  else
    let a := fixC m e
    let t : Int := if neg then -(a : Int) else a
    let n := t / ln2C
    pow2F n (t % ln2C).toNat

/-- LOG2 of a positive finite value. -/
def log2F (m : Nat) (e : Int) : W32 :=
  let k := Nat.log2 m
  let n : Int := k + e
  if m = 2 ^ k then toF32 (ofInt n)
  else
    let t := n * oneC + ((lnC m k * oneC / ln2C : Nat) : Int)
    truncRound (decide (t < 0)) t.natAbs (-512)

/-- TANH of a finite value. -/
def tanhF (x : W32) (neg : Bool) (m : Nat) (e : Int) : W32 :=
  if m = 0 then x
  else if 5 < (Nat.log2 m : Int) + e then (if neg then 0xBF800000 else 0x3F800000)
  else
    let a := fixC m e
    let t := 2 * a
    let n := t / ln2C
    let p := expC (t % ln2C) * 2 ^ n
    -- the numerator and the denominator carry 2^100 times the error of the series at most
    truncRound neg ((p - oneC) * oneC / (p + oneC)) (-512)

/-- SIN or COS of a finite value: the quadrant q and the rest r of the argument. -/
def sincosF (cos : Bool) (x : W32) (neg : Bool) (m : Nat) (e : Int) : W32 :=
  if m = 0 then (if cos then 0x3F800000 else x)
  else
    let a := fixC m e
    let q := a / halfPiC
    let r := a % halfPiC
    let k := (q + b01 cos) % 4
    let v := if k % 2 = 0 then sinC r else cosC r
    let sgn := (decide (2 ≤ k)) != (neg && !cos)
    truncRound (sgn != decide (v < 0)) v.natAbs (-512)

/-- VTR of R250 to R252 for function codes 0 to 8. -/
def vtrF (fn : Nat) (x : W32) : W32 :=
  let v := f32 x
  match fn with
  | 0 => toF32 v.sqrt
  | 1 => toF32 v.rcp
  | 2 => toF32 v.rsq
  | _ =>
    match v with
    | .nan => 0x7FC00000
    | .inf n =>
      match fn with
      | 3 | 5 => if n then 0 else 0x7F800000
      | 4 => if n then 0x7FC00000 else 0x7F800000
      | 6 => if n then 0xBF800000 else 0x3F800000
      | _ => 0x7FC00000
    | .fin n m e =>
      match fn with
      | 3 => exp2F n m e
      | 5 => expF n m e
      | 4 => if m = 0 then 0xFF800000 else if n then 0x7FC00000 else log2F m e
      | 6 => tanhF x n m e
      | 7 => sincosF false x n m e
      | _ => sincosF true x n m e

/-! ## Atomic operations (R300) -/

/-- Op(op, old, v) of R300 on elements of w bits. -/
def aluOp (op : AOp) (w : Nat) (old v : Nat) : Nat :=
  match op with
  | .add => (old + v) % 2 ^ w
  | .and => old &&& v
  | .or => old ||| v
  | .xor => old ^^^ v
  | .min => if sext w v < sext w old then v else old
  | .max => if sext w old < sext w v then v else old
  | .minn => if v < old then v else old
  | .maxn => if old < v then v else old
  | .xchg => v
  | .inc => if v ≤ old then 0 else (old + 1) % 2 ^ w
  | .dec => if old = 0 || decide (v < old) then v else old - 1
  | .fadd => (fadd (BitVec.ofNat 32 old) (BitVec.ofNat 32 v)).toNat

/-- The identity of an operation in an update-only copy (R166). -/
def identOf (op : AOp) (w : Nat) : Nat :=
  match op with
  | .and | .minn => 2 ^ w - 1
  | .min => 2 ^ (w - 1) - 1
  | .max => 2 ^ (w - 1)
  | .fadd => 0x80000000
  | _ => 0

/-- Whether RED gathers the operation in update-only copies (R166). -/
def gathers : AOp → Bool
  | .xchg | .inc | .dec => false
  | _ => true

end Sys2Proof.Machine
end

