-- ==== Sys2Proof/Machine/Operands.lean ====
section
/-! DEFINITION. The operands of every instruction word: which registers it names, as groups of which size, which of
them it reads and writes, and what else the core knows of a word before it has any effect (R32, R33, R37 to R41).

Each row gives its own description; `desc` collects them. The checks of R41, lookahead (R29, R30), run-ahead (R94) and
checked issue (R235) all read them. -/

namespace Sys2Proof.Machine

/-- An operand of an instruction. -/
inductive Use where
  /-- k scalars from n, written or read (R33). -/
  | s (n k : Nat) (w : Bool)
  /-- A vector group of k from name n. -/
  | v (n k : Nat) (w : Bool)
  | m (n : Nat) (w : Bool)
  | x (n : Nat) (w : Bool)
  /-- The window base WB (R48). -/
  | wb (w : Bool)
  /-- A tile that must be granted. -/
  | t (n : Nat)
  /-- A tile field whose grant the instruction checks itself (R280). -/
  | tc (n : Nat)
  deriving DecidableEq, Repr, Inhabited

/-- What an instruction does in run-ahead (R94). -/
inductive AheadClass where
  | exec | jump | mem | ends
  deriving DecidableEq, Repr, Inhabited

/-- The ALUs and adders that a covered instruction runs on (R236, R256): the ALUs of its active lanes, those of all 64 bits of
a mask, every adder of the reduction tree, the nodes of the tree that compare two active elements, or what the prefix sum of
each active lane takes. -/
inductive AluUse where
  | lanes | mask | sum | order | scan
  deriving DecidableEq, Repr, Inhabited

/-- What the core knows of a word before it executes it. -/
structure Desc where
  z : Bool
  word : Nat
  uses : List Use
  /-- Step 2 of R41: every code is assigned. -/
  codeOk : Bool := true
  /-- A privileged code or selector (R40). -/
  priv : Bool := false
  /-- The privilege is waived in a debug partition (R147). -/
  debugOk : Bool := false
  /-- Covered by checked issue (R235). -/
  covered : Bool := false
  la : Nat := 0
  /-- The window is that of R30: the sources may be read but not written. -/
  laSrc : Bool := false
  ahead : AheadClass := .ends
  alu : AluUse := .lanes
  /-- The alphabet register whose width makes container operands aligned pairs, and those operands (R214). -/
  pairs : Option (Nat × List Nat) := none
  deriving DecidableEq, Repr, Inhabited

/-- The selectors that GETS reads (R56). -/
def getsOk (i : Nat) : Bool :=
  decide (i ≤ 8) || (decide (0x10 ≤ i) && decide (i ≤ 0x24)) || i == 0x30 || (decide (0x100 ≤ i) && decide (i ≤ 0x11F)) ||
    (decide (0x400 ≤ i) && decide (i ≤ 0x403)) || (decide (0x408 ≤ i) && decide (i ≤ 0x40F))

/-- The selectors that SETS writes, xlt and xsp apart (R56, R74). -/
def setsOk (i : Nat) : Bool := i == 3 || i == 4 || i == 6 || i == 0x400 || i == 0x401

/-- The privileged selectors (R56). -/
def privSel (i : Nat) : Bool := decide (0x400 ≤ i)

/-- The operands of FCVT (R234, R248): pairs for the 64-bit types; SR reads the destination. -/
def cvtUses (r d a c : Nat) : List Use :=
  let kd := if c = 0x12 || c = 0x13 then 2 else 1
  let ka := if c = 0x16 || c = 0x17 then 2 else 1
  [.v d kd true, .v a ka false] ++ if r = 6 then [.v d 1 false] else []

/-- The operands of CAS (R303): a group of two or four. -/
def casUses (w d a x : Nat) : List Use :=
  let k := if w = 0 then 2 else 4
  [.v d k true, .v d k false, .v a 1 false, .x x false]

/-- The operands of GETS: a selector of a translation register reads it (R56). -/
def getsUses (d i : Nat) : List Use :=
  .s d 1 true :: if (0x100 ≤ i && i ≤ 0x11F) || 0x408 ≤ i then [.x (i % 8) false] else if i = 1 then [.wb false] else []

/-- The operands of ADD (R67). -/
def descAdd (z : Bool) (d : BitVec 7) (a : BitVec 7) (b : BitVec 7) : Desc :=
  { z := z,
    word := packD14A7B0 z 0x00000000 d a b,
    uses := [.s d.toNat 1 true, .s a.toNat 1 false, .s b.toNat 1 false],
    ahead := .exec }

/-- The operands of SUB (R67). -/
def descSub (z : Bool) (d : BitVec 7) (a : BitVec 7) (b : BitVec 7) : Desc :=
  { z := z,
    word := packD14A7B0 z 0x00200000 d a b,
    uses := [.s d.toNat 1 true, .s a.toNat 1 false, .s b.toNat 1 false],
    ahead := .exec }

/-- The operands of AND (R67). -/
def descAnd (z : Bool) (d : BitVec 7) (a : BitVec 7) (b : BitVec 7) : Desc :=
  { z := z,
    word := packD14A7B0 z 0x00400000 d a b,
    uses := [.s d.toNat 1 true, .s a.toNat 1 false, .s b.toNat 1 false],
    ahead := .exec }

/-- The operands of OR (R67). -/
def descOr (z : Bool) (d : BitVec 7) (a : BitVec 7) (b : BitVec 7) : Desc :=
  { z := z,
    word := packD14A7B0 z 0x00600000 d a b,
    uses := [.s d.toNat 1 true, .s a.toNat 1 false, .s b.toNat 1 false],
    ahead := .exec }

/-- The operands of XOR (R67). -/
def descXor (z : Bool) (d : BitVec 7) (a : BitVec 7) (b : BitVec 7) : Desc :=
  { z := z,
    word := packD14A7B0 z 0x00800000 d a b,
    uses := [.s d.toNat 1 true, .s a.toNat 1 false, .s b.toNat 1 false],
    ahead := .exec }

/-- The operands of SHL (R67). -/
def descShl (z : Bool) (d : BitVec 7) (a : BitVec 7) (b : BitVec 7) : Desc :=
  { z := z,
    word := packD14A7B0 z 0x00A00000 d a b,
    uses := [.s d.toNat 1 true, .s a.toNat 1 false, .s b.toNat 1 false],
    ahead := .exec }

/-- The operands of SHR (R67). -/
def descShr (z : Bool) (d : BitVec 7) (a : BitVec 7) (b : BitVec 7) : Desc :=
  { z := z,
    word := packD14A7B0 z 0x00C00000 d a b,
    uses := [.s d.toNat 1 true, .s a.toNat 1 false, .s b.toNat 1 false],
    ahead := .exec }

/-- The operands of SRA (R67). -/
def descSra (z : Bool) (d : BitVec 7) (a : BitVec 7) (b : BitVec 7) : Desc :=
  { z := z,
    word := packD14A7B0 z 0x00E00000 d a b,
    uses := [.s d.toNat 1 true, .s a.toNat 1 false, .s b.toNat 1 false],
    ahead := .exec }

/-- The operands of MUL (R67). -/
def descMul (z : Bool) (d : BitVec 7) (a : BitVec 7) (b : BitVec 7) : Desc :=
  { z := z,
    word := packD14A7B0 z 0x01000000 d a b,
    uses := [.s d.toNat 1 true, .s a.toNat 1 false, .s b.toNat 1 false],
    ahead := .exec }

/-- The operands of MULH (R67). -/
def descMulh (z : Bool) (d : BitVec 7) (a : BitVec 7) (b : BitVec 7) : Desc :=
  { z := z,
    word := packD14A7B0 z 0x01200000 d a b,
    uses := [.s d.toNat 1 true, .s a.toNat 1 false, .s b.toNat 1 false],
    ahead := .exec }

/-- The operands of MULHN (R67). -/
def descMulhn (z : Bool) (d : BitVec 7) (a : BitVec 7) (b : BitVec 7) : Desc :=
  { z := z,
    word := packD14A7B0 z 0x01400000 d a b,
    uses := [.s d.toNat 1 true, .s a.toNat 1 false, .s b.toNat 1 false],
    ahead := .exec }

/-- The operands of MIN (R67). -/
def descMin (z : Bool) (d : BitVec 7) (a : BitVec 7) (b : BitVec 7) : Desc :=
  { z := z,
    word := packD14A7B0 z 0x01600000 d a b,
    uses := [.s d.toNat 1 true, .s a.toNat 1 false, .s b.toNat 1 false],
    ahead := .exec }

/-- The operands of MAX (R67). -/
def descMax (z : Bool) (d : BitVec 7) (a : BitVec 7) (b : BitVec 7) : Desc :=
  { z := z,
    word := packD14A7B0 z 0x01800000 d a b,
    uses := [.s d.toNat 1 true, .s a.toNat 1 false, .s b.toNat 1 false],
    ahead := .exec }

/-- The operands of MINN (R67). -/
def descMinn (z : Bool) (d : BitVec 7) (a : BitVec 7) (b : BitVec 7) : Desc :=
  { z := z,
    word := packD14A7B0 z 0x01A00000 d a b,
    uses := [.s d.toNat 1 true, .s a.toNat 1 false, .s b.toNat 1 false],
    ahead := .exec }

/-- The operands of MAXN (R67). -/
def descMaxn (z : Bool) (d : BitVec 7) (a : BitVec 7) (b : BitVec 7) : Desc :=
  { z := z,
    word := packD14A7B0 z 0x01C00000 d a b,
    uses := [.s d.toNat 1 true, .s a.toNat 1 false, .s b.toNat 1 false],
    ahead := .exec }

/-- The operands of ANDN (R67). -/
def descAndn (z : Bool) (d : BitVec 7) (a : BitVec 7) (b : BitVec 7) : Desc :=
  { z := z,
    word := packD14A7B0 z 0x01E00000 d a b,
    uses := [.s d.toNat 1 true, .s a.toNat 1 false, .s b.toNat 1 false],
    ahead := .exec }

/-- The operands of SLT (R68). -/
def descSlt (z : Bool) (d : BitVec 7) (a : BitVec 7) (b : BitVec 7) : Desc :=
  { z := z,
    word := packD14A7B0 z 0x02000000 d a b,
    uses := [.s d.toNat 1 true, .s a.toNat 1 false, .s b.toNat 1 false],
    ahead := .exec }

/-- The operands of SLTN (R68). -/
def descSltn (z : Bool) (d : BitVec 7) (a : BitVec 7) (b : BitVec 7) : Desc :=
  { z := z,
    word := packD14A7B0 z 0x02200000 d a b,
    uses := [.s d.toNat 1 true, .s a.toNat 1 false, .s b.toNat 1 false],
    ahead := .exec }

/-- The operands of SEQ (R68). -/
def descSeq (z : Bool) (d : BitVec 7) (a : BitVec 7) (b : BitVec 7) : Desc :=
  { z := z,
    word := packD14A7B0 z 0x02400000 d a b,
    uses := [.s d.toNat 1 true, .s a.toNat 1 false, .s b.toNat 1 false],
    ahead := .exec }

/-- The operands of CLZ (R68). -/
def descClz (z : Bool) (d : BitVec 7) (a : BitVec 7) : Desc :=
  { z := z,
    word := packD14A7 z 0x02600000 d a,
    uses := [.s d.toNat 1 true, .s a.toNat 1 false],
    ahead := .exec }

/-- The operands of POPC (R68). -/
def descPopc (z : Bool) (d : BitVec 7) (a : BitVec 7) : Desc :=
  { z := z,
    word := packD14A7 z 0x02800000 d a,
    uses := [.s d.toNat 1 true, .s a.toNat 1 false],
    ahead := .exec }

/-- The operands of BREV (R68). -/
def descBrev (z : Bool) (d : BitVec 7) (a : BitVec 7) : Desc :=
  { z := z,
    word := packD14A7 z 0x02A00000 d a,
    uses := [.s d.toNat 1 true, .s a.toNat 1 false],
    ahead := .exec }

/-- The operands of ROTL (R68). -/
def descRotl (z : Bool) (d : BitVec 7) (a : BitVec 7) (b : BitVec 7) : Desc :=
  { z := z,
    word := packD14A7B0 z 0x02C00000 d a b,
    uses := [.s d.toNat 1 true, .s a.toNat 1 false, .s b.toNat 1 false],
    ahead := .exec }

/-- The operands of BFX (R69). -/
def descBfx (z : Bool) (d : BitVec 7) (a : BitVec 7) (b : BitVec 7) : Desc :=
  { z := z,
    word := packD14A7B0 z 0x02E00000 d a b,
    uses := [.s d.toNat 1 true, .s a.toNat 1 false, .s b.toNat 1 false],
    ahead := .exec }

/-- The operands of BFI (R69). -/
def descBfi (z : Bool) (d : BitVec 7) (a : BitVec 7) (b : BitVec 7) : Desc :=
  { z := z,
    word := packD14A7B0 z 0x03000000 d a b,
    uses := [.s d.toNat 1 true, .s d.toNat 1 false, .s a.toNat 1 false, .s b.toNat 1 false],
    ahead := .exec }

/-- The operands of DIV (R70). -/
def descDiv (z : Bool) (d : BitVec 7) (a : BitVec 7) (b : BitVec 7) : Desc :=
  { z := z,
    word := packD14A7B0 z 0x03200000 d a b,
    uses := [.s d.toNat 1 true, .s a.toNat 1 false, .s b.toNat 1 false],
    ahead := .exec }

/-- The operands of DIVN (R70). -/
def descDivn (z : Bool) (d : BitVec 7) (a : BitVec 7) (b : BitVec 7) : Desc :=
  { z := z,
    word := packD14A7B0 z 0x03400000 d a b,
    uses := [.s d.toNat 1 true, .s a.toNat 1 false, .s b.toNat 1 false],
    ahead := .exec }

/-- The operands of REM (R70). -/
def descRem (z : Bool) (d : BitVec 7) (a : BitVec 7) (b : BitVec 7) : Desc :=
  { z := z,
    word := packD14A7B0 z 0x03600000 d a b,
    uses := [.s d.toNat 1 true, .s a.toNat 1 false, .s b.toNat 1 false],
    ahead := .exec }

/-- The operands of REMN (R70). -/
def descRemn (z : Bool) (d : BitVec 7) (a : BitVec 7) (b : BitVec 7) : Desc :=
  { z := z,
    word := packD14A7B0 z 0x03800000 d a b,
    uses := [.s d.toNat 1 true, .s a.toNat 1 false, .s b.toNat 1 false],
    ahead := .exec }

/-- The operands of CSEL (R68). -/
def descCsel (z : Bool) (d : BitVec 7) (a : BitVec 7) (b : BitVec 7) : Desc :=
  { z := z,
    word := packD14A7B0 z 0x03A00000 d a b,
    uses := [.s d.toNat 1 true, .s d.toNat 1 false, .s a.toNat 1 false, .s b.toNat 1 false],
    ahead := .exec }

/-- The operands of ADDW (R68). -/
def descAddw (z : Bool) (d : BitVec 7) (a : BitVec 7) (b : BitVec 7) : Desc :=
  { z := z,
    word := packD14A7B0 z 0x03C00000 d a b,
    uses := [.s d.toNat 1 true, .s a.toNat 1 false, .s b.toNat 1 false],
    ahead := .exec }

/-- The operands of ADDI (R71). -/
def descAddi (z : Bool) (d : BitVec 7) (a : BitVec 7) (i : BitVec 11) : Desc :=
  { z := z,
    word := packD18A11I0 z 0x04000000 d a i,
    uses := [.s d.toNat 1 true, .s a.toNat 1 false],
    ahead := .exec }

/-- The operands of ANDI (R71). -/
def descAndi (z : Bool) (d : BitVec 7) (a : BitVec 7) (i : BitVec 11) : Desc :=
  { z := z,
    word := packD18A11I0 z 0x06000000 d a i,
    uses := [.s d.toNat 1 true, .s a.toNat 1 false],
    ahead := .exec }

/-- The operands of ORI (R71). -/
def descOri (z : Bool) (d : BitVec 7) (a : BitVec 7) (i : BitVec 11) : Desc :=
  { z := z,
    word := packD18A11I0 z 0x08000000 d a i,
    uses := [.s d.toNat 1 true, .s a.toNat 1 false],
    ahead := .exec }

/-- The operands of XORI (R71). -/
def descXori (z : Bool) (d : BitVec 7) (a : BitVec 7) (i : BitVec 11) : Desc :=
  { z := z,
    word := packD18A11I0 z 0x0A000000 d a i,
    uses := [.s d.toNat 1 true, .s a.toNat 1 false],
    ahead := .exec }

/-- The operands of SHLI (R72). -/
def descShli (z : Bool) (d : BitVec 7) (a : BitVec 7) (n : BitVec 6) : Desc :=
  { z := z,
    word := packD18A11N0 z 0x0C000000 d a n,
    uses := [.s d.toNat 1 true, .s a.toNat 1 false],
    ahead := .exec }

/-- The operands of SHRI (R72). -/
def descShri (z : Bool) (d : BitVec 7) (a : BitVec 7) (n : BitVec 6) : Desc :=
  { z := z,
    word := packD18A11N0 z 0x0C000200 d a n,
    uses := [.s d.toNat 1 true, .s a.toNat 1 false],
    ahead := .exec }

/-- The operands of SRAI (R72). -/
def descSrai (z : Bool) (d : BitVec 7) (a : BitVec 7) (n : BitVec 6) : Desc :=
  { z := z,
    word := packD18A11N0 z 0x0C000400 d a n,
    uses := [.s d.toNat 1 true, .s a.toNat 1 false],
    ahead := .exec }

/-- The operands of ROTLI (R72). -/
def descRotli (z : Bool) (d : BitVec 7) (a : BitVec 7) (n : BitVec 6) : Desc :=
  { z := z,
    word := packD18A11N0 z 0x0C000600 d a n,
    uses := [.s d.toNat 1 true, .s a.toNat 1 false],
    ahead := .exec }

/-- The operands of SLTI (R71). -/
def descSlti (z : Bool) (d : BitVec 7) (a : BitVec 7) (i : BitVec 11) : Desc :=
  { z := z,
    word := packD18A11I0 z 0x0E000000 d a i,
    uses := [.s d.toNat 1 true, .s a.toNat 1 false],
    ahead := .exec }

/-- The operands of LI (R73). -/
def descLi (z : Bool) (d : BitVec 7) (i : BitVec 18) : Desc :=
  { z := z,
    word := packD18I0 z 0x10000000 d i,
    uses := [.s d.toNat 1 true],
    ahead := .exec }

/-- The operands of LIS (R73). -/
def descLis (z : Bool) (d : BitVec 7) (i : BitVec 18) : Desc :=
  { z := z,
    word := packD18I0 z 0x12000000 d i,
    uses := [.s d.toNat 1 true, .s d.toNat 1 false],
    ahead := .exec }

/-- The operands of GETS (R74). -/
def descGets (z : Bool) (d : BitVec 7) (i : BitVec 11) : Desc :=
  { z := z,
    word := packD18I0W7_11 z 0x14000000 d i,
    uses := getsUses d.toNat i.toNat,
    codeOk := getsOk i.toNat,
    priv := privSel i.toNat,
    ahead := .exec }

/-- The operands of SETS (R74). -/
def descSets (z : Bool) (a : BitVec 7) (i : BitVec 11) : Desc :=
  { z := z,
    word := packA11I0 z 0x16000000 a i,
    uses := [.s a.toNat 1 false],
    codeOk := setsOk i.toNat,
    priv := privSel i.toNat }

/-- The operands of XLT (R87). -/
def descXlt (z : Bool) (a : BitVec 7) (n : BitVec 3) : Desc :=
  { z := z,
    word := packA11N0 z 0x16000100 a n,
    uses := [.s a.toNat 1 false, .x n.toNat true],
    ahead := .mem }

/-- The operands of SETS_XSP (R66). -/
def descSetsXsp (z : Bool) (a : BitVec 7) (n : BitVec 3) : Desc :=
  { z := z,
    word := packA11N0 z 0x16000118 a n,
    uses := [.s a.toNat 1 false, .x n.toNat true] }

/-- The operands of WIN (R76). -/
def descWin (z : Bool) (a : BitVec 7) (i : BitVec 11) : Desc :=
  { z := z,
    word := packA11I0 z 0x18000000 a i,
    uses := [.s a.toNat 1 false, .wb true],
    ahead := .exec }

/-- The operands of BRU_EQZ (R337). -/
def descBruEqz (z : Bool) (a : BitVec 7) (i : BitVec 14) : Desc :=
  { z := z,
    word := packA14I0 z 0x1A000000 a i,
    uses := [.s a.toNat 1 false],
    ahead := .jump }

/-- The operands of BRU_NEZ (R337). -/
def descBruNez (z : Bool) (a : BitVec 7) (i : BitVec 14) : Desc :=
  { z := z,
    word := packA14I0 z 0x1A200000 a i,
    uses := [.s a.toNat 1 false],
    ahead := .jump }

/-- The operands of BRU_LTZ (R337). -/
def descBruLtz (z : Bool) (a : BitVec 7) (i : BitVec 14) : Desc :=
  { z := z,
    word := packA14I0 z 0x1A400000 a i,
    uses := [.s a.toNat 1 false],
    ahead := .jump }

/-- The operands of BRU_GEZ (R337). -/
def descBruGez (z : Bool) (a : BitVec 7) (i : BitVec 14) : Desc :=
  { z := z,
    word := packA14I0 z 0x1A600000 a i,
    uses := [.s a.toNat 1 false],
    ahead := .jump }

/-- The operands of BRU_GTZ (R337). -/
def descBruGtz (z : Bool) (a : BitVec 7) (i : BitVec 14) : Desc :=
  { z := z,
    word := packA14I0 z 0x1A800000 a i,
    uses := [.s a.toNat 1 false],
    ahead := .jump }

/-- The operands of BRU_LEZ (R337). -/
def descBruLez (z : Bool) (a : BitVec 7) (i : BitVec 14) : Desc :=
  { z := z,
    word := packA14I0 z 0x1AA00000 a i,
    uses := [.s a.toNat 1 false],
    ahead := .jump }

/-- The operands of BRU_ALW (R337). -/
def descBruAlw (z : Bool) (i : BitVec 14) : Desc :=
  { z := z,
    word := packI0 z 0x1AC00000 i,
    uses := [],
    ahead := .jump }

/-- The operands of BRD_SET (R333). -/
def descBrdSet (z : Bool) (a : BitVec 3) (i : BitVec 14) : Desc :=
  { z := z,
    word := packA14I0W3_14 z 0x1C000000 a i,
    uses := [.m a.toNat false],
    ahead := .jump }

/-- The operands of BRD_CLR (R333). -/
def descBrdClr (z : Bool) (a : BitVec 3) (i : BitVec 14) : Desc :=
  { z := z,
    word := packA14I0W3_14 z 0x1C200000 a i,
    uses := [.m a.toNat false],
    ahead := .jump }

/-- The operands of JMP (R338). -/
def descJmp (z : Bool) (i : BitVec 21) : Desc :=
  { z := z,
    word := packI0W21 z 0x1E000000 i,
    uses := [],
    ahead := .jump }

/-- The operands of CALL (R336). -/
def descCall (z : Bool) (i : BitVec 21) : Desc :=
  { z := z,
    word := packI0W21 z 0x1E200000 i,
    uses := [],
    ahead := .jump }

/-- The operands of NOP (R339). -/
def descNop (z : Bool) : Desc :=
  { z := z,
    word := pack z 0x20000000,
    uses := [],
    ahead := .jump }

/-- The operands of RET (R336). -/
def descRet (z : Bool) : Desc :=
  { z := z,
    word := pack z 0x20200000,
    uses := [],
    ahead := .jump }

/-- The operands of JR (R339). -/
def descJr (z : Bool) (a : BitVec 7) : Desc :=
  { z := z,
    word := packA7 z 0x20400000 a,
    uses := [.s a.toNat 1 false],
    ahead := .jump }

/-- The operands of CALLR (R336). -/
def descCallr (z : Bool) (a : BitVec 7) : Desc :=
  { z := z,
    word := packA7 z 0x20600000 a,
    uses := [.s a.toNat 1 false],
    ahead := .jump }

/-- The operands of JOIN (R334). -/
def descJoin (z : Bool) : Desc :=
  { z := z,
    word := pack z 0x20800000,
    uses := [] }

/-- The operands of EXIT (R335). -/
def descExit (z : Bool) : Desc :=
  { z := z,
    word := pack z 0x20A00000,
    uses := [] }

/-- The operands of YIELD (R339). -/
def descYield (z : Bool) : Desc :=
  { z := z,
    word := pack z 0x20C00000,
    uses := [] }

/-- The operands of BRK (R339). -/
def descBrk (z : Bool) : Desc :=
  { z := z,
    word := pack z 0x20E00000,
    uses := [] }

/-- The operands of TRAP (R382). -/
def descTrap (z : Bool) (d : BitVec 7) (a : BitVec 7) (i : BitVec 11) : Desc :=
  { z := z,
    word := packD18A11I0 z 0x22000000 d a i,
    uses := [.s d.toNat 1 true, .s a.toNat 1 false] }

/-- The operands of VADD (R240). -/
def descVadd (z : Bool) (d : BitVec 7) (a : BitVec 7) (b : BitVec 7) : Desc :=
  { z := z,
    word := packD14A7B0 z 0x24000000 d a b,
    uses := [.v d.toNat 1 true, .v a.toNat 1 false, .v b.toNat 1 false],
    covered := true,
    ahead := .exec }

/-- The operands of VSUB (R240). -/
def descVsub (z : Bool) (d : BitVec 7) (a : BitVec 7) (b : BitVec 7) : Desc :=
  { z := z,
    word := packD14A7B0 z 0x24200000 d a b,
    uses := [.v d.toNat 1 true, .v a.toNat 1 false, .v b.toNat 1 false],
    covered := true,
    ahead := .exec }

/-- The operands of VMUL (R240). -/
def descVmul (z : Bool) (d : BitVec 7) (a : BitVec 7) (b : BitVec 7) : Desc :=
  { z := z,
    word := packD14A7B0 z 0x24400000 d a b,
    uses := [.v d.toNat 1 true, .v a.toNat 1 false, .v b.toNat 1 false],
    covered := true,
    ahead := .exec }

/-- The operands of VMULH (R240). -/
def descVmulh (z : Bool) (d : BitVec 7) (a : BitVec 7) (b : BitVec 7) : Desc :=
  { z := z,
    word := packD14A7B0 z 0x24600000 d a b,
    uses := [.v d.toNat 1 true, .v a.toNat 1 false, .v b.toNat 1 false],
    covered := true,
    ahead := .exec }

/-- The operands of VMULHN (R240). -/
def descVmulhn (z : Bool) (d : BitVec 7) (a : BitVec 7) (b : BitVec 7) : Desc :=
  { z := z,
    word := packD14A7B0 z 0x24800000 d a b,
    uses := [.v d.toNat 1 true, .v a.toNat 1 false, .v b.toNat 1 false],
    covered := true,
    ahead := .exec }

/-- The operands of VMAD (R240). -/
def descVmad (z : Bool) (d : BitVec 7) (a : BitVec 7) (b : BitVec 7) : Desc :=
  { z := z,
    word := packD14A7B0 z 0x24A00000 d a b,
    uses := [.v d.toNat 1 true, .v d.toNat 1 false, .v a.toNat 1 false, .v b.toNat 1 false],
    covered := true,
    ahead := .exec }

/-- The operands of VMIN (R240). -/
def descVmin (z : Bool) (d : BitVec 7) (a : BitVec 7) (b : BitVec 7) : Desc :=
  { z := z,
    word := packD14A7B0 z 0x24C00000 d a b,
    uses := [.v d.toNat 1 true, .v a.toNat 1 false, .v b.toNat 1 false],
    covered := true,
    ahead := .exec }

/-- The operands of VMAX (R240). -/
def descVmax (z : Bool) (d : BitVec 7) (a : BitVec 7) (b : BitVec 7) : Desc :=
  { z := z,
    word := packD14A7B0 z 0x24E00000 d a b,
    uses := [.v d.toNat 1 true, .v a.toNat 1 false, .v b.toNat 1 false],
    covered := true,
    ahead := .exec }

/-- The operands of VMINN (R240). -/
def descVminn (z : Bool) (d : BitVec 7) (a : BitVec 7) (b : BitVec 7) : Desc :=
  { z := z,
    word := packD14A7B0 z 0x25000000 d a b,
    uses := [.v d.toNat 1 true, .v a.toNat 1 false, .v b.toNat 1 false],
    covered := true,
    ahead := .exec }

/-- The operands of VMAXN (R240). -/
def descVmaxn (z : Bool) (d : BitVec 7) (a : BitVec 7) (b : BitVec 7) : Desc :=
  { z := z,
    word := packD14A7B0 z 0x25200000 d a b,
    uses := [.v d.toNat 1 true, .v a.toNat 1 false, .v b.toNat 1 false],
    covered := true,
    ahead := .exec }

/-- The operands of VABS (R240). -/
def descVabs (z : Bool) (d : BitVec 7) (a : BitVec 7) : Desc :=
  { z := z,
    word := packD14A7 z 0x25400000 d a,
    uses := [.v d.toNat 1 true, .v a.toNat 1 false],
    covered := true,
    ahead := .exec }

/-- The operands of VNEG (R240). -/
def descVneg (z : Bool) (d : BitVec 7) (a : BitVec 7) : Desc :=
  { z := z,
    word := packD14A7 z 0x25600000 d a,
    uses := [.v d.toNat 1 true, .v a.toNat 1 false],
    covered := true,
    ahead := .exec }

/-- The operands of VAND (R240). -/
def descVand (z : Bool) (d : BitVec 7) (a : BitVec 7) (b : BitVec 7) : Desc :=
  { z := z,
    word := packD14A7B0 z 0x25800000 d a b,
    uses := [.v d.toNat 1 true, .v a.toNat 1 false, .v b.toNat 1 false],
    covered := true,
    ahead := .exec }

/-- The operands of VOR (R240). -/
def descVor (z : Bool) (d : BitVec 7) (a : BitVec 7) (b : BitVec 7) : Desc :=
  { z := z,
    word := packD14A7B0 z 0x25A00000 d a b,
    uses := [.v d.toNat 1 true, .v a.toNat 1 false, .v b.toNat 1 false],
    covered := true,
    ahead := .exec }

/-- The operands of VXOR (R240). -/
def descVxor (z : Bool) (d : BitVec 7) (a : BitVec 7) (b : BitVec 7) : Desc :=
  { z := z,
    word := packD14A7B0 z 0x25C00000 d a b,
    uses := [.v d.toNat 1 true, .v a.toNat 1 false, .v b.toNat 1 false],
    covered := true,
    ahead := .exec }

/-- The operands of VANDN (R240). -/
def descVandn (z : Bool) (d : BitVec 7) (a : BitVec 7) (b : BitVec 7) : Desc :=
  { z := z,
    word := packD14A7B0 z 0x25E00000 d a b,
    uses := [.v d.toNat 1 true, .v a.toNat 1 false, .v b.toNat 1 false],
    covered := true,
    ahead := .exec }

/-- The operands of VSHL (R240). -/
def descVshl (z : Bool) (d : BitVec 7) (a : BitVec 7) (b : BitVec 7) : Desc :=
  { z := z,
    word := packD14A7B0 z 0x26000000 d a b,
    uses := [.v d.toNat 1 true, .v a.toNat 1 false, .v b.toNat 1 false],
    covered := true,
    ahead := .exec }

/-- The operands of VSHR (R240). -/
def descVshr (z : Bool) (d : BitVec 7) (a : BitVec 7) (b : BitVec 7) : Desc :=
  { z := z,
    word := packD14A7B0 z 0x26200000 d a b,
    uses := [.v d.toNat 1 true, .v a.toNat 1 false, .v b.toNat 1 false],
    covered := true,
    ahead := .exec }

/-- The operands of VSRA (R240). -/
def descVsra (z : Bool) (d : BitVec 7) (a : BitVec 7) (b : BitVec 7) : Desc :=
  { z := z,
    word := packD14A7B0 z 0x26400000 d a b,
    uses := [.v d.toNat 1 true, .v a.toNat 1 false, .v b.toNat 1 false],
    covered := true,
    ahead := .exec }

/-- The operands of VROTL (R240). -/
def descVrotl (z : Bool) (d : BitVec 7) (a : BitVec 7) (b : BitVec 7) : Desc :=
  { z := z,
    word := packD14A7B0 z 0x26600000 d a b,
    uses := [.v d.toNat 1 true, .v a.toNat 1 false, .v b.toNat 1 false],
    covered := true,
    ahead := .exec }

/-- The operands of VCLZ (R240). -/
def descVclz (z : Bool) (d : BitVec 7) (a : BitVec 7) : Desc :=
  { z := z,
    word := packD14A7 z 0x26800000 d a,
    uses := [.v d.toNat 1 true, .v a.toNat 1 false],
    covered := true,
    ahead := .exec }

/-- The operands of VPOPC (R240). -/
def descVpopc (z : Bool) (d : BitVec 7) (a : BitVec 7) : Desc :=
  { z := z,
    word := packD14A7 z 0x26A00000 d a,
    uses := [.v d.toNat 1 true, .v a.toNat 1 false],
    covered := true,
    ahead := .exec }

/-- The operands of VBREV (R240). -/
def descVbrev (z : Bool) (d : BitVec 7) (a : BitVec 7) : Desc :=
  { z := z,
    word := packD14A7 z 0x26C00000 d a,
    uses := [.v d.toNat 1 true, .v a.toNat 1 false],
    covered := true,
    ahead := .exec }

/-- The operands of VBFX (R241). -/
def descVbfx (z : Bool) (d : BitVec 7) (a : BitVec 7) (b : BitVec 7) : Desc :=
  { z := z,
    word := packD14A7B0 z 0x26E00000 d a b,
    uses := [.v d.toNat 1 true, .v a.toNat 1 false, .v b.toNat 1 false],
    covered := true,
    ahead := .exec }

/-- The operands of VBFI (R241). -/
def descVbfi (z : Bool) (d : BitVec 7) (a : BitVec 7) (b : BitVec 7) : Desc :=
  { z := z,
    word := packD14A7B0 z 0x27000000 d a b,
    uses := [.v d.toNat 1 true, .v d.toNat 1 false, .v a.toNat 1 false, .v b.toNat 1 false],
    covered := true,
    ahead := .exec }

/-- The operands of VADDS (R240). -/
def descVadds (z : Bool) (d : BitVec 7) (a : BitVec 7) (b : BitVec 7) : Desc :=
  { z := z,
    word := packD14A7B0 z 0x27200000 d a b,
    uses := [.v d.toNat 1 true, .v a.toNat 1 false, .v b.toNat 1 false],
    covered := true,
    ahead := .exec }

/-- The operands of VSUBS (R240). -/
def descVsubs (z : Bool) (d : BitVec 7) (a : BitVec 7) (b : BitVec 7) : Desc :=
  { z := z,
    word := packD14A7B0 z 0x27400000 d a b,
    uses := [.v d.toNat 1 true, .v a.toNat 1 false, .v b.toNat 1 false],
    covered := true,
    ahead := .exec }

/-- The operands of VADDSN (R240). -/
def descVaddsn (z : Bool) (d : BitVec 7) (a : BitVec 7) (b : BitVec 7) : Desc :=
  { z := z,
    word := packD14A7B0 z 0x27600000 d a b,
    uses := [.v d.toNat 1 true, .v a.toNat 1 false, .v b.toNat 1 false],
    covered := true,
    ahead := .exec }

/-- The operands of VSUBSN (R240). -/
def descVsubsn (z : Bool) (d : BitVec 7) (a : BitVec 7) (b : BitVec 7) : Desc :=
  { z := z,
    word := packD14A7B0 z 0x27800000 d a b,
    uses := [.v d.toNat 1 true, .v a.toNat 1 false, .v b.toNat 1 false],
    covered := true,
    ahead := .exec }

/-- The operands of VSEL (R240). -/
def descVsel (z : Bool) (d : BitVec 7) (a : BitVec 7) (m : BitVec 3) : Desc :=
  { z := z,
    word := packD14A7M0 z 0x27A00000 d a m,
    uses := [.v d.toNat 1 true, .v d.toNat 1 false, .v a.toNat 1 false, .m m.toNat false],
    covered := true,
    ahead := .exec }

/-- The operands of VSPLAT (R240). -/
def descVsplat (z : Bool) (d : BitVec 7) (a : BitVec 7) : Desc :=
  { z := z,
    word := packD14A7 z 0x27C00000 d a,
    uses := [.v d.toNat 1 true, .s a.toNat 1 false],
    covered := true,
    ahead := .exec }

/-- The operands of VLANE (R240). -/
def descVlane (z : Bool) (d : BitVec 7) : Desc :=
  { z := z,
    word := packD14 z 0x27E00000 d,
    uses := [.v d.toNat 1 true],
    covered := true,
    ahead := .exec }

/-- The operands of VADDI (R242). -/
def descVaddi (z : Bool) (d : BitVec 7) (a : BitVec 7) (i : BitVec 11) : Desc :=
  { z := z,
    word := packD18A11I0 z 0x28000000 d a i,
    uses := [.v d.toNat 1 true, .v a.toNat 1 false],
    covered := true,
    ahead := .exec }

/-- The operands of VSHLI (R242). -/
def descVshli (z : Bool) (d : BitVec 7) (a : BitVec 7) (n : BitVec 5) : Desc :=
  { z := z,
    word := packD18A11N0W7_7_5 z 0x2A000000 d a n,
    uses := [.v d.toNat 1 true, .v a.toNat 1 false],
    covered := true,
    ahead := .exec }

/-- The operands of VSHRI (R242). -/
def descVshri (z : Bool) (d : BitVec 7) (a : BitVec 7) (n : BitVec 5) : Desc :=
  { z := z,
    word := packD18A11N0W7_7_5 z 0x2A000200 d a n,
    uses := [.v d.toNat 1 true, .v a.toNat 1 false],
    covered := true,
    ahead := .exec }

/-- The operands of VSRAI (R242). -/
def descVsrai (z : Bool) (d : BitVec 7) (a : BitVec 7) (n : BitVec 5) : Desc :=
  { z := z,
    word := packD18A11N0W7_7_5 z 0x2A000400 d a n,
    uses := [.v d.toNat 1 true, .v a.toNat 1 false],
    covered := true,
    ahead := .exec }

/-- The operands of VROTLI (R242). -/
def descVrotli (z : Bool) (d : BitVec 7) (a : BitVec 7) (n : BitVec 5) : Desc :=
  { z := z,
    word := packD18A11N0W7_7_5 z 0x2A000600 d a n,
    uses := [.v d.toNat 1 true, .v a.toNat 1 false],
    covered := true,
    ahead := .exec }

/-- The operands of CEQ (R243). -/
def descCeq (z : Bool) (d : BitVec 3) (a : BitVec 7) (b : BitVec 7) : Desc :=
  { z := z,
    word := packD14A7B0W3_7_7 z 0x2C000000 d a b,
    uses := [.m d.toNat true, .v a.toNat 1 false, .v b.toNat 1 false],
    covered := true,
    ahead := .exec }

/-- The operands of CNE (R243). -/
def descCne (z : Bool) (d : BitVec 3) (a : BitVec 7) (b : BitVec 7) : Desc :=
  { z := z,
    word := packD14A7B0W3_7_7 z 0x2C200000 d a b,
    uses := [.m d.toNat true, .v a.toNat 1 false, .v b.toNat 1 false],
    covered := true,
    ahead := .exec }

/-- The operands of CLT (R243). -/
def descClt (z : Bool) (d : BitVec 3) (a : BitVec 7) (b : BitVec 7) : Desc :=
  { z := z,
    word := packD14A7B0W3_7_7 z 0x2C400000 d a b,
    uses := [.m d.toNat true, .v a.toNat 1 false, .v b.toNat 1 false],
    covered := true,
    ahead := .exec }

/-- The operands of CLE (R243). -/
def descCle (z : Bool) (d : BitVec 3) (a : BitVec 7) (b : BitVec 7) : Desc :=
  { z := z,
    word := packD14A7B0W3_7_7 z 0x2C600000 d a b,
    uses := [.m d.toNat true, .v a.toNat 1 false, .v b.toNat 1 false],
    covered := true,
    ahead := .exec }

/-- The operands of CLTN (R243). -/
def descCltn (z : Bool) (d : BitVec 3) (a : BitVec 7) (b : BitVec 7) : Desc :=
  { z := z,
    word := packD14A7B0W3_7_7 z 0x2C800000 d a b,
    uses := [.m d.toNat true, .v a.toNat 1 false, .v b.toNat 1 false],
    covered := true,
    ahead := .exec }

/-- The operands of CLEN (R243). -/
def descClen (z : Bool) (d : BitVec 3) (a : BitVec 7) (b : BitVec 7) : Desc :=
  { z := z,
    word := packD14A7B0W3_7_7 z 0x2CA00000 d a b,
    uses := [.m d.toNat true, .v a.toNat 1 false, .v b.toNat 1 false],
    covered := true,
    ahead := .exec }

/-- The operands of FEQ (R243). -/
def descFeq (z : Bool) (d : BitVec 3) (a : BitVec 7) (b : BitVec 7) : Desc :=
  { z := z,
    word := packD14A7B0W3_7_7 z 0x2CC00000 d a b,
    uses := [.m d.toNat true, .v a.toNat 1 false, .v b.toNat 1 false],
    covered := true,
    ahead := .exec }

/-- The operands of FLT (R243). -/
def descFlt (z : Bool) (d : BitVec 3) (a : BitVec 7) (b : BitVec 7) : Desc :=
  { z := z,
    word := packD14A7B0W3_7_7 z 0x2CE00000 d a b,
    uses := [.m d.toNat true, .v a.toNat 1 false, .v b.toNat 1 false],
    covered := true,
    ahead := .exec }

/-- The operands of FLE (R243). -/
def descFle (z : Bool) (d : BitVec 3) (a : BitVec 7) (b : BitVec 7) : Desc :=
  { z := z,
    word := packD14A7B0W3_7_7 z 0x2D000000 d a b,
    uses := [.m d.toNat true, .v a.toNat 1 false, .v b.toNat 1 false],
    covered := true,
    ahead := .exec }

/-- The operands of FUN (R243). -/
def descFun (z : Bool) (d : BitVec 3) (a : BitVec 7) (b : BitVec 7) : Desc :=
  { z := z,
    word := packD14A7B0W3_7_7 z 0x2D200000 d a b,
    uses := [.m d.toNat true, .v a.toNat 1 false, .v b.toNat 1 false],
    covered := true,
    ahead := .exec }

/-- The operands of TLT (R231). -/
def descTlt (z : Bool) (d : BitVec 3) (a : BitVec 7) (b : BitVec 7) : Desc :=
  { z := z,
    word := packD14A7B0W3_7_7 z 0x2D400000 d a b,
    uses := [.m d.toNat true, .v a.toNat 1 false, .v b.toNat 1 false],
    covered := true,
    ahead := .exec }

/-- The operands of TLE (R231). -/
def descTle (z : Bool) (d : BitVec 3) (a : BitVec 7) (b : BitVec 7) : Desc :=
  { z := z,
    word := packD14A7B0W3_7_7 z 0x2D600000 d a b,
    uses := [.m d.toNat true, .v a.toNat 1 false, .v b.toNat 1 false],
    covered := true,
    ahead := .exec }

/-- The operands of TEQ (R231). -/
def descTeq (z : Bool) (d : BitVec 3) (a : BitVec 7) (b : BitVec 7) : Desc :=
  { z := z,
    word := packD14A7B0W3_7_7 z 0x2D800000 d a b,
    uses := [.m d.toNat true, .v a.toNat 1 false, .v b.toNat 1 false],
    covered := true,
    ahead := .exec }

/-- The operands of MAND (R244). -/
def descMand (z : Bool) (d : BitVec 3) (a : BitVec 3) (b : BitVec 3) : Desc :=
  { z := z,
    word := packD14A7B0W3_3_3 z 0x2E000000 d a b,
    uses := [.m d.toNat true, .m a.toNat false, .m b.toNat false],
    covered := true,
    alu := .mask,
    ahead := .exec }

/-- The operands of MOR (R244). -/
def descMor (z : Bool) (d : BitVec 3) (a : BitVec 3) (b : BitVec 3) : Desc :=
  { z := z,
    word := packD14A7B0W3_3_3 z 0x2E200000 d a b,
    uses := [.m d.toNat true, .m a.toNat false, .m b.toNat false],
    covered := true,
    alu := .mask,
    ahead := .exec }

/-- The operands of MXOR (R244). -/
def descMxor (z : Bool) (d : BitVec 3) (a : BitVec 3) (b : BitVec 3) : Desc :=
  { z := z,
    word := packD14A7B0W3_3_3 z 0x2E400000 d a b,
    uses := [.m d.toNat true, .m a.toNat false, .m b.toNat false],
    covered := true,
    alu := .mask,
    ahead := .exec }

/-- The operands of MANDN (R244). -/
def descMandn (z : Bool) (d : BitVec 3) (a : BitVec 3) (b : BitVec 3) : Desc :=
  { z := z,
    word := packD14A7B0W3_3_3 z 0x2E600000 d a b,
    uses := [.m d.toNat true, .m a.toNat false, .m b.toNat false],
    covered := true,
    alu := .mask,
    ahead := .exec }

/-- The operands of MNOT (R244). -/
def descMnot (z : Bool) (d : BitVec 3) (a : BitVec 3) : Desc :=
  { z := z,
    word := packD14A7W3_3 z 0x2E800000 d a,
    uses := [.m d.toNat true, .m a.toNat false],
    covered := true,
    alu := .mask,
    ahead := .exec }

/-- The operands of MMOV (R244). -/
def descMmov (z : Bool) (d : BitVec 3) (a : BitVec 3) : Desc :=
  { z := z,
    word := packD14A7W3_3 z 0x2EA00000 d a,
    uses := [.m d.toNat true, .m a.toNat false],
    covered := true,
    alu := .mask,
    ahead := .exec }

/-- The operands of MPOP (R244). -/
def descMpop (z : Bool) (d : BitVec 7) (a : BitVec 3) : Desc :=
  { z := z,
    word := packD14A7W7_3 z 0x2EC00000 d a,
    uses := [.s d.toNat 1 true, .m a.toNat false],
    covered := true,
    alu := .mask,
    ahead := .exec }

/-- The operands of MFIRST (R244). -/
def descMfirst (z : Bool) (d : BitVec 7) (a : BitVec 3) : Desc :=
  { z := z,
    word := packD14A7W7_3 z 0x2EE00000 d a,
    uses := [.s d.toNat 1 true, .m a.toNat false],
    covered := true,
    alu := .mask,
    ahead := .exec }

/-- The operands of MTOS (R244). -/
def descMtos (z : Bool) (d : BitVec 7) (a : BitVec 3) : Desc :=
  { z := z,
    word := packD14A7W7_3 z 0x2F000000 d a,
    uses := [.s d.toNat 1 true, .m a.toNat false],
    covered := true,
    alu := .mask,
    ahead := .exec }

/-- The operands of STOM (R244). -/
def descStom (z : Bool) (d : BitVec 3) (a : BitVec 7) : Desc :=
  { z := z,
    word := packD14A7W3_7 z 0x2F200000 d a,
    uses := [.m d.toNat true, .s a.toNat 1 false],
    covered := true,
    alu := .mask,
    ahead := .exec }

/-- The operands of MSET (R244). -/
def descMset (z : Bool) (d : BitVec 3) : Desc :=
  { z := z,
    word := packD14W3 z 0x2F400000 d,
    uses := [.m d.toNat true],
    covered := true,
    alu := .mask,
    ahead := .exec }

/-- The operands of FADD (R245). -/
def descFadd (z : Bool) (d : BitVec 7) (a : BitVec 7) (b : BitVec 7) : Desc :=
  { z := z,
    word := packD14A7B0 z 0x30000000 d a b,
    uses := [.v d.toNat 1 true, .v a.toNat 1 false, .v b.toNat 1 false],
    covered := true,
    ahead := .exec }

/-- The operands of FSUB (R245). -/
def descFsub (z : Bool) (d : BitVec 7) (a : BitVec 7) (b : BitVec 7) : Desc :=
  { z := z,
    word := packD14A7B0 z 0x30200000 d a b,
    uses := [.v d.toNat 1 true, .v a.toNat 1 false, .v b.toNat 1 false],
    covered := true,
    ahead := .exec }

/-- The operands of FMUL (R245). -/
def descFmul (z : Bool) (d : BitVec 7) (a : BitVec 7) (b : BitVec 7) : Desc :=
  { z := z,
    word := packD14A7B0 z 0x30400000 d a b,
    uses := [.v d.toNat 1 true, .v a.toNat 1 false, .v b.toNat 1 false],
    covered := true,
    ahead := .exec }

/-- The operands of FMA (R245). -/
def descFma (z : Bool) (d : BitVec 7) (a : BitVec 7) (b : BitVec 7) : Desc :=
  { z := z,
    word := packD14A7B0 z 0x30600000 d a b,
    uses := [.v d.toNat 1 true, .v d.toNat 1 false, .v a.toNat 1 false, .v b.toNat 1 false],
    covered := true,
    ahead := .exec }

/-- The operands of FMS (R245). -/
def descFms (z : Bool) (d : BitVec 7) (a : BitVec 7) (b : BitVec 7) : Desc :=
  { z := z,
    word := packD14A7B0 z 0x30800000 d a b,
    uses := [.v d.toNat 1 true, .v d.toNat 1 false, .v a.toNat 1 false, .v b.toNat 1 false],
    covered := true,
    ahead := .exec }

/-- The operands of FNMA (R245). -/
def descFnma (z : Bool) (d : BitVec 7) (a : BitVec 7) (b : BitVec 7) : Desc :=
  { z := z,
    word := packD14A7B0 z 0x30A00000 d a b,
    uses := [.v d.toNat 1 true, .v d.toNat 1 false, .v a.toNat 1 false, .v b.toNat 1 false],
    covered := true,
    ahead := .exec }

/-- The operands of FMIN (R245). -/
def descFmin (z : Bool) (d : BitVec 7) (a : BitVec 7) (b : BitVec 7) : Desc :=
  { z := z,
    word := packD14A7B0 z 0x30C00000 d a b,
    uses := [.v d.toNat 1 true, .v a.toNat 1 false, .v b.toNat 1 false],
    covered := true,
    ahead := .exec }

/-- The operands of FMAX (R245). -/
def descFmax (z : Bool) (d : BitVec 7) (a : BitVec 7) (b : BitVec 7) : Desc :=
  { z := z,
    word := packD14A7B0 z 0x30E00000 d a b,
    uses := [.v d.toNat 1 true, .v a.toNat 1 false, .v b.toNat 1 false],
    covered := true,
    ahead := .exec }

/-- The operands of FMINI (R246). -/
def descFmini (z : Bool) (d : BitVec 7) (a : BitVec 7) (b : BitVec 7) : Desc :=
  { z := z,
    word := packD14A7B0 z 0x31000000 d a b,
    uses := [.v d.toNat 1 true, .v a.toNat 1 false, .v b.toNat 1 false],
    covered := true,
    ahead := .exec }

/-- The operands of FMAXI (R246). -/
def descFmaxi (z : Bool) (d : BitVec 7) (a : BitVec 7) (b : BitVec 7) : Desc :=
  { z := z,
    word := packD14A7B0 z 0x31200000 d a b,
    uses := [.v d.toNat 1 true, .v a.toNat 1 false, .v b.toNat 1 false],
    covered := true,
    ahead := .exec }

/-- The operands of FABS (R245). -/
def descFabs (z : Bool) (d : BitVec 7) (a : BitVec 7) : Desc :=
  { z := z,
    word := packD14A7 z 0x31400000 d a,
    uses := [.v d.toNat 1 true, .v a.toNat 1 false],
    covered := true,
    ahead := .exec }

/-- The operands of FNEG (R245). -/
def descFneg (z : Bool) (d : BitVec 7) (a : BitVec 7) : Desc :=
  { z := z,
    word := packD14A7 z 0x31600000 d a,
    uses := [.v d.toNat 1 true, .v a.toNat 1 false],
    covered := true,
    ahead := .exec }

/-- The operands of FCPS (R245). -/
def descFcps (z : Bool) (d : BitVec 7) (a : BitVec 7) (b : BitVec 7) : Desc :=
  { z := z,
    word := packD14A7B0 z 0x31800000 d a b,
    uses := [.v d.toNat 1 true, .v a.toNat 1 false, .v b.toNat 1 false],
    covered := true,
    ahead := .exec }

/-- The operands of FRINT (R245). -/
def descFrint (z : Bool) (d : BitVec 7) (a : BitVec 7) : Desc :=
  { z := z,
    word := packD14A7 z 0x31A00000 d a,
    uses := [.v d.toNat 1 true, .v a.toNat 1 false],
    covered := true,
    ahead := .exec }

/-- The operands of FSCL (R245). -/
def descFscl (z : Bool) (d : BitVec 7) (a : BitVec 7) (b : BitVec 7) : Desc :=
  { z := z,
    word := packD14A7B0 z 0x31C00000 d a b,
    uses := [.v d.toNat 1 true, .v a.toNat 1 false, .v b.toNat 1 false],
    covered := true,
    ahead := .exec }

/-- The operands of FCLASS (R247). -/
def descFclass (z : Bool) (d : BitVec 7) (a : BitVec 7) : Desc :=
  { z := z,
    word := packD14A7 z 0x31E00000 d a,
    uses := [.v d.toNat 1 true, .v a.toNat 1 false],
    covered := true,
    ahead := .exec }

/-- The operands of FCVT (R248). -/
def descFcvt (z : Bool) (r : BitVec 4) (d : BitVec 7) (a : BitVec 7) (c : BitVec 7) : Desc :=
  { z := z,
    word := packR21D14A7C0 z 0x32000000 r d a c,
    uses := cvtUses r.toNat d.toNat a.toNat c.toNat,
    codeOk := (cvtTypes c.toNat).isSome && r.toNat ≤ 7,
    covered := true,
    ahead := .exec }

/-- The operands of FDIV (R249). -/
def descFdiv (z : Bool) (l : BitVec 4) (d : BitVec 7) (a : BitVec 7) (b : BitVec 7) : Desc :=
  { z := z,
    word := packL21D14A7B0 z 0x34000000 l d a b,
    uses := [.v d.toNat 1 true, .v a.toNat 1 false, .v b.toNat 1 false],
    covered := true,
    la := l.toNat,
    laSrc := false }

/-- The operands of VTR_SQRT (R251). -/
def descVtrSqrt (z : Bool) (l : BitVec 4) (d : BitVec 7) (a : BitVec 7) : Desc :=
  { z := z,
    word := packL21D14A7 z 0x36000000 l d a,
    uses := [.v d.toNat 1 true, .v a.toNat 1 false],
    covered := true,
    la := l.toNat,
    laSrc := false }

/-- The operands of VTR_RCP (R251). -/
def descVtrRcp (z : Bool) (l : BitVec 4) (d : BitVec 7) (a : BitVec 7) : Desc :=
  { z := z,
    word := packL21D14A7 z 0x36000001 l d a,
    uses := [.v d.toNat 1 true, .v a.toNat 1 false],
    covered := true,
    la := l.toNat,
    laSrc := false }

/-- The operands of VTR_RSQ (R251). -/
def descVtrRsq (z : Bool) (l : BitVec 4) (d : BitVec 7) (a : BitVec 7) : Desc :=
  { z := z,
    word := packL21D14A7 z 0x36000002 l d a,
    uses := [.v d.toNat 1 true, .v a.toNat 1 false],
    covered := true,
    la := l.toNat,
    laSrc := false }

/-- The operands of VTR_EXP2 (R251). -/
def descVtrExp2 (z : Bool) (l : BitVec 4) (d : BitVec 7) (a : BitVec 7) : Desc :=
  { z := z,
    word := packL21D14A7 z 0x36000003 l d a,
    uses := [.v d.toNat 1 true, .v a.toNat 1 false],
    covered := true,
    la := l.toNat,
    laSrc := false }

/-- The operands of VTR_LOG2 (R251). -/
def descVtrLog2 (z : Bool) (l : BitVec 4) (d : BitVec 7) (a : BitVec 7) : Desc :=
  { z := z,
    word := packL21D14A7 z 0x36000004 l d a,
    uses := [.v d.toNat 1 true, .v a.toNat 1 false],
    covered := true,
    la := l.toNat,
    laSrc := false }

/-- The operands of VTR_EXP (R251). -/
def descVtrExp (z : Bool) (l : BitVec 4) (d : BitVec 7) (a : BitVec 7) : Desc :=
  { z := z,
    word := packL21D14A7 z 0x36000005 l d a,
    uses := [.v d.toNat 1 true, .v a.toNat 1 false],
    covered := true,
    la := l.toNat,
    laSrc := false }

/-- The operands of VTR_TANH (R251). -/
def descVtrTanh (z : Bool) (l : BitVec 4) (d : BitVec 7) (a : BitVec 7) : Desc :=
  { z := z,
    word := packL21D14A7 z 0x36000006 l d a,
    uses := [.v d.toNat 1 true, .v a.toNat 1 false],
    covered := true,
    la := l.toNat,
    laSrc := false }

/-- The operands of VTR_SIN (R251). -/
def descVtrSin (z : Bool) (l : BitVec 4) (d : BitVec 7) (a : BitVec 7) : Desc :=
  { z := z,
    word := packL21D14A7 z 0x36000007 l d a,
    uses := [.v d.toNat 1 true, .v a.toNat 1 false],
    covered := true,
    la := l.toNat,
    laSrc := false }

/-- The operands of VTR_COS (R251). -/
def descVtrCos (z : Bool) (l : BitVec 4) (d : BitVec 7) (a : BitVec 7) : Desc :=
  { z := z,
    word := packL21D14A7 z 0x36000008 l d a,
    uses := [.v d.toNat 1 true, .v a.toNat 1 false],
    covered := true,
    la := l.toNat,
    laSrc := false }

/-- The operands of LD (R174). -/
def descLd (z : Bool) (l : BitVec 4) (d : BitVec 7) (a : BitVec 7) (x : BitVec 3) (w : BitVec 2) (h : BitVec 2) : Desc :=
  { z := z,
    word := packL21D14A7X4W2H0 z 0x40000000 l d a x w h,
    uses := [.v d.toNat (if w.toNat = 3 then 2 else 1) true, .v a.toNat 1 false, .x x.toNat false],
    la := l.toNat,
    laSrc := false,
    ahead := .mem }

/-- The operands of ST (R174). -/
def descSt (z : Bool) (l : BitVec 4) (d : BitVec 7) (a : BitVec 7) (x : BitVec 3) (w : BitVec 2) (h : BitVec 2) : Desc :=
  { z := z,
    word := packL21D14A7X4W2H0 z 0x42000000 l d a x w h,
    uses := [.v d.toNat (if w.toNat = 3 then 2 else 1) false, .v a.toNat 1 false, .x x.toNat false],
    la := l.toNat,
    laSrc := true,
    ahead := .mem }

/-- The operands of LDS (R174). -/
def descLds (z : Bool) (l : BitVec 4) (d : BitVec 7) (a : BitVec 7) (x : BitVec 3) (w : BitVec 2) (h : BitVec 2) : Desc :=
  { z := z,
    word := packL21D14A7X4W2H0 z 0x44000000 l d a x w h,
    uses := [.s d.toNat 1 true, .s a.toNat 1 false, .x x.toNat false],
    la := l.toNat,
    laSrc := false,
    ahead := .mem }

/-- The operands of STS (R174). -/
def descSts (z : Bool) (l : BitVec 4) (d : BitVec 7) (a : BitVec 7) (x : BitVec 3) (w : BitVec 2) (h : BitVec 2) : Desc :=
  { z := z,
    word := packL21D14A7X4W2H0 z 0x46000000 l d a x w h,
    uses := [.s d.toNat 1 false, .s a.toNat 1 false, .x x.toNat false],
    la := l.toNat,
    laSrc := true,
    ahead := .mem }

/-- The operands of LDP (R172). -/
def descLdp (z : Bool) (l : BitVec 4) (d : BitVec 7) (a : BitVec 7) (p : BitVec 3) (w : BitVec 2) (h : BitVec 2) : Desc :=
  { z := z,
    word := packL21D14A7P4W2H0 z 0x48000000 l d a p w h,
    uses := [.v d.toNat (if w.toNat = 3 then 2 else 1) true, .v a.toNat 1 false],
    la := l.toNat,
    laSrc := false }

/-- The operands of STP (R172). -/
def descStp (z : Bool) (l : BitVec 4) (d : BitVec 7) (a : BitVec 7) (p : BitVec 3) (w : BitVec 2) (h : BitVec 2) : Desc :=
  { z := z,
    word := packL21D14A7P4W2H0 z 0x4A000000 l d a p w h,
    uses := [.v d.toNat (if w.toNat = 3 then 2 else 1) false, .v a.toNat 1 false],
    la := l.toNat,
    laSrc := true }

/-- The operands of PKLD (R208). -/
def descPkld (z : Bool) (l : BitVec 4) (d : BitVec 7) (a : BitVec 7) (x : BitVec 3) (g : BitVec 3) (h : BitVec 1) : Desc :=
  { z := z,
    word := packL21D14A7X4G1H0 z 0x4C000000 l d a x g h,
    uses := [.v d.toNat 1 true, .v a.toNat 1 false, .x x.toNat false],
    la := l.toNat,
    laSrc := false,
    ahead := .mem }

/-- The operands of PKST (R210). -/
def descPkst (z : Bool) (l : BitVec 4) (d : BitVec 7) (a : BitVec 7) (x : BitVec 3) (g : BitVec 3) (h : BitVec 1) : Desc :=
  { z := z,
    word := packL21D14A7X4G1H0 z 0x4E000000 l d a x g h,
    uses := [.v d.toNat 1 false, .v a.toNat 1 false, .x x.toNat false],
    la := l.toNat,
    laSrc := true,
    ahead := .mem }

/-- The operands of ATOM_ADD (R301). -/
def descAtomAdd (z : Bool) (w : BitVec 1) (l : BitVec 3) (d : BitVec 7) (a : BitVec 7) (x : BitVec 3) : Desc :=
  { z := z,
    word := packW24L21D14A7X4 z 0x50000000 w l d a x,
    uses := [.v d.toNat (if w.toNat = 1 then 2 else 1) true, .v d.toNat (if w.toNat = 1 then 2 else 1) false, .v a.toNat 1 false, .x x.toNat false],
    la := l.toNat,
    laSrc := false,
    ahead := .mem }

/-- The operands of ATOM_AND (R301). -/
def descAtomAnd (z : Bool) (w : BitVec 1) (l : BitVec 3) (d : BitVec 7) (a : BitVec 7) (x : BitVec 3) : Desc :=
  { z := z,
    word := packW24L21D14A7X4 z 0x50000001 w l d a x,
    uses := [.v d.toNat (if w.toNat = 1 then 2 else 1) true, .v d.toNat (if w.toNat = 1 then 2 else 1) false, .v a.toNat 1 false, .x x.toNat false],
    la := l.toNat,
    laSrc := false,
    ahead := .mem }

/-- The operands of ATOM_OR (R301). -/
def descAtomOr (z : Bool) (w : BitVec 1) (l : BitVec 3) (d : BitVec 7) (a : BitVec 7) (x : BitVec 3) : Desc :=
  { z := z,
    word := packW24L21D14A7X4 z 0x50000002 w l d a x,
    uses := [.v d.toNat (if w.toNat = 1 then 2 else 1) true, .v d.toNat (if w.toNat = 1 then 2 else 1) false, .v a.toNat 1 false, .x x.toNat false],
    la := l.toNat,
    laSrc := false,
    ahead := .mem }

/-- The operands of ATOM_XOR (R301). -/
def descAtomXor (z : Bool) (w : BitVec 1) (l : BitVec 3) (d : BitVec 7) (a : BitVec 7) (x : BitVec 3) : Desc :=
  { z := z,
    word := packW24L21D14A7X4 z 0x50000003 w l d a x,
    uses := [.v d.toNat (if w.toNat = 1 then 2 else 1) true, .v d.toNat (if w.toNat = 1 then 2 else 1) false, .v a.toNat 1 false, .x x.toNat false],
    la := l.toNat,
    laSrc := false,
    ahead := .mem }

/-- The operands of ATOM_MIN (R301). -/
def descAtomMin (z : Bool) (w : BitVec 1) (l : BitVec 3) (d : BitVec 7) (a : BitVec 7) (x : BitVec 3) : Desc :=
  { z := z,
    word := packW24L21D14A7X4 z 0x50000004 w l d a x,
    uses := [.v d.toNat (if w.toNat = 1 then 2 else 1) true, .v d.toNat (if w.toNat = 1 then 2 else 1) false, .v a.toNat 1 false, .x x.toNat false],
    la := l.toNat,
    laSrc := false,
    ahead := .mem }

/-- The operands of ATOM_MAX (R301). -/
def descAtomMax (z : Bool) (w : BitVec 1) (l : BitVec 3) (d : BitVec 7) (a : BitVec 7) (x : BitVec 3) : Desc :=
  { z := z,
    word := packW24L21D14A7X4 z 0x50000005 w l d a x,
    uses := [.v d.toNat (if w.toNat = 1 then 2 else 1) true, .v d.toNat (if w.toNat = 1 then 2 else 1) false, .v a.toNat 1 false, .x x.toNat false],
    la := l.toNat,
    laSrc := false,
    ahead := .mem }

/-- The operands of ATOM_MINN (R301). -/
def descAtomMinn (z : Bool) (w : BitVec 1) (l : BitVec 3) (d : BitVec 7) (a : BitVec 7) (x : BitVec 3) : Desc :=
  { z := z,
    word := packW24L21D14A7X4 z 0x50000006 w l d a x,
    uses := [.v d.toNat (if w.toNat = 1 then 2 else 1) true, .v d.toNat (if w.toNat = 1 then 2 else 1) false, .v a.toNat 1 false, .x x.toNat false],
    la := l.toNat,
    laSrc := false,
    ahead := .mem }

/-- The operands of ATOM_MAXN (R301). -/
def descAtomMaxn (z : Bool) (w : BitVec 1) (l : BitVec 3) (d : BitVec 7) (a : BitVec 7) (x : BitVec 3) : Desc :=
  { z := z,
    word := packW24L21D14A7X4 z 0x50000007 w l d a x,
    uses := [.v d.toNat (if w.toNat = 1 then 2 else 1) true, .v d.toNat (if w.toNat = 1 then 2 else 1) false, .v a.toNat 1 false, .x x.toNat false],
    la := l.toNat,
    laSrc := false,
    ahead := .mem }

/-- The operands of ATOM_XCHG (R301). -/
def descAtomXchg (z : Bool) (w : BitVec 1) (l : BitVec 3) (d : BitVec 7) (a : BitVec 7) (x : BitVec 3) : Desc :=
  { z := z,
    word := packW24L21D14A7X4 z 0x50000008 w l d a x,
    uses := [.v d.toNat (if w.toNat = 1 then 2 else 1) true, .v d.toNat (if w.toNat = 1 then 2 else 1) false, .v a.toNat 1 false, .x x.toNat false],
    la := l.toNat,
    laSrc := false,
    ahead := .mem }

/-- The operands of ATOM_INC (R301). -/
def descAtomInc (z : Bool) (w : BitVec 1) (l : BitVec 3) (d : BitVec 7) (a : BitVec 7) (x : BitVec 3) : Desc :=
  { z := z,
    word := packW24L21D14A7X4 z 0x50000009 w l d a x,
    uses := [.v d.toNat (if w.toNat = 1 then 2 else 1) true, .v d.toNat (if w.toNat = 1 then 2 else 1) false, .v a.toNat 1 false, .x x.toNat false],
    la := l.toNat,
    laSrc := false,
    ahead := .mem }

/-- The operands of ATOM_DEC (R301). -/
def descAtomDec (z : Bool) (w : BitVec 1) (l : BitVec 3) (d : BitVec 7) (a : BitVec 7) (x : BitVec 3) : Desc :=
  { z := z,
    word := packW24L21D14A7X4 z 0x5000000A w l d a x,
    uses := [.v d.toNat (if w.toNat = 1 then 2 else 1) true, .v d.toNat (if w.toNat = 1 then 2 else 1) false, .v a.toNat 1 false, .x x.toNat false],
    la := l.toNat,
    laSrc := false,
    ahead := .mem }

/-- The operands of ATOM_FADD (R301). -/
def descAtomFadd (z : Bool) (l : BitVec 3) (d : BitVec 7) (a : BitVec 7) (x : BitVec 3) : Desc :=
  { z := z,
    word := packL21D14A7X4 z 0x5000000B l d a x,
    uses := [.v d.toNat 1 true, .v d.toNat 1 false, .v a.toNat 1 false, .x x.toNat false],
    la := l.toNat,
    laSrc := false,
    ahead := .mem }

/-- The operands of RED_ADD (R302). -/
def descRedAdd (z : Bool) (w : BitVec 1) (l : BitVec 3) (d : BitVec 7) (a : BitVec 7) (x : BitVec 3) : Desc :=
  { z := z,
    word := packW24L21D14A7X4 z 0x52000000 w l d a x,
    uses := [.v d.toNat (if w.toNat = 1 then 2 else 1) false, .v a.toNat 1 false, .x x.toNat false],
    la := l.toNat,
    laSrc := true,
    ahead := .mem }

/-- The operands of RED_AND (R302). -/
def descRedAnd (z : Bool) (w : BitVec 1) (l : BitVec 3) (d : BitVec 7) (a : BitVec 7) (x : BitVec 3) : Desc :=
  { z := z,
    word := packW24L21D14A7X4 z 0x52000001 w l d a x,
    uses := [.v d.toNat (if w.toNat = 1 then 2 else 1) false, .v a.toNat 1 false, .x x.toNat false],
    la := l.toNat,
    laSrc := true,
    ahead := .mem }

/-- The operands of RED_OR (R302). -/
def descRedOr (z : Bool) (w : BitVec 1) (l : BitVec 3) (d : BitVec 7) (a : BitVec 7) (x : BitVec 3) : Desc :=
  { z := z,
    word := packW24L21D14A7X4 z 0x52000002 w l d a x,
    uses := [.v d.toNat (if w.toNat = 1 then 2 else 1) false, .v a.toNat 1 false, .x x.toNat false],
    la := l.toNat,
    laSrc := true,
    ahead := .mem }

/-- The operands of RED_XOR (R302). -/
def descRedXor (z : Bool) (w : BitVec 1) (l : BitVec 3) (d : BitVec 7) (a : BitVec 7) (x : BitVec 3) : Desc :=
  { z := z,
    word := packW24L21D14A7X4 z 0x52000003 w l d a x,
    uses := [.v d.toNat (if w.toNat = 1 then 2 else 1) false, .v a.toNat 1 false, .x x.toNat false],
    la := l.toNat,
    laSrc := true,
    ahead := .mem }

/-- The operands of RED_MIN (R302). -/
def descRedMin (z : Bool) (w : BitVec 1) (l : BitVec 3) (d : BitVec 7) (a : BitVec 7) (x : BitVec 3) : Desc :=
  { z := z,
    word := packW24L21D14A7X4 z 0x52000004 w l d a x,
    uses := [.v d.toNat (if w.toNat = 1 then 2 else 1) false, .v a.toNat 1 false, .x x.toNat false],
    la := l.toNat,
    laSrc := true,
    ahead := .mem }

/-- The operands of RED_MAX (R302). -/
def descRedMax (z : Bool) (w : BitVec 1) (l : BitVec 3) (d : BitVec 7) (a : BitVec 7) (x : BitVec 3) : Desc :=
  { z := z,
    word := packW24L21D14A7X4 z 0x52000005 w l d a x,
    uses := [.v d.toNat (if w.toNat = 1 then 2 else 1) false, .v a.toNat 1 false, .x x.toNat false],
    la := l.toNat,
    laSrc := true,
    ahead := .mem }

/-- The operands of RED_MINN (R302). -/
def descRedMinn (z : Bool) (w : BitVec 1) (l : BitVec 3) (d : BitVec 7) (a : BitVec 7) (x : BitVec 3) : Desc :=
  { z := z,
    word := packW24L21D14A7X4 z 0x52000006 w l d a x,
    uses := [.v d.toNat (if w.toNat = 1 then 2 else 1) false, .v a.toNat 1 false, .x x.toNat false],
    la := l.toNat,
    laSrc := true,
    ahead := .mem }

/-- The operands of RED_MAXN (R302). -/
def descRedMaxn (z : Bool) (w : BitVec 1) (l : BitVec 3) (d : BitVec 7) (a : BitVec 7) (x : BitVec 3) : Desc :=
  { z := z,
    word := packW24L21D14A7X4 z 0x52000007 w l d a x,
    uses := [.v d.toNat (if w.toNat = 1 then 2 else 1) false, .v a.toNat 1 false, .x x.toNat false],
    la := l.toNat,
    laSrc := true,
    ahead := .mem }

/-- The operands of RED_XCHG (R302). -/
def descRedXchg (z : Bool) (w : BitVec 1) (l : BitVec 3) (d : BitVec 7) (a : BitVec 7) (x : BitVec 3) : Desc :=
  { z := z,
    word := packW24L21D14A7X4 z 0x52000008 w l d a x,
    uses := [.v d.toNat (if w.toNat = 1 then 2 else 1) false, .v a.toNat 1 false, .x x.toNat false],
    la := l.toNat,
    laSrc := true,
    ahead := .mem }

/-- The operands of RED_INC (R302). -/
def descRedInc (z : Bool) (w : BitVec 1) (l : BitVec 3) (d : BitVec 7) (a : BitVec 7) (x : BitVec 3) : Desc :=
  { z := z,
    word := packW24L21D14A7X4 z 0x52000009 w l d a x,
    uses := [.v d.toNat (if w.toNat = 1 then 2 else 1) false, .v a.toNat 1 false, .x x.toNat false],
    la := l.toNat,
    laSrc := true,
    ahead := .mem }

/-- The operands of RED_DEC (R302). -/
def descRedDec (z : Bool) (w : BitVec 1) (l : BitVec 3) (d : BitVec 7) (a : BitVec 7) (x : BitVec 3) : Desc :=
  { z := z,
    word := packW24L21D14A7X4 z 0x5200000A w l d a x,
    uses := [.v d.toNat (if w.toNat = 1 then 2 else 1) false, .v a.toNat 1 false, .x x.toNat false],
    la := l.toNat,
    laSrc := true,
    ahead := .mem }

/-- The operands of RED_FADD (R302). -/
def descRedFadd (z : Bool) (l : BitVec 3) (d : BitVec 7) (a : BitVec 7) (x : BitVec 3) : Desc :=
  { z := z,
    word := packL21D14A7X4 z 0x5200000B l d a x,
    uses := [.v d.toNat 1 false, .v a.toNat 1 false, .x x.toNat false],
    la := l.toNat,
    laSrc := true,
    ahead := .mem }

/-- The operands of CAS (R303). -/
def descCas (z : Bool) (l : BitVec 4) (d : BitVec 7) (a : BitVec 7) (x : BitVec 3) (w : BitVec 1) (h : BitVec 2) : Desc :=
  { z := z,
    word := packL21D14A7X4W2H0W4_7_7_3_1_2 z 0x54000008 l d a x w h,
    uses := casUses w.toNat d.toNat a.toNat x.toNat,
    la := l.toNat,
    laSrc := false,
    ahead := .mem }

/-- The operands of WAITC_EQ (R307). -/
def descWaitcEq (z : Bool) (d : BitVec 7) (a : BitVec 7) (x : BitVec 3) (t : BitVec 1) : Desc :=
  { z := z,
    word := packD14A7X4T3 z 0x56000000 d a x t,
    uses := [.s d.toNat 2 true, .s d.toNat 2 false, .s a.toNat 1 false, .x x.toNat false] }

/-- The operands of WAITC_NE (R307). -/
def descWaitcNe (z : Bool) (d : BitVec 7) (a : BitVec 7) (x : BitVec 3) (t : BitVec 1) : Desc :=
  { z := z,
    word := packD14A7X4T3 z 0x56000001 d a x t,
    uses := [.s d.toNat 2 true, .s d.toNat 2 false, .s a.toNat 1 false, .x x.toNat false] }

/-- The operands of WAITC_LT (R307). -/
def descWaitcLt (z : Bool) (d : BitVec 7) (a : BitVec 7) (x : BitVec 3) (t : BitVec 1) : Desc :=
  { z := z,
    word := packD14A7X4T3 z 0x56000002 d a x t,
    uses := [.s d.toNat 2 true, .s d.toNat 2 false, .s a.toNat 1 false, .x x.toNat false] }

/-- The operands of WAITC_GE (R307). -/
def descWaitcGe (z : Bool) (d : BitVec 7) (a : BitVec 7) (x : BitVec 3) (t : BitVec 1) : Desc :=
  { z := z,
    word := packD14A7X4T3 z 0x56000003 d a x t,
    uses := [.s d.toNat 2 true, .s d.toNat 2 false, .s a.toNat 1 false, .x x.toNat false] }

/-- The operands of WAITC_LTN (R307). -/
def descWaitcLtn (z : Bool) (d : BitVec 7) (a : BitVec 7) (x : BitVec 3) (t : BitVec 1) : Desc :=
  { z := z,
    word := packD14A7X4T3 z 0x56000004 d a x t,
    uses := [.s d.toNat 2 true, .s d.toNat 2 false, .s a.toNat 1 false, .x x.toNat false] }

/-- The operands of WAITC_GEN (R307). -/
def descWaitcGen (z : Bool) (d : BitVec 7) (a : BitVec 7) (x : BitVec 3) (t : BitVec 1) : Desc :=
  { z := z,
    word := packD14A7X4T3 z 0x56000005 d a x t,
    uses := [.s d.toNat 2 true, .s d.toNat 2 false, .s a.toNat 1 false, .x x.toNat false] }

/-- The operands of WAITC_ANY (R307). -/
def descWaitcAny (z : Bool) (d : BitVec 7) (a : BitVec 7) (x : BitVec 3) (t : BitVec 1) : Desc :=
  { z := z,
    word := packD14A7X4T3 z 0x56000006 d a x t,
    uses := [.s d.toNat 2 true, .s d.toNat 2 false, .s a.toNat 1 false, .x x.toNat false] }

/-- The operands of COPY (R180). -/
def descCopy (z : Bool) (l : BitVec 4) (d : BitVec 7) (a : BitVec 7) (b : BitVec 7) : Desc :=
  { z := z,
    word := packL21D14A7B0 z 0x58000000 l d a b,
    uses := [.s d.toNat 1 false, .s a.toNat 1 false, .s b.toNat 2 false],
    la := l.toNat,
    laSrc := true }

/-- The operands of CWAIT (R184). -/
def descCwait (z : Bool) (d : BitVec 7) (a : BitVec 7) (b : BitVec 7) : Desc :=
  { z := z,
    word := packD14A7B0 z 0x5A000000 d a b,
    uses := [.s d.toNat 1 true, .s a.toNat 1 false, .s b.toNat 1 false] }

/-- The operands of CSTAT (R185). -/
def descCstat (z : Bool) (d : BitVec 7) (b : BitVec 7) : Desc :=
  { z := z,
    word := packD14B0 z 0x5A200000 d b,
    uses := [.s d.toNat 1 true, .s b.toNat 1 false] }

/-- The operands of PUBLISH (R188). -/
def descPublish (z : Bool) (a : BitVec 7) : Desc :=
  { z := z,
    word := packA7 z 0x5A400000 a,
    uses := [.s a.toNat 1 false] }

/-- The operands of SHADOW (R186). -/
def descShadow (z : Bool) (d : BitVec 7) (a : BitVec 7) (b : BitVec 7) : Desc :=
  { z := z,
    word := packD14A7B0 z 0x5A600000 d a b,
    uses := [.s d.toNat 1 true, .s a.toNat 1 false, .s b.toNat 1 false] }

/-- The operands of FENCE (R309). -/
def descFence (z : Bool) (k : BitVec 3) : Desc :=
  { z := z,
    word := packK14 z 0x5A800000 k,
    uses := [],
    codeOk := k.toNat ≠ 7 }

/-- The operands of CLEAN (R311). -/
def descClean (z : Bool) (v : BitVec 2) (a : BitVec 7) (b : BitVec 7) : Desc :=
  { z := z,
    word := packV14A7B0 z 0x5AA00000 v a b,
    uses := [.s a.toNat 1 false, .s b.toNat 1 false] }

/-- The operands of INVAL (R311). -/
def descInval (z : Bool) (v : BitVec 2) (a : BitVec 7) (b : BitVec 7) : Desc :=
  { z := z,
    word := packV14A7B0 z 0x5AC00000 v a b,
    uses := [.s a.toNat 1 false, .s b.toNat 1 false],
    priv := 2 ≤ v.toNat }

/-- The operands of CLINV (R311). -/
def descClinv (z : Bool) (v : BitVec 2) (a : BitVec 7) (b : BitVec 7) : Desc :=
  { z := z,
    word := packV14A7B0 z 0x5AE00000 v a b,
    uses := [.s a.toNat 1 false, .s b.toNat 1 false],
    priv := 2 ≤ v.toNat }

/-- The operands of MBATCH (R273). -/
def descMbatch (z : Bool) (d : BitVec 7) : Desc :=
  { z := z,
    word := packD14 z 0x5B000000 d,
    uses := [.s d.toNat 1 true] }

/-- The operands of MWAIT (R274). -/
def descMwait (z : Bool) (a : BitVec 7) : Desc :=
  { z := z,
    word := packA7 z 0x5B200000 a,
    uses := [.s a.toNat 1 false] }

/-- The operands of MBX (R189). -/
def descMbx (z : Bool) (d : BitVec 7) (a : BitVec 7) (b : BitVec 7) : Desc :=
  { z := z,
    word := packD14A7B0 z 0x5B400000 d a b,
    uses := [.s d.toNat 1 true, .s a.toNat 1 false, .s b.toNat 1 false] }

/-- The operands of MSQ (R147). -/
def descMsq (z : Bool) (d : BitVec 7) (a : BitVec 7) (b : BitVec 7) : Desc :=
  { z := z,
    word := packD14A7B0 z 0x5B600000 d a b,
    uses := [.s d.toNat 1 true, .s a.toNat 1 false, .s b.toNat 1 false],
    priv := true,
    debugOk := true }

/-- The operands of TWR (R197). -/
def descTwr (z : Bool) (t : BitVec 5) (r : BitVec 1) (k : BitVec 7) (v : BitVec 7) (i : BitVec 5) : Desc :=
  { z := z,
    word := packT20R19K12V5I0 z 0x60000000 t r k v i,
    uses := [.t t.toNat, .s k.toNat 1 false, .v v.toNat 1 false] }

/-- The operands of TRD (R197). -/
def descTrd (z : Bool) (t : BitVec 5) (r : BitVec 1) (k : BitVec 7) (v : BitVec 7) (i : BitVec 5) : Desc :=
  { z := z,
    word := packT20R19K12V5I0 z 0x62000000 t r k v i,
    uses := [.t t.toNat, .s k.toNat 1 false, .v v.toNat 1 true] }

/-- The operands of MLOOP (R258). -/
def descMloop (z : Bool) (d : BitVec 7) (a : BitVec 7) (b : BitVec 7) : Desc :=
  { z := z,
    word := packD14A7B0 z 0x64000000 d a b,
    uses := [.t d.toNat, .s a.toNat 8 false, .s b.toNat 1 false] }

/-- The operands of HAD (R275). -/
def descHad (z : Bool) (d : BitVec 7) (a : BitVec 7) (b : BitVec 7) : Desc :=
  { z := z,
    word := packD14A7B0 z 0x66000000 d a b,
    uses := [.t d.toNat, .t a.toNat, .s b.toNat 1 false] }

/-- The operands of QNT (R276). -/
def descQnt (z : Bool) (d : BitVec 7) (a : BitVec 7) (b : BitVec 7) : Desc :=
  { z := z,
    word := packD14A7B0 z 0x68000000 d a b,
    uses := [.t d.toNat, .t a.toNat, .s b.toNat 1 false] }

/-- The operands of TDR_DIFF (R282). -/
def descTdrDiff (z : Bool) (d : BitVec 7) (a : BitVec 7) : Desc :=
  { z := z,
    word := packD14A7 z 0x6A000000 d a,
    uses := [.t d.toNat, .t a.toNat] }

/-- The operands of TDR_CANC (R282). -/
def descTdrCanc (z : Bool) (d : BitVec 7) (a : BitVec 7) : Desc :=
  { z := z,
    word := packD14A7 z 0x6A000001 d a,
    uses := [.t d.toNat, .t a.toNat] }

/-- The operands of TDR_AGREE (R282). -/
def descTdrAgree (z : Bool) (d : BitVec 7) (a : BitVec 7) : Desc :=
  { z := z,
    word := packD14A7 z 0x6A000002 d a,
    uses := [.t d.toNat, .t a.toNat] }

/-- The operands of TDR_RAW (R282). -/
def descTdrRaw (z : Bool) (d : BitVec 7) (a : BitVec 7) : Desc :=
  { z := z,
    word := packD14A7 z 0x6A000003 d a,
    uses := [.t d.toNat, .t a.toNat] }

/-- The operands of TZERO (R280). -/
def descTzero (z : Bool) (d : BitVec 7) : Desc :=
  { z := z,
    word := packD14 z 0x6C000000 d,
    uses := [.t d.toNat] }

/-- The operands of TCOPY (R280). -/
def descTcopy (z : Bool) (d : BitVec 7) (a : BitVec 7) : Desc :=
  { z := z,
    word := packD14A7 z 0x6C200000 d a,
    uses := [.t d.toNat, .t a.toNat] }

/-- The operands of TSTAT (R280). -/
def descTstat (z : Bool) (d : BitVec 7) (a : BitVec 7) (b : BitVec 7) : Desc :=
  { z := z,
    word := packD14A7B0 z 0x6C400000 d a b,
    uses := [.s d.toNat 1 true, .tc a.toNat, .s b.toNat 1 false] }

/-- The operands of TSETS (R280). -/
def descTsets (z : Bool) (d : BitVec 7) (a : BitVec 7) (b : BitVec 7) : Desc :=
  { z := z,
    word := packD14A7B0 z 0x6C600000 d a b,
    uses := [.tc d.toNat, .s a.toNat 1 false, .s b.toNat 1 false] }

/-- The operands of KVLD (R125). -/
def descKvld (z : Bool) (l : BitVec 4) (d : BitVec 7) (a : BitVec 7) (b : BitVec 7) : Desc :=
  { z := z,
    word := packL21D14A7B0 z 0x70000000 l d a b,
    uses := [.v d.toNat 1 true, .s a.toNat 1 false, .s b.toNat 1 false],
    la := l.toNat,
    laSrc := false }

/-- The operands of KVAPP (R127). -/
def descKvapp (z : Bool) (d : BitVec 7) (a : BitVec 7) (b : BitVec 7) : Desc :=
  { z := z,
    word := packD14A7B0 z 0x72000000 d a b,
    uses := [.v d.toNat 1 false, .s a.toNat 1 false, .s b.toNat 1 false] }

/-- The operands of KVFORK (R128). -/
def descKvfork (z : Bool) (d : BitVec 7) (a : BitVec 7) (b : BitVec 7) : Desc :=
  { z := z,
    word := packD14A7B0 z 0x72200000 d a b,
    uses := [.s d.toNat 1 true, .s a.toNat 1 false, .s b.toNat 1 false] }

/-- The operands of KVTRIM (R129). -/
def descKvtrim (z : Bool) (d : BitVec 7) (a : BitVec 7) : Desc :=
  { z := z,
    word := packD14A7 z 0x72400000 d a,
    uses := [.s d.toNat 1 true, .s a.toNat 1 false] }

/-- The operands of KVQ (R130). -/
def descKvq (z : Bool) (d : BitVec 7) (a : BitVec 7) (b : BitVec 7) : Desc :=
  { z := z,
    word := packD14A7B0 z 0x72600000 d a b,
    uses := [.s d.toNat 1 true, .s a.toNat 1 false, .s b.toNat 1 false] }

/-- The operands of KVPIN (R131). -/
def descKvpin (z : Bool) (a : BitVec 7) : Desc :=
  { z := z,
    word := packA7 z 0x72800000 a,
    uses := [.s a.toNat 1 false] }

/-- The operands of KVUNPIN (R131). -/
def descKvunpin (z : Bool) (a : BitVec 7) : Desc :=
  { z := z,
    word := packA7 z 0x72A00000 a,
    uses := [.s a.toNat 1 false] }

/-- The operands of PASS (R291). -/
def descPass (z : Bool) (d : BitVec 7) (a : BitVec 7) : Desc :=
  { z := z,
    word := packD14A7 z 0x74000000 d a,
    uses := [.s d.toNat 1 true, .s a.toNat 1 false] }

/-- The operands of TAKE (R291). -/
def descTake (z : Bool) (d : BitVec 7) (a : BitVec 7) : Desc :=
  { z := z,
    word := packD14A7 z 0x74200000 d a,
    uses := [.s d.toNat 1 true, .s a.toNat 1 false] }

/-- The operands of QUERY (R291). -/
def descQuery (z : Bool) (d : BitVec 7) : Desc :=
  { z := z,
    word := packD14 z 0x74400000 d,
    uses := [.s d.toNat 1 true] }

/-- The operands of BAR (R348). -/
def descBar (z : Bool) : Desc :=
  { z := z,
    word := pack z 0x76000000,
    uses := [] }

/-- The operands of GBAR (R348). -/
def descGbar (z : Bool) (a : BitVec 7) : Desc :=
  { z := z,
    word := packA7 z 0x76200000 a,
    uses := [.s a.toNat 1 false] }

/-- The operands of ARRIVE (R348). -/
def descArrive (z : Bool) (d : BitVec 7) (a : BitVec 7) : Desc :=
  { z := z,
    word := packD14A7 z 0x76400000 d a,
    uses := [.s d.toNat 1 true, .s a.toNat 1 false] }

/-- The operands of AWAIT (R348). -/
def descAwait (z : Bool) (a : BitVec 7) (b : BitVec 7) : Desc :=
  { z := z,
    word := packA7B0 z 0x76600000 a b,
    uses := [.s a.toNat 1 false, .s b.toNat 1 false] }

/-- The operands of TOKW (R363). -/
def descTokw (z : Bool) : Desc :=
  { z := z,
    word := pack z 0x76800000,
    uses := [] }

/-- The operands of TOKP (R363). -/
def descTokp (z : Bool) : Desc :=
  { z := z,
    word := pack z 0x76A00000,
    uses := [] }

/-- The operands of TICKQ (R363). -/
def descTickq (z : Bool) (d : BitVec 7) (b : BitVec 7) : Desc :=
  { z := z,
    word := packD14B0 z 0x76C00000 d b,
    uses := [.s d.toNat 1 true, .s b.toNat 1 false] }

/-- The operands of LAUNCH (R349). -/
def descLaunch (z : Bool) (d : BitVec 7) (a : BitVec 7) : Desc :=
  { z := z,
    word := packD14A7 z 0x76E00000 d a,
    uses := [.s d.toNat 1 true, .s a.toNat 1 false] }

/-- The operands of WEAVE (R216). -/
def descWeave (z : Bool) (d : BitVec 7) (a : BitVec 7) (n : BitVec 2) : Desc :=
  { z := z,
    word := packD14A7N0 z 0x78000000 d a n,
    uses := [.v d.toNat 1 true, .v a.toNat 2 false],
    covered := true }

/-- The operands of WDRAFT (R216). -/
def descWdraft (z : Bool) (n : BitVec 2) (a : BitVec 7) : Desc :=
  { z := z,
    word := packN14A7 z 0x78200000 n a,
    uses := [.v a.toNat 1 false],
    covered := true }

/-- The operands of SHFL (R216). -/
def descShfl (z : Bool) (d : BitVec 7) (a : BitVec 7) (b : BitVec 7) : Desc :=
  { z := z,
    word := packD14A7B0 z 0x78400000 d a b,
    uses := [.v d.toNat 1 true, .v a.toNat 1 false, .v b.toNat 1 false],
    covered := true }

/-- The operands of RSUM (R254). -/
def descRsum (z : Bool) (d : BitVec 7) (a : BitVec 7) (t : BitVec 1) : Desc :=
  { z := z,
    word := packD14A7T0 z 0x78600000 d a t,
    uses := [.s d.toNat 1 true, .v a.toNat 1 false],
    covered := true,
    alu := .sum }

/-- The operands of RMIN (R253). -/
def descRmin (z : Bool) (d : BitVec 7) (a : BitVec 7) (t : BitVec 2) : Desc :=
  { z := z,
    word := packD14A7T0W7_7_2 z 0x78800000 d a t,
    uses := [.s d.toNat 1 true, .v a.toNat 1 false],
    codeOk := t.toNat ≠ 3,
    covered := true,
    alu := .order }

/-- The operands of RMAX (R253). -/
def descRmax (z : Bool) (d : BitVec 7) (a : BitVec 7) (t : BitVec 2) : Desc :=
  { z := z,
    word := packD14A7T0W7_7_2 z 0x78A00000 d a t,
    uses := [.s d.toNat 1 true, .v a.toNat 1 false],
    codeOk := t.toNat ≠ 3,
    covered := true,
    alu := .order }

/-- The operands of ARGMIN (R253). -/
def descArgmin (z : Bool) (d : BitVec 7) (a : BitVec 7) (t : BitVec 2) : Desc :=
  { z := z,
    word := packD14A7T0W7_7_2 z 0x78C00000 d a t,
    uses := [.s d.toNat 1 true, .v a.toNat 1 false],
    codeOk := t.toNat ≠ 3,
    covered := true,
    alu := .order }

/-- The operands of ARGMAX (R253). -/
def descArgmax (z : Bool) (d : BitVec 7) (a : BitVec 7) (t : BitVec 2) : Desc :=
  { z := z,
    word := packD14A7T0W7_7_2 z 0x78E00000 d a t,
    uses := [.s d.toNat 1 true, .v a.toNat 1 false],
    codeOk := t.toNat ≠ 3,
    covered := true,
    alu := .order }

/-- The operands of SCAN (R255). -/
def descScan (z : Bool) (d : BitVec 7) (a : BitVec 7) (t : BitVec 1) : Desc :=
  { z := z,
    word := packD14A7T0 z 0x79000000 d a t,
    uses := [.v d.toNat 1 true, .v a.toNat 1 false],
    covered := true,
    alu := .scan }

/-- The operands of PKX (R214). -/
def descPkx (z : Bool) (d : BitVec 7) (a : BitVec 7) (g : BitVec 3) : Desc :=
  { z := z,
    word := packD14A7G0 z 0x79200000 d a g,
    uses := [.v d.toNat 1 true, .v d.toNat 1 false, .v a.toNat 1 false],
    covered := true,
    pairs := some (g.toNat, [2]) }

/-- The operands of PKI (R214). -/
def descPki (z : Bool) (d : BitVec 7) (a : BitVec 7) (g : BitVec 3) : Desc :=
  { z := z,
    word := packD14A7G0 z 0x79400000 d a g,
    uses := [.v d.toNat 1 true, .v d.toNat 1 false, .v a.toNat 2 false],
    covered := true,
    pairs := some (g.toNat, [0, 1]) }

/-- The operands of ALSET (R205). -/
def descAlset (z : Bool) (g : BitVec 3) (a : BitVec 7) : Desc :=
  { z := z,
    word := packG14A7 z 0x79600000 g a,
    uses := [.s a.toNat 1 false],
    covered := true }

/-- The operands of ALGET (R205). -/
def descAlget (z : Bool) (d : BitVec 7) (g : BitVec 3) : Desc :=
  { z := z,
    word := packD14G7 z 0x79800000 d g,
    uses := [.s d.toNat 1 true],
    covered := true }

/-- The operands of RAND (R364). -/
def descRand (z : Bool) (d : BitVec 7) (a : BitVec 7) (b : BitVec 7) : Desc :=
  { z := z,
    word := packD14A7B0 z 0x7A000000 d a b,
    uses := [.v d.toNat 1 true, .s a.toNat 8 false, .v b.toNat 2 false] }

/-- The operands of FXSPLIT (R365). -/
def descFxsplit (z : Bool) (d : BitVec 7) (a : BitVec 7) : Desc :=
  { z := z,
    word := packD14A7 z 0x7A200000 d a,
    uses := [.v d.toNat 4 true, .v a.toNat 1 false] }

/-- The operands of FXJOIN (R366). -/
def descFxjoin (z : Bool) (d : BitVec 7) (a : BitVec 7) (o : BitVec 7) : Desc :=
  { z := z,
    word := packD14A7O0 z 0x7A400000 d a o,
    uses := [.s d.toNat 1 true, .v a.toNat 2 false],
    codeOk := o.toNat ≤ 5 || o.toNat = 7 }

/-- The operands of CRC (R367). -/
def descCrc (z : Bool) (d : BitVec 7) (a : BitVec 7) (b : BitVec 7) : Desc :=
  { z := z,
    word := packD14A7B0 z 0x7A600000 d a b,
    uses := [.s d.toNat 1 true, .s d.toNat 1 false, .s a.toNat 1 false, .s b.toNat 1 false] }

/-- The operands of CLK (R368). -/
def descClk (z : Bool) (d : BitVec 7) (b : BitVec 7) : Desc :=
  { z := z,
    word := packD14B0 z 0x7A800000 d b,
    uses := [.s d.toNat 1 true, .s b.toNat 1 false] }

/-- The operands of ERET (R378). -/
def descEret (z : Bool) : Desc :=
  { z := z,
    word := pack z 0x7E000000,
    uses := [],
    priv := true }

/-- The operands of GRD (R379). -/
def descGrd (z : Bool) (d : BitVec 7) (a : BitVec 7) : Desc :=
  { z := z,
    word := packD14A7 z 0x7E200000 d a,
    uses := [.s d.toNat 1 true, .s a.toNat 1 false],
    priv := true }

/-- The operands of GWR (R379). -/
def descGwr (z : Bool) (a : BitVec 7) (b : BitVec 7) : Desc :=
  { z := z,
    word := packA7B0 z 0x7E400000 a b,
    uses := [.s a.toNat 1 false, .s b.toNat 1 false],
    priv := true }

/-- The operands of GRES (R378). -/
def descGres (z : Bool) (a : BitVec 7) : Desc :=
  { z := z,
    word := packA7 z 0x7E600000 a,
    uses := [.s a.toNat 1 false],
    priv := true }

/-- The operands of GKILL (R378). -/
def descGkill (z : Bool) (a : BitVec 7) (b : BitVec 7) : Desc :=
  { z := z,
    word := packA7B0 z 0x7E800000 a b,
    uses := [.s a.toNat 1 false, .s b.toNat 1 false],
    priv := true }

/-- The operands of TQPOP (R380). -/
def descTqpop (z : Bool) (d : BitVec 7) (a : BitVec 7) (b : BitVec 7) : Desc :=
  { z := z,
    word := packD14A7B0 z 0x7EA00000 d a b,
    uses := [.s d.toNat 1 true, .s a.toNat 1 false, .s b.toNat 1 false],
    priv := true }

/-- The operands of XSET (R381). -/
def descXset (z : Bool) (a : BitVec 7) (b : BitVec 7) : Desc :=
  { z := z,
    word := packA7B0 z 0x7EC00000 a b,
    uses := [.s a.toNat 1 false, .s b.toNat 2 false],
    priv := true }

/-- The operands of CKPT (R386). -/
def descCkpt (z : Bool) (d : BitVec 7) (a : BitVec 7) (b : BitVec 7) : Desc :=
  { z := z,
    word := packD14A7B0 z 0x7EE00000 d a b,
    uses := [.s d.toNat 1 true, .s a.toNat 1 false, .s b.toNat 1 false],
    priv := true }

/-- The description of an instruction word; none for an event of the module. -/
def desc : Instr → Option Desc
  | .add z d a b => some (descAdd z d a b)
  | .sub z d a b => some (descSub z d a b)
  | .and z d a b => some (descAnd z d a b)
  | .or z d a b => some (descOr z d a b)
  | .xor z d a b => some (descXor z d a b)
  | .shl z d a b => some (descShl z d a b)
  | .shr z d a b => some (descShr z d a b)
  | .sra z d a b => some (descSra z d a b)
  | .mul z d a b => some (descMul z d a b)
  | .mulh z d a b => some (descMulh z d a b)
  | .mulhn z d a b => some (descMulhn z d a b)
  | .min z d a b => some (descMin z d a b)
  | .max z d a b => some (descMax z d a b)
  | .minn z d a b => some (descMinn z d a b)
  | .maxn z d a b => some (descMaxn z d a b)
  | .andn z d a b => some (descAndn z d a b)
  | .slt z d a b => some (descSlt z d a b)
  | .sltn z d a b => some (descSltn z d a b)
  | .seq z d a b => some (descSeq z d a b)
  | .clz z d a => some (descClz z d a)
  | .popc z d a => some (descPopc z d a)
  | .brev z d a => some (descBrev z d a)
  | .rotl z d a b => some (descRotl z d a b)
  | .bfx z d a b => some (descBfx z d a b)
  | .bfi z d a b => some (descBfi z d a b)
  | .div z d a b => some (descDiv z d a b)
  | .divn z d a b => some (descDivn z d a b)
  | .rem z d a b => some (descRem z d a b)
  | .remn z d a b => some (descRemn z d a b)
  | .csel z d a b => some (descCsel z d a b)
  | .addw z d a b => some (descAddw z d a b)
  | .addi z d a i => some (descAddi z d a i)
  | .andi z d a i => some (descAndi z d a i)
  | .ori z d a i => some (descOri z d a i)
  | .xori z d a i => some (descXori z d a i)
  | .shli z d a n => some (descShli z d a n)
  | .shri z d a n => some (descShri z d a n)
  | .srai z d a n => some (descSrai z d a n)
  | .rotli z d a n => some (descRotli z d a n)
  | .slti z d a i => some (descSlti z d a i)
  | .li z d i => some (descLi z d i)
  | .lis z d i => some (descLis z d i)
  | .gets z d i => some (descGets z d i)
  | .sets z a i => some (descSets z a i)
  | .xlt z a n => some (descXlt z a n)
  | .setsXsp z a n => some (descSetsXsp z a n)
  | .win z a i => some (descWin z a i)
  | .bruEqz z a i => some (descBruEqz z a i)
  | .bruNez z a i => some (descBruNez z a i)
  | .bruLtz z a i => some (descBruLtz z a i)
  | .bruGez z a i => some (descBruGez z a i)
  | .bruGtz z a i => some (descBruGtz z a i)
  | .bruLez z a i => some (descBruLez z a i)
  | .bruAlw z i => some (descBruAlw z i)
  | .brdSet z a i => some (descBrdSet z a i)
  | .brdClr z a i => some (descBrdClr z a i)
  | .jmp z i => some (descJmp z i)
  | .call z i => some (descCall z i)
  | .nop z => some (descNop z)
  | .ret z => some (descRet z)
  | .jr z a => some (descJr z a)
  | .callr z a => some (descCallr z a)
  | .join z => some (descJoin z)
  | .exit z => some (descExit z)
  | .yield z => some (descYield z)
  | .brk z => some (descBrk z)
  | .trap z d a i => some (descTrap z d a i)
  | .vadd z d a b => some (descVadd z d a b)
  | .vsub z d a b => some (descVsub z d a b)
  | .vmul z d a b => some (descVmul z d a b)
  | .vmulh z d a b => some (descVmulh z d a b)
  | .vmulhn z d a b => some (descVmulhn z d a b)
  | .vmad z d a b => some (descVmad z d a b)
  | .vmin z d a b => some (descVmin z d a b)
  | .vmax z d a b => some (descVmax z d a b)
  | .vminn z d a b => some (descVminn z d a b)
  | .vmaxn z d a b => some (descVmaxn z d a b)
  | .vabs z d a => some (descVabs z d a)
  | .vneg z d a => some (descVneg z d a)
  | .vand z d a b => some (descVand z d a b)
  | .vor z d a b => some (descVor z d a b)
  | .vxor z d a b => some (descVxor z d a b)
  | .vandn z d a b => some (descVandn z d a b)
  | .vshl z d a b => some (descVshl z d a b)
  | .vshr z d a b => some (descVshr z d a b)
  | .vsra z d a b => some (descVsra z d a b)
  | .vrotl z d a b => some (descVrotl z d a b)
  | .vclz z d a => some (descVclz z d a)
  | .vpopc z d a => some (descVpopc z d a)
  | .vbrev z d a => some (descVbrev z d a)
  | .vbfx z d a b => some (descVbfx z d a b)
  | .vbfi z d a b => some (descVbfi z d a b)
  | .vadds z d a b => some (descVadds z d a b)
  | .vsubs z d a b => some (descVsubs z d a b)
  | .vaddsn z d a b => some (descVaddsn z d a b)
  | .vsubsn z d a b => some (descVsubsn z d a b)
  | .vsel z d a m => some (descVsel z d a m)
  | .vsplat z d a => some (descVsplat z d a)
  | .vlane z d => some (descVlane z d)
  | .vaddi z d a i => some (descVaddi z d a i)
  | .vshli z d a n => some (descVshli z d a n)
  | .vshri z d a n => some (descVshri z d a n)
  | .vsrai z d a n => some (descVsrai z d a n)
  | .vrotli z d a n => some (descVrotli z d a n)
  | .ceq z d a b => some (descCeq z d a b)
  | .cne z d a b => some (descCne z d a b)
  | .clt z d a b => some (descClt z d a b)
  | .cle z d a b => some (descCle z d a b)
  | .cltn z d a b => some (descCltn z d a b)
  | .clen z d a b => some (descClen z d a b)
  | .feq z d a b => some (descFeq z d a b)
  | .flt z d a b => some (descFlt z d a b)
  | .fle z d a b => some (descFle z d a b)
  | .fun z d a b => some (descFun z d a b)
  | .tlt z d a b => some (descTlt z d a b)
  | .tle z d a b => some (descTle z d a b)
  | .teq z d a b => some (descTeq z d a b)
  | .mand z d a b => some (descMand z d a b)
  | .mor z d a b => some (descMor z d a b)
  | .mxor z d a b => some (descMxor z d a b)
  | .mandn z d a b => some (descMandn z d a b)
  | .mnot z d a => some (descMnot z d a)
  | .mmov z d a => some (descMmov z d a)
  | .mpop z d a => some (descMpop z d a)
  | .mfirst z d a => some (descMfirst z d a)
  | .mtos z d a => some (descMtos z d a)
  | .stom z d a => some (descStom z d a)
  | .mset z d => some (descMset z d)
  | .fadd z d a b => some (descFadd z d a b)
  | .fsub z d a b => some (descFsub z d a b)
  | .fmul z d a b => some (descFmul z d a b)
  | .fma z d a b => some (descFma z d a b)
  | .fms z d a b => some (descFms z d a b)
  | .fnma z d a b => some (descFnma z d a b)
  | .fmin z d a b => some (descFmin z d a b)
  | .fmax z d a b => some (descFmax z d a b)
  | .fmini z d a b => some (descFmini z d a b)
  | .fmaxi z d a b => some (descFmaxi z d a b)
  | .fabs z d a => some (descFabs z d a)
  | .fneg z d a => some (descFneg z d a)
  | .fcps z d a b => some (descFcps z d a b)
  | .frint z d a => some (descFrint z d a)
  | .fscl z d a b => some (descFscl z d a b)
  | .fclass z d a => some (descFclass z d a)
  | .fcvt z r d a c => some (descFcvt z r d a c)
  | .fdiv z l d a b => some (descFdiv z l d a b)
  | .vtrSqrt z l d a => some (descVtrSqrt z l d a)
  | .vtrRcp z l d a => some (descVtrRcp z l d a)
  | .vtrRsq z l d a => some (descVtrRsq z l d a)
  | .vtrExp2 z l d a => some (descVtrExp2 z l d a)
  | .vtrLog2 z l d a => some (descVtrLog2 z l d a)
  | .vtrExp z l d a => some (descVtrExp z l d a)
  | .vtrTanh z l d a => some (descVtrTanh z l d a)
  | .vtrSin z l d a => some (descVtrSin z l d a)
  | .vtrCos z l d a => some (descVtrCos z l d a)
  | .ld z l d a x w h => some (descLd z l d a x w h)
  | .st z l d a x w h => some (descSt z l d a x w h)
  | .lds z l d a x w h => some (descLds z l d a x w h)
  | .sts z l d a x w h => some (descSts z l d a x w h)
  | .ldp z l d a p w h => some (descLdp z l d a p w h)
  | .stp z l d a p w h => some (descStp z l d a p w h)
  | .pkld z l d a x g h => some (descPkld z l d a x g h)
  | .pkst z l d a x g h => some (descPkst z l d a x g h)
  | .atomAdd z w l d a x => some (descAtomAdd z w l d a x)
  | .atomAnd z w l d a x => some (descAtomAnd z w l d a x)
  | .atomOr z w l d a x => some (descAtomOr z w l d a x)
  | .atomXor z w l d a x => some (descAtomXor z w l d a x)
  | .atomMin z w l d a x => some (descAtomMin z w l d a x)
  | .atomMax z w l d a x => some (descAtomMax z w l d a x)
  | .atomMinn z w l d a x => some (descAtomMinn z w l d a x)
  | .atomMaxn z w l d a x => some (descAtomMaxn z w l d a x)
  | .atomXchg z w l d a x => some (descAtomXchg z w l d a x)
  | .atomInc z w l d a x => some (descAtomInc z w l d a x)
  | .atomDec z w l d a x => some (descAtomDec z w l d a x)
  | .atomFadd z l d a x => some (descAtomFadd z l d a x)
  | .redAdd z w l d a x => some (descRedAdd z w l d a x)
  | .redAnd z w l d a x => some (descRedAnd z w l d a x)
  | .redOr z w l d a x => some (descRedOr z w l d a x)
  | .redXor z w l d a x => some (descRedXor z w l d a x)
  | .redMin z w l d a x => some (descRedMin z w l d a x)
  | .redMax z w l d a x => some (descRedMax z w l d a x)
  | .redMinn z w l d a x => some (descRedMinn z w l d a x)
  | .redMaxn z w l d a x => some (descRedMaxn z w l d a x)
  | .redXchg z w l d a x => some (descRedXchg z w l d a x)
  | .redInc z w l d a x => some (descRedInc z w l d a x)
  | .redDec z w l d a x => some (descRedDec z w l d a x)
  | .redFadd z l d a x => some (descRedFadd z l d a x)
  | .cas z l d a x w h => some (descCas z l d a x w h)
  | .waitcEq z d a x t => some (descWaitcEq z d a x t)
  | .waitcNe z d a x t => some (descWaitcNe z d a x t)
  | .waitcLt z d a x t => some (descWaitcLt z d a x t)
  | .waitcGe z d a x t => some (descWaitcGe z d a x t)
  | .waitcLtn z d a x t => some (descWaitcLtn z d a x t)
  | .waitcGen z d a x t => some (descWaitcGen z d a x t)
  | .waitcAny z d a x t => some (descWaitcAny z d a x t)
  | .copy z l d a b => some (descCopy z l d a b)
  | .cwait z d a b => some (descCwait z d a b)
  | .cstat z d b => some (descCstat z d b)
  | .publish z a => some (descPublish z a)
  | .shadow z d a b => some (descShadow z d a b)
  | .fence z k => some (descFence z k)
  | .clean z v a b => some (descClean z v a b)
  | .inval z v a b => some (descInval z v a b)
  | .clinv z v a b => some (descClinv z v a b)
  | .mbatch z d => some (descMbatch z d)
  | .mwait z a => some (descMwait z a)
  | .mbx z d a b => some (descMbx z d a b)
  | .msq z d a b => some (descMsq z d a b)
  | .twr z t r k v i => some (descTwr z t r k v i)
  | .trd z t r k v i => some (descTrd z t r k v i)
  | .mloop z d a b => some (descMloop z d a b)
  | .had z d a b => some (descHad z d a b)
  | .qnt z d a b => some (descQnt z d a b)
  | .tdrDiff z d a => some (descTdrDiff z d a)
  | .tdrCanc z d a => some (descTdrCanc z d a)
  | .tdrAgree z d a => some (descTdrAgree z d a)
  | .tdrRaw z d a => some (descTdrRaw z d a)
  | .tzero z d => some (descTzero z d)
  | .tcopy z d a => some (descTcopy z d a)
  | .tstat z d a b => some (descTstat z d a b)
  | .tsets z d a b => some (descTsets z d a b)
  | .kvld z l d a b => some (descKvld z l d a b)
  | .kvapp z d a b => some (descKvapp z d a b)
  | .kvfork z d a b => some (descKvfork z d a b)
  | .kvtrim z d a => some (descKvtrim z d a)
  | .kvq z d a b => some (descKvq z d a b)
  | .kvpin z a => some (descKvpin z a)
  | .kvunpin z a => some (descKvunpin z a)
  | .pass z d a => some (descPass z d a)
  | .take z d a => some (descTake z d a)
  | .query z d => some (descQuery z d)
  | .bar z => some (descBar z)
  | .gbar z a => some (descGbar z a)
  | .arrive z d a => some (descArrive z d a)
  | .await z a b => some (descAwait z a b)
  | .tokw z => some (descTokw z)
  | .tokp z => some (descTokp z)
  | .tickq z d b => some (descTickq z d b)
  | .launch z d a => some (descLaunch z d a)
  | .weave z d a n => some (descWeave z d a n)
  | .wdraft z n a => some (descWdraft z n a)
  | .shfl z d a b => some (descShfl z d a b)
  | .rsum z d a t => some (descRsum z d a t)
  | .rmin z d a t => some (descRmin z d a t)
  | .rmax z d a t => some (descRmax z d a t)
  | .argmin z d a t => some (descArgmin z d a t)
  | .argmax z d a t => some (descArgmax z d a t)
  | .scan z d a t => some (descScan z d a t)
  | .pkx z d a g => some (descPkx z d a g)
  | .pki z d a g => some (descPki z d a g)
  | .alset z g a => some (descAlset z g a)
  | .alget z d g => some (descAlget z d g)
  | .rand z d a b => some (descRand z d a b)
  | .fxsplit z d a => some (descFxsplit z d a)
  | .fxjoin z d a o => some (descFxjoin z d a o)
  | .crc z d a b => some (descCrc z d a b)
  | .clk z d b => some (descClk z d b)
  | .eret z => some (descEret z)
  | .grd z d a => some (descGrd z d a)
  | .gwr z a b => some (descGwr z a b)
  | .gres z a => some (descGres z a)
  | .gkill z a b => some (descGkill z a b)
  | .tqpop z d a b => some (descTqpop z d a b)
  | .xset z a b => some (descXset z a b)
  | .ckpt z d a b => some (descCkpt z d a b)
  | .walkComplete _ _ => none
  | .runAheadEnd _ => none
  | .prgResponse _ _ _ => none
  | .atsTranslationCompletion _ _ _ _ _ _ _ _ => none
  | .atsInvalidateRequest _ _ _ _ => none
  | .invalidationComplete _ _ => none
  | .stage2FaultResolved _ _ _ => none
  | .kvInvalidation _ _ _ => none
  | .frameGrant _ _ _ => none
  | .refillRetry _ _ => none
  | .refillDeferred _ _ => none
  | .cooperFillRequest _ _ => none
  | .cooperWritebackRequest _ => none
  | .cooperLpddrFillDone _ _ => none
  | .cooperIndexRelease _ _ => none
  | .cooperReady => none
  | .replicatedStore _ _ _ _ => none
  | .replicaAck _ _ _ => none
  | .l2FillRequest _ _ => none
  | .l2FillDone _ _ => none
  | .l1Writeback _ _ _ => none
  | .flitTransferReceive _ _ _ _ _ => none
  | .monitorWake _ _ => none
  | .waitcPoll _ _ => none
  | .waitcTimeout _ _ => none
  | .waitcRemotePoll _ _ => none
  | .updateCopyRecall _ => none
  | .copyStart _ _ _ => none
  | .copyElementWritten _ _ _ => none
  | .stackSpill _ => none
  | .stackFill _ => none
  | .matrixInstructionStart _ _ _ => none
  | .matrixKStepComplete _ _ _ => none
  | .peerAccessArrival _ _ _ _ _ => none
  | .cxlMemAccess _ _ _ _ _ => none
  | .cxlCacheInvalidation _ _ _ _ => none
  | .abortCompletion _ => none
  | .launchRecordStart _ => none
  | .dispatchRangeHandout _ _ => none
  | .dispatchRangeSplit _ _ _ _ => none
  | .blockPlace _ _ _ _ => none
  | .gangPlace _ _ _ _ => none
  | .preempt _ _ => none
  | .preemptSpill _ _ => none
  | .compactCore _ _ => none
  | .unitRetire _ _ => none
  | .leaderElection _ _ => none
  | .runIssue _ _ _ => none
  | .stagedListRelease _ => none
  | .handlerEntry _ _ _ => none
  | .handlerAbandon _ _ _ => none
  | .lqtailWrite _ _ _ => none
  | .scheadWrite _ _ => none
  | .sctag _ _ => none
  | .tqpopid _ => none
  | .tqres _ _ => none
  | .tqabn _ _ => none
  | .invctlGo _ _ => none
  | .registerWrite _ _ _ => none
  | .monitorLatch _ _ => none
  | .monitorClear _ _ => none
  | .monitorSample _ _ _ => none
  | .partitionReconfigure _ => none
  | .powerOnBoot _ _ _ => none
  | .getMeasurements => none
  | .challenge _ => none
  | .dieFence _ => none
  | .dieReturn _ => none
  | .hbmRowSpare _ _ _ => none
  | .firmwareUpdate _ => none
  | .thermalThrottle => none
  | .cxlLinkError _ => none
  | .peerLinkFailure _ => none
  | .illegalInstructionWord _ => none
  | .kvFaultResolved _ _ _ => none
  | .cooperLpddrWriteDone _ _ => none
  | .remoteAccessResponse _ => none
  | .matrixInstructionComplete _ _ _ => none
  | .launchCancel _ => none
  | .machineCheckClear _ => none
  | .checkpointRestore _ _ _ => none
  | .powerOff => none

end Sys2Proof.Machine
end

