-- ==== Sys2Proof/Machine/Block.lean ====
section
/-! DEFINITION. Block compression: what a slice's network interface sends for a block, and what a receiver rebuilds (R157 to
R160). -/

namespace Sys2Proof.Machine

/-! ## Bit strings (R157, R158) -/

/-- The low n bits of a number, most significant first. -/
def msb : Nat → Nat → List Bool
  | 0, _ => []
  | n + 1, v => v.testBit n :: msb n v

/-- A number of n bits from the head of a string, most significant first, and the rest. -/
def takeBits : Nat → List Bool → Option (Nat × List Bool)
  | 0, l => some (0, l)
  | _ + 1, [] => none
  | n + 1, b :: l =>
    match takeBits n l with
    | none => none
    | some (v, l) => some (b01 b * 2 ^ n + v, l)

/-- The bits of bytes: bit k is at position 7 − k mod 8 of byte k div 8 (R158). -/
def bitsOf (l : List Byte) : List Bool := l.flatMap fun b => msb 8 b.toNat

/-- The bytes of a string: the last one is filled with zeros (R158). -/
def packBits : Nat → List Bool → List Byte
  | 0, _ => []
  | n + 1, l =>
    match l with
    | [] => []
    | l => BitVec.ofNat 8 ((List.range 8).foldl (fun v k => 2 * v + b01 (l.getD k false)) 0) :: packBits n (l.drop 8)

/-! ## The dictionary (R157) -/

/-- The dictionary: 16 entries and the one that the next word enters. -/
structure FDict where
  e : List (Option Nat) := List.replicate 16 none
  p : Nat := 0
  deriving DecidableEq, Repr, Inhabited

/-- Entry i. -/
def FDict.get (d : FDict) (i : Nat) : Option Nat := d.e.getD i none

/-- The least filled entry whose bits from k up are those of a word. -/
def FDict.find (d : FDict) (k x : Nat) : Option Nat :=
  (List.range 16).find? fun i => match d.get i with
    | none => false
    | some y => y / 2 ^ k == x / 2 ^ k

/-- A word enters the dictionary. -/
def FDict.put (d : FDict) (x : Nat) : FDict := { e := d.e.set d.p (some x), p := (d.p + 1) % 16 }

/-- The code of a word and the dictionary after it (R157). -/
def encodeWord (d : FDict) (x : Nat) : List Bool × FDict :=
  if x = 0 then (msb 2 0, d)
  else
    match d.find 0 x with
    | some i => (msb 2 1 ++ msb 4 i, d)
    | none =>
      match d.find 8 x with
      | some i => (msb 2 2 ++ msb 4 i ++ msb 8 x, d.put x)
      | none =>
        match d.find 16 x with
        | some i => (msb 3 6 ++ msb 4 i ++ msb 16 x, d.put x)
        | none => (msb 3 7 ++ msb 32 x, d.put x)

/-- The string of a block (R157). -/
def encodeWords (d : FDict) : List Nat → List Bool
  | [] => []
  | x :: r => let y := encodeWord d x; y.1 ++ encodeWords y.2 r

/-- One word from the head of a string; none when it is malformed (R160). -/
def decodeWord (d : FDict) (l : List Bool) : Option (Nat × FDict × List Bool) :=
  match takeBits 2 l with
  | none => none
  | some (c, l) =>
    if c = 0 then some (0, d, l)
    else if c = 1 then
      match takeBits 4 l with
      | none => none
      | some (i, l) => match d.get i with
        | none => none
        | some x => some (x, d, l)
    else
      let partial_ (k : Nat) (l : List Bool) : Option (Nat × FDict × List Bool) :=
        match takeBits 4 l with
        | none => none
        | some (i, l) =>
          match d.get i, takeBits k l with
          | some y, some (v, l) =>
            let x := y / 2 ^ k * 2 ^ k + v
            if x = 0 then none else some (x, d.put x, l)
          | _, _ => none
      if c = 2 then partial_ 8 l
      else
        match l with
        | [] => none
        | false :: l => partial_ 16 l
        | true :: l =>
          match takeBits 32 l with
          | none => none
          | some (x, l) => if x = 0 then none else some (x, d.put x, l)

/-- n words from a string; none when it is malformed or not used up (R160). -/
def decodeWords : Nat → FDict → List Bool → Option (List Nat)
  | 0, _, l => if l.isEmpty then some [] else none
  | n + 1, d, l =>
    match decodeWord d l with
    | none => none
    | some (x, d, l) => (decodeWords n d l).map (x :: ·)

/-- The words of a block, little-endian. -/
def wordsOf : Nat → List Byte → List Nat
  | 0, _ => []
  | n + 1, l => loadN ((List.range 4).zip (l.take 4)) 0 4 :: wordsOf n (l.drop 4)

/-- What a slice sends for a block: its header and payload (R157 to R159). -/
def sendBlock (big : Bool) (block : List Byte) : Nat × List Byte :=
  let n := if big then 64 else 16
  let l := encodeWords {} (wordsOf n block)
  if ceilDiv l.length 8 < 4 * n then (b01 big * 2 ^ 14 + l.length, packBits l.length l) else (2 ^ 15 + b01 big * 2 ^ 14, block)

/-- Only what a slice sends to a core's L1 miss unit goes in blocks of 64 bytes; a tile fetch and a transfer between slices go in
blocks of 256 (R155). A copy channel reads by the tile fetch unit's path (log entry 57). -/
def bigBlock : Taker → Bool
  | .l1 _ => false
  | _ => true

/-- The block that a receiver rebuilds; none for a malformed one (R160). A payload of another length than the header gives is
malformed too: the rule's list does not name it, and this is the model's choice (log entry 57). -/
def receiveBlock (hdr : Nat) (payload : List Byte) : Option (List Byte) :=
  let n := if bit hdr 14 then 64 else 16
  let k := bits hdr 0 12
  if bits hdr 12 2 ≠ 0 then none
  else if bit hdr 15 then if k ≠ 0 || payload.length ≠ 4 * n then none else some payload
  else if 4 * n ≤ ceilDiv k 8 || payload.length ≠ ceilDiv k 8 then none
  else
    let l := bitsOf payload
    if (l.drop k).any id then none
    else (decodeWords n {} (l.take k)).map fun ws => ws.flatMap fun x => (List.range 4).map fun i => BitVec.ofNat 8 (x / 256 ^ i)

end Sys2Proof.Machine
end

