-- ==== Sys2Proof/Machine/Regs.lean ====
section
/-! DEFINITION. Where each piece of state lives: reading and changing cores, quadrants, dies, partitions, launches,
blocks, groups and the registers of a bank, and the geometry of a launch (R60, R317, R322). -/

namespace Sys2Proof.Machine

/-! ## Parts of the module -/

/-- A core of a die (R20). -/
def State.core (s : State) (die core : Nat) : Core := mget {} s.cores (256 * die + core)

/-- Changes a core. -/
def State.modCore (s : State) (die core : Nat) (f : Core → Core) : State :=
  { s with cores := mset {} s.cores (256 * die + core) (f (s.core die core)) }

/-- A quadrant of a core. -/
def Core.quad (c : Core) (q : Nat) : Quad := mget {} c.quads q

/-- A quadrant. -/
def State.quad (s : State) (die core q : Nat) : Quad := (s.core die core).quad q

/-- Changes a quadrant. -/
def State.modQuad (s : State) (die core q : Nat) (f : Quad → Quad) : State :=
  s.modCore die core fun c => { c with quads := mset {} c.quads q (f (c.quad q)) }

/-- A compute die. -/
def State.die (s : State) (d : Nat) : Die := mget {} s.dies d

/-- Changes a compute die. -/
def State.modDie (s : State) (d : Nat) (f : Die → Die) : State := { s with dies := mset {} s.dies d (f (s.die d)) }

/-- A partition. -/
def State.part (s : State) (p : Nat) : Part := mget {} s.parts p

/-- Changes a partition. -/
def State.modPart (s : State) (p : Nat) (f : Part → Part) : State :=
  { s with parts := mset {} s.parts p (f (s.part p)) }

/-- The key of a launch: identifiers are unique within a partition (R56). -/
def launchKey (part id : Nat) : Nat := 8 * id + part

/-- A launch, by its key. -/
def State.launch? (s : State) (k : Nat) : Option Launch := alook s.launches k

/-- A launch, or one without levels. -/
def State.launch (s : State) (k : Nat) : Launch := (s.launch? k).getD { part := k % 8, id := k / 8, record := [] }

/-- Changes a launch. -/
def State.modLaunch (s : State) (k : Nat) (f : Launch → Launch) : State := { s with launches := amod k f s.launches }

/-- A block. -/
def State.block? (s : State) (b : BId) : Option Block := alook s.blocks b

/-- A block, or an empty one. -/
def State.block (s : State) (b : BId) : Block := (s.block? b).getD {}

/-- Changes a block. -/
def State.modBlock (s : State) (b : BId) (f : Block → Block) : State := { s with blocks := amod b f s.blocks }

/-- A group. -/
def State.grp? (s : State) (g : GId) : Option Grp := alook s.groups g

/-- A group, or an empty one. -/
def State.grp (s : State) (g : GId) : Grp := (s.grp? g).getD {}

/-- Changes a group. -/
def State.modGrp (s : State) (g : GId) (f : Grp → Grp) : State := { s with groups := amod g f s.groups }

/-- The block of a group; the handler's reserved slot belongs to none (R374). -/
def bidOf : GId → BId
  | .grp l b _ => ⟨l, b⟩
  | .hdl _ _ _ => ⟨0, 0⟩

/-- Whether this is a handler context. -/
def isHdl : GId → Bool
  | .hdl _ _ _ => true
  | .grp _ _ _ => false

/-- The groups of a block. -/
def State.groupsOf (s : State) (b : BId) : List (GId × Grp) := s.groups.filter fun e => !isHdl e.1 && bidOf e.1 == b

/-! ## The geometry of a launch -/

/-- Bits of a doubleword of the launch record (R317). -/
def Launch.field (l : Launch) (dw lo n : Nat) : Nat := bits (l.record.getD dw 0).toNat lo n

/-- The level count (R317). -/
def Launch.nlevels (l : Launch) : Nat := l.field 5 0 4
/-- The priority. -/
def Launch.prio (l : Launch) : Nat := l.field 5 34 2
/-- Whether the launch may be pre-empted. -/
def Launch.pre (l : Launch) : Bool := l.field 5 33 1 == 1
/-- Whether the launch runs in checked issue (R235). -/
def Launch.chk (l : Launch) : Bool := l.field 5 32 1 == 1
/-- The determinism grade (R350). -/
def Launch.grade (l : Launch) : Nat := l.field 5 30 2
/-- The relaunch limit. -/
def Launch.rlim (l : Launch) : Nat := l.field 5 16 8
/-- The context number. -/
def Launch.ctxNo (l : Launch) : Nat := l.field 5 40 12
/-- Tile registers per block. -/
def Launch.tiles (l : Launch) : Nat := l.field 6 40 5
/-- The vector allocation A of each group (R34). -/
def Launch.valloc (l : Launch) : Nat := 8 * l.field 6 32 6
/-- Cores that one gang occupies. -/
def Launch.gspread (l : Launch) : Nat := l.field 6 24 4
/-- Scratchpad bytes per block, S. -/
def Launch.scratch (l : Launch) : Nat := l.field 6 0 20

/-- The extent of level n as the record gives it (R317). -/
def Launch.ext (l : Launch) (n : Nat) : Nat := l.field (8 + (n - 1) / 2) (32 * ((n - 1) % 2)) 32

/-- The scope and domain bound to level n, from 2 (R317). -/
def Launch.scopeOf (l : Launch) (n : Nat) : Nat := l.field 7 (8 * (n - 2) + 5) 3
/-- The domain bound to level n: 0 core, 1 gang, 2 die, 3 package. -/
def Launch.domainOf (l : Launch) (n : Nat) : Nat := l.field 7 (8 * (n - 2)) 2

/-- Whether a level is bound to the gang domain; it stands directly above the core level (R318). -/
def Launch.hasGang (l : Launch) : Bool := decide (4 ≤ l.nlevels) && l.domainOf 3 == 1

/-- Groups of a block (R318). -/
def Launch.groupsPerBlock (l : Launch) : Nat := if l.nlevels ≤ 2 then 1 else l.ext 1

/-- Blocks of a gang, 1 without a gang level (R171, R318). -/
def Launch.gangSize (l : Launch) : Nat := if l.hasGang then l.ext 2 else 1

/-- Blocks of the launch. -/
def Launch.blocks (l : Launch) : Nat :=
  if l.nlevels ≤ 2 then l.ext 1
  else ((List.range (l.nlevels - 2)).map fun i => l.ext (i + 2)).foldl (· * ·) 1

/-- Dispatch units: gangs, or blocks (R324). -/
def Launch.units (l : Launch) : Nat := l.blocks / l.gangSize

/-- Groups of the launch (R322). -/
def Launch.groups (l : Launch) : Nat := l.blocks * l.groupsPerBlock

/-- The unit of a block. -/
def Launch.unitOf (l : Launch) (flat : Nat) : Nat := flat / l.gangSize

/-- The blocks of a unit. -/
def Launch.blocksOf (l : Launch) (unit : Nat) : List Nat := upFrom (unit * l.gangSize) l.gangSize

/-- The flat number G of a group (R322). -/
def Launch.flatG (l : Launch) (block idx : Nat) : Nat := block * l.groupsPerBlock + idx

/-- The flat number of the level-n unit that holds group G, from level 1 (R60). -/
def Launch.levelFlat (l : Launch) (G : Nat) : Nat → Nat
  | 0 => G
  | 1 => G
  | n + 2 => l.levelFlat G (n + 1) / l.ext (n + 1)

/-- idx n of group G (R60). -/
def Launch.idx (l : Launch) (G n : Nat) : Nat :=
  if n = 0 then 0
  else if l.nlevels ≤ n then 0
  else if n + 1 = l.nlevels then l.levelFlat G n
  else l.levelFlat G n % l.ext n

/-- ext n as GETS reads it (R60). -/
def Launch.extent (l : Launch) (n : Nat) : Nat :=
  if n = 0 then 64 else if l.nlevels ≤ n then 1 else l.ext n

/-! ## Banks -/

/-- A PC slot of a bank. -/
def Bank.slot (b : Bank) : SlotId → Slot
  | .a => b.slotA
  | .b => b.slotB

/-- Changes a PC slot. -/
def Bank.modSlot (b : Bank) (sl : SlotId) (f : Slot → Slot) : Bank :=
  match sl with
  | .a => { b with slotA := f b.slotA }
  | .b => { b with slotB := f b.slotB }

/-- The other slot. -/
def otherSlot : SlotId → SlotId
  | .a => .b
  | .b => .a

/-- A slot is empty when it holds no lane (R332). -/
def Slot.empty (x : Slot) : Bool := x.lanes == 0

/-- Scalar register n; s0 reads zero (R32). -/
def Bank.getS (b : Bank) (n : Nat) : W64 := if n = 0 then 0 else mget 0 b.s n

/-- Writes scalar register n; a write to s0 is discarded (R32). -/
def Bank.setS (b : Bank) (n : Nat) (v : W64) : Bank := if n = 0 then b else { b with s := mset 0 b.s n v }

/-- Mask register n (R193). -/
def Bank.getM (b : Bank) (n : Nat) : W64 := mget 0 b.m n

/-- Writes mask register n. -/
def Bank.setM (b : Bank) (n : Nat) (v : W64) : Bank := { b with m := mset 0 b.m n v }

/-- Translation register n (R63). -/
def Bank.getX (b : Bank) (n : Nat) : XReg := mget {} b.x n

/-- Writes translation register n. -/
def Bank.setX (b : Bank) (n : Nat) (x : XReg) : Bank := { b with x := mset {} b.x n x }

/-- The physical register that a vector name means: windowed below 120, anchored from 120 (R34). -/
def physOf (wb name : Nat) : Nat := if name < 120 then wb + name else name - 120

/-- Lane l of physical vector register p. -/
def Bank.getP (b : Bank) (p l : Nat) : W32 := mget 0 b.v (64 * p + l)

/-- Writes lane l of physical vector register p. -/
def Bank.setP (b : Bank) (p l : Nat) (v : W32) : Bank := { b with v := mset 0 b.v (64 * p + l) v }

/-- Lane l of vector name n, through the window (R34, R48). -/
def Bank.getV (b : Bank) (n l : Nat) : W32 := b.getP (physOf b.wb n) l

/-- A 64-bit element of an aligned pair: the low half in the lower name (R193). -/
def Bank.getV2 (b : Bank) (n l : Nat) : W64 := b.getV (n + 1) l ++ b.getV n l

/-- Writes the given lanes of vector name n by a function of the lane; the others are left alone (R49). -/
def Bank.setV (b : Bank) (n : Nat) (lanes : List Nat) (f : Nat → W32) : Bank :=
  lanes.foldl (fun b l => b.setP (physOf b.wb n) l (f l)) b

/-- Writes the given lanes of an aligned pair (R193). -/
def Bank.setV2 (b : Bank) (n : Nat) (lanes : List Nat) (f : Nat → W64) : Bank :=
  (b.setV n lanes fun l => (f l).setWidth 32).setV (n + 1) lanes fun l => (f l).extractLsb' 32 32

/-- Changes a group's bank. -/
def State.modBank (s : State) (g : GId) (f : Bank → Bank) : State := s.modGrp g fun r => { r with b := f r.b }

/-- Changes a slot of a group. -/
def State.modSlot (s : State) (g : GId) (sl : SlotId) (f : Slot → Slot) : State :=
  s.modBank g fun b => b.modSlot sl f

/-! ## Blocks' registers -/

/-- The reset value of an alphabet register: bytes, one symbol a container (R200). -/
def alReset : W64 := 0x00FF020000000000

/-- Alphabet register n of a block (R200). -/
def Block.getAl (b : Block) (n : Nat) : W64 := mget alReset b.al n

/-- Writes an alphabet register. -/
def Block.setAl (b : Block) (n : Nat) (v : W64) : Block := { b with al := mset alReset b.al n v }

/-- Entry l of draft n; the identity's by default (R215). -/
def Block.draft (b : Block) (n l : Nat) : BitVec 8 := (mget none b.drafts (64 * n + l)).getD (BitVec.ofNat 8 l)

/-- Writes an entry of a draft. -/
def Block.setDraft (b : Block) (n l : Nat) (v : BitVec 8) : Block :=
  { b with drafts := mset none b.drafts (64 * n + l) (if v = BitVec.ofNat 8 l then none else some v) }

/-- Element (i, j) of tile t (R195). -/
def Block.getT (b : Block) (t i j : Nat) : W32 := mget 0 b.tile (4096 * t + 64 * i + j)

/-- Writes an element of a tile. -/
def Block.setT (b : Block) (t i j : Nat) (v : W32) : Block :=
  { b with tile := mset 0 b.tile (4096 * t + 64 * i + j) v }

/-- The count of element (i, j) of tile t. -/
def Block.getC (b : Block) (t i j : Nat) : BitVec 16 := mget 0 b.cnt (4096 * t + 64 * i + j)

/-- Writes a count. -/
def Block.setC (b : Block) (t i j : Nat) (v : BitVec 16) : Block :=
  { b with cnt := mset 0 b.cnt (4096 * t + 64 * i + j) v }

/-- Writes every element of a tile. -/
def Block.putT (b : Block) (t : Nat) (f : Nat → Nat → W32) : Block :=
  let new := (List.range 4096).filterMap fun k =>
    let v := f (k / 64) (k % 64)
    if v = 0 then none else some (4096 * t + k, v)
  { b with tile := mcopy new b.tile (4096 * t) 4096 }

/-- Writes every count of a tile. -/
def Block.putC (b : Block) (t : Nat) (f : Nat → Nat → BitVec 16) : Block :=
  let new := (List.range 4096).filterMap fun k =>
    let v := f (k / 64) (k % 64)
    if v = 0 then none else some (4096 * t + k, v)
  { b with cnt := mcopy new b.cnt (4096 * t) 4096 }

/-- Every element of a tile reads 0 (R280). -/
def Block.zeroT (b : Block) (t : Nat) : Block := { b with tile := mclear b.tile (4096 * t) 4096 }

/-- Every count of a tile reads 0. -/
def Block.zeroC (b : Block) (t : Nat) : Block := { b with cnt := mclear b.cnt (4096 * t) 4096 }

/-- The settings of a tile (R279). -/
def Block.getTs (b : Block) (t : Nat) : TSet := mget {} b.tset t

/-- Changes the settings of a tile. -/
def Block.modTs (b : Block) (t : Nat) (f : TSet → TSet) : Block := { b with tset := mset {} b.tset t (f (b.getTs t)) }

/-- The QNT statistics of a block on a quadrant (R278). -/
def Block.getQs (b : Block) (q : Nat) : QStat := mget {} b.qst q

/-- Changes the QNT statistics. -/
def Block.modQs (b : Block) (q : Nat) (f : QStat → QStat) : Block := { b with qst := mset {} b.qst q (f (b.getQs q)) }

/-- A block's counters and error state of a channel (R181). -/
def Block.ch (b : Block) (c : Nat) : Chan := mget {} b.chs c

/-- Changes them. -/
def Block.modCh (b : Block) (c : Nat) (f : Chan → Chan) : Block := { b with chs := mset {} b.chs c (f (b.ch c)) }

/-! ## Who asks -/

/-- Who makes an access: the group, its core and die, its partition, and the translation context (R78, R374). -/
structure Req where
  g : GId
  die : Nat
  core : Nat
  part : Nat
  asid : Nat := 0
  pasid : Nat := 0
  hosten : Bool := false
  root : Nat := 0
  ctxNo : Nat := 0
  deriving DecidableEq, Repr, Inhabited

/-- The die and core that hold a block. -/
def Block.at? (b : Block) : Option (Nat × Nat) :=
  match b.place with
  | .core d c => some (d, c)
  | _ => none

/-- The partition that owns a compute die, or 0 (R393). -/
def State.partOfDie (s : State) (d : Nat) : Nat :=
  ((List.range 8).find? fun p => (s.part p).dies.contains d).getD 0

/-- The requester that a group is (R78); the handler uses its own context (R374). A group whose block is on no core has
die number 8. -/
def State.reqOf (s : State) (g : GId) : Req :=
  match g with
  | .grp l b _ =>
    let la := s.launch l
    let at_ := (s.block ⟨l, b⟩).at?.getD (8, 0)
    { g := g, die := at_.1, core := at_.2, part := la.part, asid := la.asid, pasid := la.pasid,
      hosten := la.hosten, root := la.root, ctxNo := la.ctxNo }
  | .hdl d c _ =>
    let p := s.partOfDie d
    let h := (s.part p).handler
    { g := g, die := d, core := c, part := p, asid := h.asid, pasid := h.pasid, hosten := h.hosten, root := h.root }

/-! ## READY -/

/-- A bit of READY (R395). -/
def State.readyBit (s : State) (n : Nat) : Bool := s.ready.toNat.testBit n

/-- Compute die d may be used. -/
def State.dieReady (s : State) (d : Nat) : Bool := s.readyBit (2 + d)

/-- Units may be placed on a die: it is ready, and the Chandler is not fencing it (R324, R397). -/
def State.dieOpen (s : State) (d : Nat) : Bool := s.dieReady d && !s.fencing.contains d

end Sys2Proof.Machine
end

