-- ==== Sys2Proof/Machine/Flags.lean ====
section
/-! DEFINITION. Conditions and sticky flags. The scalar pipe has no flags (R53); what the spec gives instead are the
conditions of branches, comparisons and waits, and the block's sticky invalid-code flags. -/

namespace Sys2Proof.Machine

/-- The conditions of BRU, codes 0 to 6 (R337). -/
inductive BCond where
  | eqz | nez | ltz | gez | gtz | lez | alw
  deriving DecidableEq, Repr, Inhabited

/-- Whether a BRU condition holds for s(a) as a signed value (R337). -/
def BCond.holds : BCond → W64 → Bool
  | .eqz, x => x == 0
  | .nez, x => x != 0
  | .ltz, x => x.slt 0
  | .gez, x => !x.slt 0
  | .gtz, x => (0 : W64).slt x
  | .lez, x => !(0 : W64).slt x
  | .alw, _ => true

/-- Whether a WAITC condition is met by element e and comparand c (R306). -/
def condMet (k : WCond) (e c : W64) : Bool :=
  match k with
  | .eq => e == c
  | .ne => e != c
  | .lt => e.slt c
  | .ge => !e.slt c
  | .ltn => e.ult c
  | .gen => !e.ult c
  | .any => (e &&& c) != 0

/-- The comparisons of VCMP, codes 0 to 12 (R243). -/
inductive VCond where
  | ceq | cne | clt | cle | cltn | clen | feq | flt | fle | fun_ | tlt | tle | teq
  deriving DecidableEq, Repr, Inhabited

/-- Whether a VCMP condition holds (R243, R231). -/
def VCond.holds : VCond → W32 → W32 → Bool
  | .ceq, a, b => a == b
  | .cne, a, b => a != b
  | .clt, a, b => a.slt b
  | .cle, a, b => a.sle b
  | .cltn, a, b => a.ult b
  | .clen, a, b => a.ule b
  | .feq, a, b => Machine.feq a b
  | .flt, a, b => Machine.flt a b
  | .fle, a, b => Machine.fle a b
  | .fun_, a, b => isNaN a || isNaN b
  | .tlt, a, b => decide (totalKey a < totalKey b)
  | .tle, a, b => decide (totalKey a ≤ totalKey b)
  | .teq, a, b => a == b

/-- Sets the sticky invalid-code flag of alphabet n (R58, R50). -/
def Block.flagAl (b : Block) (n : Nat) : Block := { b with alflags := b.alflags ||| BitVec.ofNat 8 (2 ^ n) }

/-- A SETS of alflags clears each bit that is 1 in the value written (R58). -/
def Block.clearAl (b : Block) (v : W64) : Block := { b with alflags := b.alflags &&& ~~~(v.setWidth 8) }

end Sys2Proof.Machine
end

