-- ==== Sys2Proof/Machine/Mem.lean ====
section
/-! DEFINITION. The memory system: the address map, homes, the Cooper, L2 and L1 lines, condition monitors,
update-only copies, accesses beyond the package (R8 to R19, R132 to R168, R293 to R304).

`State.mem` is what a load inside the package returns: the one order of R293 is the order in which the accesses of the
model's steps change it. The layers below it say what would remain if the copies above were discarded. Lines in L1s and
L2s are tags: which bytes are newer than the layer below (log entry 2). -/

namespace Sys2Proof.Machine

/-! ## The address map (R132, R133) -/

/-- What a physical address names (R132). -/
inductive Region where
  | hbm (die off : Nat)
  | regs (off : Nat)
  | lpddr (n off : Nat)
  | host (hpa : Nat)
  | peer (m off : Nat)
  | hole
  deriving DecidableEq, Repr, Inhabited

/-- The physical address map (R132). -/
def region (pa : Nat) : Region :=
  if pa < 2 ^ 41 then .hbm (pa / 2 ^ 38) (pa % 2 ^ 38)
  else if pa < 2 ^ 42 then .regs (pa - 2 ^ 41)
  else if pa < 2 ^ 43 then .lpddr ((pa - 2 ^ 42) / 2 ^ 39) ((pa - 2 ^ 42) % 2 ^ 39)
  else if pa < 2 ^ 50 then .hole
  else if pa < 2 ^ 51 then .host (pa - 2 ^ 50)
  else if pa < 2 ^ 52 then .peer ((pa - 2 ^ 51) / 2 ^ 45) ((pa - 2 ^ 51) % 2 ^ 45)
  else .hole

/-- The address of a region's HBM window (R132). -/
def hbmAddr (die off : Nat) : Nat := die * 2 ^ 38 + off

/-- Whether an address lies in the host or load-store domain range (R297). -/
def isRemote (pa : Nat) : Bool := decide (2 ^ 50 ≤ pa)

/-- The destination of R297: 0 for the host, 1 + m for module m. -/
def remoteDest (pa : Nat) : Nat :=
  match region pa with
  | .peer m _ => 1 + m
  | _ => 0

/-- The bytes of a die's Cooper share (R136). -/
def State.shareBytes (s : State) : Nat := s.cfg.share * 2 ^ 30

/-- The READY bit of the stack that holds an offset of a die's HBM window (R133, R395). -/
def hbmBit (die off : Nat) : Nat := 10 + 3 * die + off / 4096 % 3

/-- The peer ports of a partition (R393). -/
def State.ownPort (s : State) (part n : Nat) : Bool :=
  decide (24 * part / s.cfg.nparts ≤ n) && decide (n < 24 * (part + 1) / s.cfg.nparts)

/-- Whether some port of the partition that the route to module m names is up (R392, R393, R395). -/
def State.routeUp (s : State) (part m : Nat) : Bool :=
  (List.range 24).any fun n => (mget 0 s.cfg.routes m).testBit n && s.ownPort part n && s.readyBit (35 + n)

/-- The partition that owns the store of an address (R133, R134). -/
def State.ownerOf (s : State) (pa : Nat) : Nat :=
  match region pa with
  | .hbm d _ => s.partOfDie d
  | .lpddr n _ => s.partOfDie n
  | _ => 0

/-- A request to the module's memory ends with an abort completion. -/
def State.answerAbort (s : State) : State := { s with outbox := s.outbox ++ [Answer.abort] }

/-- An interrupt to the Chandler, or to the Chandler and the host. -/
def State.interrupt (s : State) (i : Irq) : State := { s with irqs := s.irqs ++ [i] }

/-! ## Homes (R137, R148, R149) -/

/-- Where an LPDDR address lies in the Cooper of a partition (R137). -/
structure CoopPos where
  n : Nat
  index : Nat
  tag : Nat
  die : Nat
  slot : Nat
  deriving DecidableEq, Repr, Inhabited

/-- The number of sectors of a partition's cache (R136). -/
def State.coopSectors (s : State) (part : Nat) : Nat := (s.part part).dies.length * s.cfg.share * 2 ^ 19

/-- Index, tag, die and slot of an LPDDR address (R137). -/
def State.coopPos (s : State) (part pa : Nat) : CoopPos :=
  let p := s.part part
  let nd := p.dies.length
  let n := (pa - 2 ^ 42) / 2048
  let N := s.coopSectors part
  let i := n % N
  { n := n, index := i, tag := n / N, die := p.dies.getD (i % nd) 0, slot := i / nd }

/-- The home die of an address for a partition (R148). -/
def State.homeDie (s : State) (part pa : Nat) : Nat :=
  match region pa with
  | .hbm d _ => d
  | .lpddr _ _ => (s.coopPos part pa).die
  | _ => let p := s.part part; p.dies.getD (pa / 256 % p.dies.length) 0

/-- A die's compute die and its HBM stacks are ready: the functions that serve the LPDDR lines whose home slices and Cooper sectors
the die holds; which stack holds a sector is not given, and a die's bits come and go together (R137, R148, R395, R397; log entry 16). -/
def State.dieServes (s : State) (d : Nat) : Bool := s.readyBit (2 + d) && (upFrom (10 + 3 * d) 3).all s.readyBit

/-- Whether an access of a partition to an address reaches a store, or ends with an abort completion
(R133, R392, R395). The module registers are no store (log entry 21). -/
def State.reach (s : State) (part pa : Nat) : Bool :=
  match region pa with
  | .hbm d off =>
    decide (off + s.shareBytes < 192000000000) && (s.part part).dies.contains d && s.readyBit (2 + d) && s.readyBit (hbmBit d off)
  | .lpddr n _ => (s.part part).dies.contains n && s.readyBit 34 && s.dieServes (s.coopPos part pa).die
  | .host _ => s.readyBit 1
  | .peer m off => decide (m ≠ s.cfg.domain) && decide (off < 2 ^ 43) && s.routeUp part m
  | .regs _ => false
  | .hole => false

/-- The home slice within the die (R149). -/
def sliceOf (pa : Nat) : Nat :=
  let l := pa / 256
  bits l 0 7 ^^^ bits l 7 7 ^^^ bits l 14 7 ^^^ bits l 21 7 ^^^ bits l 28 7 ^^^ bits l 35 7 ^^^ bits l 42 2

/-- A slice's number in the package (R149). -/
def sliceNo (die pa : Nat) : Nat := die * 128 + sliceOf pa

/-- The set within the slice (R149). -/
def l2Set (pa : Nat) : Nat := bits (pa / 256) 7 8

/-! ## Transfers over the on-chip network (R155) -/

/-- A transfer that is never compressed: a request, store data, a write-back, reduction operands, traffic to the host or a peer. -/
def State.plain (s : State) (bytes : Nat) : State := { s with fabric := s.fabric ++ [.plain bytes (ceilDiv bytes 32)] }

/-- The home slice of an address sends what its line holds to the unit that asked: a header flit, and the data flits of 32 bytes
that the payload takes (R149, R155, R159). -/
def State.sendLine (s : State) (part : Nat) (taker : Taker) (pa : Nat) : State :=
  let n := if bigBlock taker then 256 else 64
  let r := sendBlock (bigBlock taker) (bytesAt s.mem (pa / n * n) n)
  { s with fabric := s.fabric ++
      [.block (sliceNo (s.homeDie part pa) pa) taker (BitVec.ofNat 16 r.1) r.2 (ceilDiv r.2.length 32)] }

/-! ## Accesses and their outcomes -/

/-- The outcome of an access: its value and the state after it, an abort completion, or a wait. -/
inductive Acc where
  | ok (v : Nat) (s : State)
  | abort (s : State)
  | wait (w : Wait)
  deriving DecidableEq, Repr, Inhabited

/-- Continues after an access. -/
def Acc.bind (a : Acc) (f : Nat → State → Acc) : Acc :=
  match a with
  | .ok v s => f v s
  | .abort s => .abort s
  | .wait w => .wait w

/-- Accesses one after another. -/
def accAll {α : Type} (f : α → State → Acc) (l : List α) (s : State) : Acc :=
  l.foldl (fun (a : Acc) x => a.bind fun _ s => f x s) (.ok 0 s)

/-- The state after an access, or another when it waits. -/
def Acc.state (a : Acc) (s : State) : State :=
  match a with
  | .ok _ s => s
  | .abort s => s
  | .wait _ => s

/-! ## Lines of the L1s and L2s (R150, R151) -/

/-- The L2 line of an address on a die. -/
def Die.l2Find (d : Die) (line : Nat) : Option L2Line := d.l2.find? fun l => l.line == line

/-- Changes an L2 line. -/
def Die.l2Mod (d : Die) (line : Nat) (f : L2Line → L2Line) : Die :=
  { d with l2 := d.l2.map fun l => if l.line = line then f l else l }

/-- The L1 line of a core. -/
def Core.l1Find (c : Core) (line : Nat) : Option L1Line := c.l1.find? fun l => l.line == line

/-- Changes or drops an L1 line. -/
def Core.l1Mod (c : Core) (line : Nat) (f : L1Line → Option L1Line) : Core :=
  { c with l1 := c.l1.filterMap fun l => if l.line = line then f l else some l }

/-- A 256-byte line reads as the layer that still holds it: the Cooper or HBM where the L2 no longer holds it, the home
slice where no L1 does. -/
def State.lineFromBelow (s : State) (part line : Nat) : State :=
  let die := s.homeDie part (256 * line)
  let s := if ((s.die die).l2Find line).isSome then s else
    State.modDie { s with l2m := mcopy s.low s.l2m (256 * line) 256 } die fun d =>
      { d with lost := d.lost.filter fun k => k / 4 != line }
  (List.range 4).foldl
    (fun s k =>
      if s.cores.any fun e => (e.2.l1Find (4 * line + k)).isSome then s
      else { s with mem := mcopy s.l2m s.mem (64 * (4 * line + k)) 64 })
    s

/-! ## Errors in HBM bursts (R138, R142, R383) -/

/-- What an error of a number of symbols in a burst does: corrected, detected, or open (R138). -/
inductive Ecc where
  | corrected | detected | open_
  deriving DecidableEq, Repr, Inhabited

/-- The symbol code of the carve-out corrects one symbol and detects two; outside, two and three to six (R138). -/
def eccOf (carveOut : Bool) (sym : Nat) : Ecc :=
  if carveOut then if sym ≤ 1 then .corrected else if sym = 2 then .detected else .open_
  else if sym ≤ 2 then .corrected
  else if sym ≤ 6 then .detected
  else .open_

/-- A corrected error is counted by the monitor of its die (R387, R396). -/
def State.corrected (s : State) (die sym : Nat) : State :=
  if sym = 0 then s else s.modDie die fun d => { d with corrected := d.corrected + 1 }

/-- Whether an error is handled as uncorrectable; beyond what the code detects this is open (R138; log entry 15). -/
def State.eccBad (s : State) (carveOut : Bool) (sym : Nat) : State × Bool :=
  match eccOf carveOut sym with
  | .corrected => (s, false)
  | .detected => (s, true)
  | .open_ => ({ s with free := s.free + 1 }, Config.burstDetected s.free)

/-- Whether an error that is not handled as uncorrectable has changed the data (R138). -/
def eccPasses (carveOut : Bool) (sym : Nat) : Bool := eccOf carveOut sym == .open_

/-- The 64 bytes of a burst pass on as data with no report (R138; log entry 15). -/
def State.burstPass (s : State) (part pa : Nat) : State :=
  let a := pa / 64 * 64
  let put := (List.range 64).foldl (fun m i => mset 0 m (a + i) (Config.burstByte s.free (a + i))) s.low
  { s with low := put, free := s.free + 1 }.lineFromBelow part (a / 256)

/-- One burst is read with a number of wrong symbols: corrected and counted, passed on, or not correctable (R138). -/
def State.burstRead (s : State) (carveOut : Bool) (part die pa sym : Nat) : State × Bool :=
  let r := s.eccBad carveOut sym
  if r.2 then r
  else (if eccPasses carveOut sym then r.1.burstPass part pa else r.1.corrected die sym, false)

/-- The damaged bursts of a line in HBM: address, wrong symbols. -/
def State.lineDamage (s : State) (pa : Nat) : List (Nat × Nat) :=
  match region pa with
  | .hbm d off => ((s.die d).damage.filter fun e => e.1 / 4 == off / 256).map fun e => (hbmAddr d (64 * e.1), e.2)
  | _ => []

/-- The fill of a line reads its bursts: one that cannot be corrected withholds the line and is reported, and the request
that filled it ends with an abort completion (R138, R383). -/
def State.fillCheck (s : State) (part pa : Nat) : Acc :=
  (s.lineDamage pa).foldl
    (fun a e => a.bind fun _ s =>
      let r := s.burstRead false part (pa / 2 ^ 38) e.1 e.2
      if r.2 then .abort (State.interrupt { r.1 with withheld := r.1.withheld ++ [pa / 256] } (.memoryError (pa / 256)))
      else .ok 0 r.1)
    (.ok 0 s)

/-- Bursts that are written hold what was written (R138). -/
def State.mend (s : State) (lo n : Nat) : State :=
  match region lo with
  | .hbm d off => s.modDie d fun x => { x with damage := x.damage.filter fun e => !(decide (64 * e.1 < off + n) && decide (off < 64 * e.1 + 64)) }
  | _ => s

/-! ## The Cooper (R138 to R142) -/

/-- A sector's state (R138). -/
def State.sector (s : State) (die slot : Nat) : Sector := mget {} (s.die die).cooper slot

/-- Writes a sector's state. -/
def State.setSector (s : State) (die slot : Nat) (x : Sector) : State :=
  s.modDie die fun d => { d with cooper := mset {} d.cooper slot x }

/-- The LPDDR address of a sector number. -/
def sectorAddr (n : Nat) : Nat := 2 ^ 42 + n * 2048

/-- Performs a sector's write to LPDDR. -/
def State.lpddrWrite (s : State) (n : Nat) : State := { s with lpd := mcopy s.low s.lpd (sectorAddr n) 2048 }

/-- Performs the writes on their way that match (R140). -/
def State.coopWritesDone (s : State) (die : Nat) (f : CoopWrite → Bool) : State :=
  let ws := (s.die die).coopWrites
  ((ws.filter f).foldl (fun s w => s.lpddrWrite w.sector) s).modDie die fun d =>
    { d with coopWrites := ws.filter fun w => !f w }

/-- Completes a fill from LPDDR: every write of the sector on its way is performed first (R140). -/
def State.coopFillDone (s : State) (part die slot sector : Nat) : State :=
  let s := s.coopWritesDone die fun w => w.sector == sector
  let s := { s with low := mcopy s.lpd s.low (sectorAddr sector) 2048 }
  let s := s.setSector die slot { tag := sector / s.coopSectors part, v := true, d := false }
  s.modDie die fun d =>
    { d with
      coopFills := d.coopFills.filter fun f => f.slot != slot
      coopDamage := d.coopDamage.filter fun e => e.1 / 32 != slot }

/-- Starts a fill: the victim goes to its buffer, and a dirty one on its way to LPDDR (R139). -/
def State.coopFillStart (s : State) (part : Nat) (p : CoopPos) : State :=
  let x := s.sector p.die p.slot
  let victim := x.tag * s.coopSectors part + p.index
  let s := if x.v && x.d then
      s.modDie p.die fun d => { d with coopWrites := d.coopWrites ++ [{ slot := p.slot, sector := victim }] }
    else s
  (s.setSector p.die p.slot {}).modDie p.die fun d =>
    { d with coopFills := d.coopFills ++ [{ slot := p.slot, sector := p.n }] }

/-- Whether the sector of an address is held (R139). -/
def State.coopHit (s : State) (p : CoopPos) : Bool :=
  let x := s.sector p.die p.slot
  x.v && x.tag == p.tag

/-- A fill of a slot is in progress. -/
def State.coopBusy (s : State) (p : CoopPos) : Bool := (s.die p.die).coopFills.any fun f => f.slot == p.slot

/-- The blocked slots of the HBM controller that holds a slot; a die has three (R8, R142; log entry 16). -/
def State.blockedWith (s : State) (die slot : Nat) : List Nat :=
  (s.die die).blocked.filter fun x => Config.coopController die x % 3 == Config.coopController die slot % 3

/-- An HBM controller blocks a Cooper index; a 17th is a machine check, with which the partition's launches halt
(R142, R422). -/
def State.blockIndex (s : State) (part die slot : Nat) : State :=
  if (s.die die).blocked.contains slot then s
  else if (s.blockedWith die slot).length < 16 then s.modDie die fun d => { d with blocked := d.blocked ++ [slot] }
  else s.modPart part fun p => { p with mcheck := some 11 }

/-- An uncorrectable error in a carve-out burst: the clean sector is dropped, or the index blocked (R142). -/
def State.coopError (s : State) (part : Nat) (p : CoopPos) (burst : Nat) : State :=
  let s := s.interrupt (.cooperError p.die p.slot)
  let x := s.sector p.die p.slot
  if burst ≠ 0 && x.v && !x.d then s.setSector p.die p.slot { x with v := false }
  else s.blockIndex part p.die p.slot

/-- The bursts of a slot that a request reads: the state in burst 0, and the line of a hit or the whole of a dirty victim
(R138, R139). -/
def State.coopReads (s : State) (p : CoopPos) (pa : Nat) (wb : Bool) : List Nat :=
  if s.coopHit p then 0 :: (if wb then [] else upFrom (pa % 2048 / 256 * 4) 4)
  else if (s.sector p.die p.slot).v && (s.sector p.die p.slot).d then List.range 32
  else [0]

/-- The errors that a request meets: those of the damaged bursts that it reads, and one that its own burst is read with. -/
def State.coopErrors (s : State) (p : CoopPos) (pa : Nat) (wb : Bool) (sym : Nat) : List (Nat × Nat) :=
  let reads := s.coopReads p pa wb
  (((s.die p.die).coopDamage.filter fun e => e.1 / 32 == p.slot).map fun e => (e.1 % 32, e.2)).filter (fun e => reads.contains e.1) ++
    if sym ≠ 0 && reads.contains (pa / 64 % 32) then [(pa / 64 % 32, sym)] else []

/-- The bursts are read: the first that cannot be corrected ends the request (R138, R142). -/
def State.coopCheck (s : State) (part : Nat) (p : CoopPos) (held : Nat) : List (Nat × Nat) → Acc
  | [] => .ok 0 s
  | e :: r =>
    let x := s.burstRead true part p.die (sectorAddr held + 64 * e.1) e.2
    if x.2 then .abort (x.1.coopError part p e.1) else x.1.coopCheck part p held r

/-- The Cooper serves a request while no fill of its index is in progress: an abort completion at a blocked index or at an
error, a hit, or a miss, whose fill starts and, with `done`, ends (R139, R142). -/
def State.coopServe (s : State) (part pa : Nat) (wb : Bool) (sym : Nat) (done : Bool) : Acc :=
  let p := s.coopPos part pa
  if (s.die p.die).blocked.contains p.slot then .abort s
  else
    let held := (s.sector p.die p.slot).tag * s.coopSectors part + p.index
    (s.coopCheck part p held (s.coopErrors p pa wb sym)).bind fun _ s =>
      if s.coopHit p then .ok 0 s
      else
        let s := s.coopFillStart part p
        .ok 0 (if done then s.coopFillDone part p.die p.slot p.n else s)

/-- The 64 bytes of a write-back go into their sector (R139). -/
def State.coopPut (s : State) (part pa : Nat) : State :=
  let p := s.coopPos part pa
  let s := { s with low := mcopy s.l2m s.low pa 64 }
  (s.setSector p.die p.slot { s.sector p.die p.slot with d := true }).modDie p.die fun d =>
    { d with
      coopDamage := d.coopDamage.filter fun e => e.1 != 32 * p.slot + pa / 64 % 32 && e.1 != 32 * p.slot
      lost := d.lost.filter (· != pa / 64) }

/-- A write-back of 64 bytes to the Cooper, and whether it was performed; at a blocked index it is dropped with its abort
completion (R139, R142). -/
def State.coopWriteback (s : State) (part pa : Nat) : State × Bool :=
  match s.coopServe part pa true 0 true with
  | .ok _ s => (s.coopPut part pa, true)
  | .abort s => (s, false)
  | .wait _ => (s, false)

/-- A request that waited behind a fill is served; a write-back whose sector of the line is no longer dirty has been
performed by another (R139, R140). -/
def State.coopWaited (s : State) (part : Nat) (r : CoopReq) (done : Bool) : State :=
  if !r.wb then
    match s.coopServe part r.pa false r.sym done with
    | .ok _ s => s
    | .abort s => s.answerAbort
    | .wait _ => s
  else
    let die := s.homeDie part r.pa
    match (s.die die).l2Find (r.pa / 256) with
    | none => s
    | some l =>
      if !l.dirty.testBit (r.pa / 64 % 4) then s
      else
        let w := s.coopWriteback part (r.pa / 64 * 64)
        if w.2 then w.1.modDie die fun d => d.l2Mod (r.pa / 256) fun l => { l with dirty := l.dirty ^^^ 2 ^ (r.pa / 64 % 4) }
        else w.1.answerAbort

/-- The requests that waited behind a fill that is done, in their order; behind a new fill the rest waits again (R140). -/
def State.coopServeWaited (s : State) (part die slot : Nat) : List CoopReq → State
  | [] => s
  | r :: l =>
    if (s.die die).coopFills.any fun f => f.slot == slot then s.modDie die fun d => { d with coopReqs := d.coopReqs ++ r :: l }
    else (s.coopWaited part r false).coopServeWaited part die slot l

/-- Takes the requests that wait for a slot. -/
def State.coopTake (s : State) (die slot : Nat) : State × List CoopReq :=
  (s.modDie die fun d => { d with coopReqs := d.coopReqs.filter fun r => r.slot != slot },
    (s.die die).coopReqs.filter fun r => r.slot == slot)

/-- The fill of an index in progress completes and the requests behind it are served, before a request that came after them
(R140). -/
def State.coopSettle (s : State) (part : Nat) (p : CoopPos) : State :=
  match (s.die p.die).coopFills.find? fun f => f.slot == p.slot with
  | none => s
  | some f =>
    let r := (s.coopFillDone part p.die p.slot f.sector).coopTake p.die p.slot
    r.2.foldl (fun s x => s.coopWaited part x true) r.1

/-- The Cooper holds the sector of an LPDDR address, or the request ends with an abort completion (R139, R142). -/
def State.coopEnsure (s : State) (part pa : Nat) : Acc :=
  (s.coopSettle part (s.coopPos part pa)).coopServe part pa false 0 true

/-- The Cooper has dropped a write-back: its bytes are lost with the L2's line, or at once where the L2 holds none (R139, R142). -/
def State.loseSector (s : State) (part pa : Nat) : State :=
  let die := s.homeDie part pa
  if ((s.die die).l2Find (pa / 256)).isSome then
    s.modDie die fun d => { d with lost := (d.lost.filter (· != pa / 64)) ++ [pa / 64] }
  else s.lineFromBelow part (pa / 256)

/-- A write-back of one 64-byte sector of an L2 line to HBM or the Cooper (R151, R139). -/
def State.sectorWriteback (s : State) (part pa : Nat) : State :=
  match region pa with
  | .lpddr _ _ =>
    let w := (s.coopSettle part (s.coopPos part pa)).coopWriteback part pa
    if w.2 then w.1 else w.1.loseSector part pa
  | _ => State.mend { s with low := mcopy s.l2m s.low pa 64 } pa 64

/-! ## L2 lines (R150 to R154) -/

/-- The rank of a hint: first 0, normal 1, last 2; no-allocate on a hit counts as evict-first (R153). An access without a hint
field counts as normal (log entry 56). -/
def hintRank (h : Nat) : Nat := if h = 0 then 1 else if h = 2 then 2 else 0

/-- Writes the dirty sectors of a line down and clears their marks (R151). -/
def State.l2Clean (s : State) (part die line : Nat) : State :=
  match (s.die die).l2Find line with
  | none => s
  | some l =>
    let s := (List.range 4).foldl
      (fun s k => if l.dirty.testBit k then s.sectorWriteback part (256 * line + 64 * k) else s) s
    s.modDie die fun d => d.l2Mod line fun l => { l with dirty := 0 }

/-- Drops a line. -/
def State.l2Drop (s : State) (die line : Nat) : State :=
  s.modDie die fun d => { d with l2 := d.l2.filter fun l => l.line != line }

/-- The victim of a set: of the lowest class present, the least recently used; a pinned line is never chosen
(R154, R191). Lines stand least recently used first. -/
def victimOf (ls : List L2Line) : Option L2Line :=
  let c := ls.filter fun l => l.pins == 0
  let lo := c.foldl (fun m l => if l.cls < m then l.cls else m) 3
  c.find? fun l => l.cls == lo

/-- Makes room in the set of an address: a set has 16 ways. Bytes of the victim whose write-back the Cooper has dropped are lost
(R139, R142, R149). -/
def State.l2Room (s : State) (part die pa : Nat) : State :=
  let ls := (s.die die).l2.filter fun l => l2Set (256 * l.line) == l2Set pa && sliceOf (256 * l.line) == sliceOf pa
  if ls.length < 16 then s
  else
    match victimOf ls with
    | none => s
    | some v =>
      let s := (s.l2Clean part die v.line).l2Drop die v.line
      if (s.die die).lost.any fun k => k / 4 == v.line then s.lineFromBelow part v.line else s

/-- A line is used: its class rises to the rank of the hint, and it becomes the most recently used (R153). -/
def Die.l2Touch (d : Die) (line h : Nat) : Die :=
  match d.l2Find line with
  | none => d
  | some l =>
    { d with l2 := (d.l2.filter fun x => x.line != line) ++ [{ l with cls := if l.cls < hintRank h then hintRank h else l.cls }] }

/-- The home slice holds the line of an address, or reads it without keeping it for a no-allocate miss; an abort completion
when the line is withheld, its fill fails or its Cooper index is blocked. A fill in progress ends first, and the line then
carries the higher of both hints; the requests that wait for it are served next (R150, R153, R154, R383). -/
def State.l2Ensure (s : State) (part pa h : Nat) : Acc :=
  let line := pa / 256
  let die := s.homeDie part pa
  if s.withheld.contains line then .abort s
  else if ((s.die die).l2Find line).isSome then .ok 0 (s.modDie die fun d => d.l2Touch line h)
  else
    let hs := (((s.die die).l2Fills.filter fun f => f.line == line).map (·.hint) ++ [h]).filter (· ≠ 3)
    (match region pa with
      | .lpddr _ _ => s.coopEnsure part pa
      | _ => s.fillCheck part pa).bind fun _ s =>
      if hs.isEmpty then .ok 0 s
      else
        let s := s.l2Room part die pa
        let l : L2Line := { line := line, cls := hs.foldl (fun m h => max m (hintRank h)) 0 }
        .ok 0 (s.modDie die fun d => { d with l2 := d.l2 ++ [l] })

/-! ## L1 lines (R151, R161, R296) -/

/-- The dirty bytes of an L1 line reach the home slice (R151): the masked bytes of `mem` go to `l2m`. A line that the slice
does not hold is filled first; one that it holds becomes the most recently used (R150, R154). -/
def State.l1Merge (s : State) (part line mask : Nat) : State :=
  if mask = 0 then s
  else
    let a := 64 * line
    let s := s.plain 64
    let die := s.homeDie part a
    let s := if ((s.die die).l2Find (a / 256)).isSome then s.modDie die fun d => d.l2Touch (a / 256) 1 else (s.l2Ensure part a 0).state s
    let put := (List.range 64).foldl
      (fun m i => if mask.testBit i then mset 0 m (a + i) (mget 0 s.mem (a + i)) else m) s.l2m
    State.modDie { s with l2m := put } die fun d => d.l2Mod (a / 256) fun l => { l with dirty := l.dirty ||| 2 ^ (a / 64 % 4) }

/-- Every L1 but that of core `keep` gives up its right to write a line, and its copy when `drop` is set; dirty bytes
are written back first (R161, R296). -/
def State.l1Recall (s : State) (part line : Nat) (keep : Option Nat) (drop : Bool) : State :=
  s.cores.foldl
    (fun s e =>
      if some e.1 = keep then s
      else
        match e.2.l1Find line with
        | none => s
        | some l =>
          let s := s.l1Merge part line l.mask
          s.modCore (e.1 / 256) (e.1 % 256) fun c =>
            c.l1Mod line fun l => if drop then none else some { l with mask := 0, excl := false })
    s

/-- Every L1 that holds a part of an L2 line exclusive gives that part up (R161). -/
def State.l1TakeOut (s : State) (part l2line : Nat) : State :=
  s.cores.foldl
    (fun s e =>
      (e.2.l1.filter fun l => l.line / 4 == l2line && l.excl).foldl
        (fun s l => (s.l1Merge part l.line l.mask).modCore (e.1 / 256) (e.1 % 256) fun c => c.l1Mod l.line fun _ => none) s)
    s

/-- Every L1 gives up the four lines of an L2 line. -/
def State.l1RecallAll (s : State) (part l2line : Nat) (drop : Bool) : State :=
  (List.range 4).foldl (fun s k => s.l1Recall part (4 * l2line + k) none drop) s

/-! ## Condition monitors (R161 to R165) -/

/-- Whether a monitor is armed on the line of an address. -/
def State.monitored (s : State) (pa : Nat) : Bool := s.monitors.any fun m => m.pa / 256 == pa / 256

/-- The 8-byte element at an address. -/
def State.elem (s : State) (pa : Nat) : W64 := BitVec.ofNat 64 (loadN s.mem pa 8)

/-- After a write of n bytes at the slice: the monitors that it satisfies record the value and send their wakes
(R162). -/
def State.monitorWrite (s : State) (pa n : Nat) : State :=
  let hit (m : Mon) : Bool := decide (m.pa < pa + n) && decide (pa < m.pa + 8) && condMet m.c (s.elem m.pa) m.v
  { s with
    monitors := s.monitors.filter fun m => !hit m
    wakes := s.wakes ++ (s.monitors.filter hit).map fun m => { g := m.g, sl := m.sl, v := s.elem m.pa } }

/-- Cancels the monitors and wakes of a group, or of one of its slots (R164, R165). -/
def State.cancelMonitors (s : State) (g : GId) (sl : Option SlotId) : State :=
  let other (g' : GId) (sl' : SlotId) : Bool :=
    g' != g || (match sl with | none => false | some x => sl' != x)
  { s with
    monitors := s.monitors.filter fun m => other m.g m.sl
    wakes := s.wakes.filter fun w => other w.g w.sl }

/-! ## Writes at the home slice -/

/-- Puts n bytes where the home slice holds them: every layer that the slice feeds has them, and the line's sector is dirty
when the slice keeps the line (R151, R161). -/
def State.homePut (s : State) (part pa n v : Nat) : State :=
  let line := pa / 256
  let die := s.homeDie part pa
  let s := s.l1Recall part (pa / 64) none true
  let s := { s with mem := storeN s.mem pa v n, l2m := storeN s.l2m pa v n }
  if ((s.die die).l2Find line).isSome then
    s.modDie die fun d => d.l2Mod line fun l => { l with dirty := l.dirty ||| 2 ^ (pa / 64 % 4) }
  else s.sectorWriteback part (pa / 64 * 64)

/-- Writes n bytes at the home slice, where condition monitors see them (R162). -/
def State.homeWrite (s : State) (part pa n v : Nat) : State := (s.homePut part pa n v).monitorWrite pa n

/-! ## Update-only copies (R166 to R168) -/

/-- Performs one operation on an element at the home slice (R300). -/
def State.homeOp (s : State) (part pa n : Nat) (op : AOp) (v : Nat) : State :=
  s.homeWrite part pa n (aluOp op (8 * n) (loadN s.mem pa n) v)

/-- The elements of a copy with their partial results. An integer operation leaves an element alone where the copy holds its
identity; FADD of −0.0 makes a NaN canonical, so that its elements are all applied (R167, R230). -/
def Upd.elems (u : Upd) : List (Nat × W64) :=
  let n := if u.w64 then 8 else 4
  if u.op = .fadd then
    (List.range (256 / n)).map fun k => (n * k, mget (BitVec.ofNat 64 (identOf u.op (8 * n))) u.parts (n * k))
  else u.parts

/-- Applies a copy's partial results to the home line, element by element (R167). -/
def State.combine (s : State) (part : Nat) (u : Upd) : State :=
  u.elems.foldl (fun s e => s.homeOp part (256 * u.line + e.1) (if u.w64 then 8 else 4) u.op e.2.toNat) s

/-- The home combines the partial results of a line in ascending die order and drops the copies; where the home cannot read
the line they are discarded (R167, R383). -/
def State.recallUpdates (s : State) (part line : Nat) : State :=
  let us := s.updates.filter fun u => u.line == line
  if us.isEmpty then s
  else
    match State.l2Ensure { s with updates := s.updates.filter fun u => u.line != line } part (256 * line) 0 with
    | .ok _ s =>
      (List.range 8).foldl
        (fun s d =>
          match us.find? fun u => u.die == d with
          | none => s
          | some u => s.combine part u)
        s
    | .abort s => s
    | .wait _ => s

/-- Recalls the copies of a line unless all are of this operation and width (R167). -/
def State.recallOthers (s : State) (part line : Nat) (op : AOp) (w64 : Bool) : State :=
  if (s.updates.filter fun u => u.line == line).all fun u => u.op == op && u.w64 == w64 then s
  else s.recallUpdates part line

/-- A RED at an update-only copy of the requester's die; a fifth copy of a set returns the least recently used first
(R166, R168). Copies stand least recently used first. -/
def State.updateRed (s : State) (part die pa n : Nat) (op : AOp) (v : Nat) : State :=
  let line := pa / 256
  let w64 := n == 8
  let s :=
    if s.updates.any fun u => u.die == die && u.line == line then s
    else
      let same := s.updates.filter fun u =>
        u.die == die && l2Set (256 * u.line) == l2Set pa && sliceOf (256 * u.line) == sliceOf pa
      let s := if same.length < 4 then s else
        match same.head? with
        | none => s
        | some u => s.recallUpdates part u.line
      { s with updates := s.updates ++ [{ die := die, line := line, op := op, w64 := w64, parts := [] }] }
  match s.updates.find? fun u => u.die == die && u.line == line with
  | none => s
  | some u =>
    let ident := BitVec.ofNat 64 (identOf op (8 * n))
    let old := mget ident u.parts (pa % 256)
    let new := BitVec.ofNat 64 (aluOp op (8 * n) old.toNat v)
    let u := { u with parts := mset ident u.parts (pa % 256) new }
    { s with updates := (s.updates.filter fun x => !(x.die == die && x.line == line)) ++ [u] }

/-! ## Accesses inside the package -/

/-- Whether a replica of the line has acknowledged a store that is not yet committed (R145). -/
def State.replicaHeld (s : State) (part pa : Nat) : Bool :=
  match region pa with
  | .hbm d off => (s.part part).repl.any fun r => r.off / 256 == off / 256 && r.acks.contains d
  | _ => false

/-- What every access to a line of the package meets first (R133, R145, R167, R383). -/
def State.lineAccess (s : State) (part pa h : Nat) (load : Bool) : Acc :=
  if !s.reach part pa then .abort s
  else if load && s.replicaHeld part pa then .wait (.replica pa)
  else
    let s := s.recallUpdates part (pa / 256)
    s.l2Ensure part pa h

/-- A load of n bytes at the home slice: by a walker, an engine, the host or a peer (R84, R192, R294). -/
def State.homeLoad (s : State) (part pa n : Nat) : Acc :=
  (s.lineAccess part pa 0 true).bind fun _ s => .ok (loadN s.mem pa n) (s.l1Recall part (pa / 64) none false)

/-- A store of n bytes at the home slice. -/
def State.homeStore (s : State) (part pa n v h : Nat) : Acc :=
  ((s.plain n).lineAccess part pa h false).bind fun _ s => .ok 0 (s.homeWrite part pa n v)

/-- A write of n bytes by a unit of the module that has not read the line: the home slice fills it first, and one that ends with an
abort completion writes nothing (R150, R167). -/
def State.unitWrite (s : State) (part pa n v : Nat) : State := (s.homeStore part pa n v 0).state s

/-- The whole line of an address is written at its home slice with what m holds there; monitors see it (R150, R161, R162). -/
def State.linePut (s : State) (part pa : Nat) (m : SMap Byte) : State :=
  let die := s.homeDie part pa
  let s := s.l1RecallAll part (pa / 256) true
  let s : State := { s with mem := mcopy m s.mem pa 256, l2m := mcopy m s.l2m pa 256 }
  (s.modDie die fun d => d.l2Mod (pa / 256) fun l => { l with dirty := 15 }).monitorWrite pa 256

/-- The 64 KiB from a page's base are written, line by line, with what m holds there. -/
def State.pagePut (s : State) (part pa : Nat) (m : SMap Byte) : Acc :=
  accAll (fun k s => (s.lineAccess part (pa + 256 * k) 0 false).bind fun _ s => .ok 0 (s.linePut part (pa + 256 * k) m))
    (List.range 256) s

/-- The 64-byte lines that a core's L1 holds: what P leaves of its 768 KiB (R13, R169). -/
def Core.l1Size (c : Core) : Nat := (786432 - c.p) / 64

/-- The victim of an L1: of the lowest class present, the least recently used (R154). Lines stand least recently used first;
the ways of a set are not given, so that every line of the L1 is one (log entry 17). -/
def l1Victim (ls : List L1Line) : Option L1Line :=
  let lo := ls.foldl (fun m l => if l.cls < m then l.cls else m) 3
  ls.find? fun l => l.cls == lo

/-- Makes room in a core's L1: the victim's dirty bytes are written back (R151, R154, R169). -/
def State.l1Room (s : State) (part die core : Nat) : State :=
  let c := s.core die core
  if c.l1.length < c.l1Size then s
  else
    match l1Victim c.l1 with
    | none => s
    | some v => (s.l1Merge part v.line v.mask).modCore die core fun c => c.l1Mod v.line fun _ => none

/-- A line that an L1 holds is used: its class rises, and it becomes the most recently used (R153, R154). -/
def Core.l1Touch (c : Core) (l : L1Line) (h mask : Nat) (excl : Bool) : Core :=
  { c with l1 := (c.l1.filter fun x => x.line != l.line) ++
      [{ l with mask := l.mask ||| mask, excl := l.excl || excl, cls := if l.cls < hintRank h then hintRank h else l.cls }] }

/-- An L1 takes a line, or uses the one it holds; a no-allocate access that misses takes none (R153, R154). -/
def State.l1Take (s : State) (part die core line h mask : Nat) (excl : Bool) : State :=
  match (s.core die core).l1Find line with
  | some l => s.modCore die core fun c => c.l1Touch l h mask excl
  | none =>
    if h = 3 then s
    else (s.l1Room part die core).modCore die core fun c =>
      { c with l1 := c.l1 ++ [{ line := line, mask := mask, excl := excl, cls := hintRank h }] }

/-- The request of an L1's miss, and the home slice's answer (R155). -/
def State.l1Answer (s : State) (q : Req) (pa : Nat) : State := (s.plain 0).sendLine q.part (.l1 q.g) pa

/-- A load of n bytes by a core through its L1 (R155, R296). -/
def State.coreLoad (s : State) (q : Req) (pa n h : Nat) : Acc :=
  let me := 256 * q.die + q.core
  let line := pa / 64
  let have_ := ((s.core q.die q.core).l1Find line).isSome
  let go (s : State) : Acc :=
    let s := s.l1Recall q.part line (some me) false
    .ok (loadN s.mem pa n) (s.l1Take q.part q.die q.core line h 0 false)
  if have_ && s.reach q.part pa && !s.replicaHeld q.part pa && !s.withheld.contains (pa / 256) then
    go (s.recallUpdates q.part (pa / 256))
  else (s.lineAccess q.part pa h true).bind fun _ s => go (if have_ then s else s.l1Answer q pa)

/-- The dirty mask of n bytes in their 64-byte line. -/
def byteMask (pa n : Nat) : Nat := (2 ^ n - 1) * 2 ^ (pa % 64)

/-- The tile fetch unit has pinned the line of an address (R191). -/
def State.linePinned (s : State) (part pa : Nat) : Bool :=
  match (s.die (s.homeDie part pa)).l2Find (pa / 256) with
  | some l => l.pins != 0
  | none => false

/-- A store of n bytes by a core: into the L1 line that it holds exclusive, or at the home slice while a monitor is
armed on the line or an engine has pinned it, or for a no-allocate store that misses (R18, R151, R161, R191). A line that the
L1 holds exclusive takes the store without the L2. -/
def State.coreStore (s : State) (q : Req) (pa n v h : Nat) : Acc :=
  let me := 256 * q.die + q.core
  let line := pa / 64
  let mine := (s.core q.die q.core).l1Find line
  let go (s : State) : Acc :=
    let s := s.l1Recall q.part line (some me) true
    .ok 0 (State.l1Take { s with mem := storeN s.mem pa v n } q.part q.die q.core line h (byteMask pa n) true)
  if s.monitored pa || s.linePinned q.part pa || (h == 3 && mine.isNone) then s.homeStore q.part pa n v h
  else if (mine.any fun l => l.excl) && s.reach q.part pa && !s.withheld.contains (pa / 256) then
    go (s.recallUpdates q.part (pa / 256))
  else (s.lineAccess q.part pa h false).bind fun _ s => go (if mine.isSome then s else s.l1Answer q pa)

/-- A read-modify-write of n bytes by a core at one point of the order: in the L1 that holds the line exclusive, or at
the home slice while a monitor is armed (R301, R303, R211). A function that gives none writes nothing. -/
def State.coreRmw (s : State) (q : Req) (pa n h : Nat) (f : Nat → Option Nat) : Acc :=
  if s.monitored pa then
    (s.lineAccess q.part pa h true).bind fun _ s =>
      let s := s.l1Recall q.part (pa / 64) none false
      let old := loadN s.mem pa n
      match f old with
      | none => .ok old s
      | some v => .ok old (s.homeWrite q.part pa n v)
  else
    (s.coreLoad q pa n h).bind fun old s =>
      match f old with
      | none => .ok old s
      | some v => (s.coreStore q pa n v h).bind fun _ s => .ok old s

/-- A RED of n bytes at the home slice (R167, R302): the home line goes on gathering the operation of its update-only copies. -/
def State.homeRed (s : State) (part pa n : Nat) (op : AOp) (v : Nat) : Acc :=
  if !s.reach part pa then .abort s
  else
    let line := pa / 256
    let s := s.plain n
    let s := if gathers op then s.recallOthers part line op (n == 8) else s.recallUpdates part line
    (s.l2Ensure part pa 0).bind fun _ s => .ok 0 ((s.l1Recall part (pa / 64) none true).homeOp part pa n op v)

/-- A RED of n bytes (R166 to R168, R302): at the home slice, or gathered at an update-only copy of the requester's die.
`far` forbids gathering (R351). -/
def State.coreRed (s : State) (q : Req) (pa n : Nat) (op : AOp) (v : Nat) (far : Bool) : Acc :=
  if s.homeDie q.part pa == q.die || !gathers op || far || s.monitored pa then s.homeRed q.part pa n op v
  else if !s.reach q.part pa then .abort s
  else
    let line := pa / 256
    .ok 0 (((s.recallOthers q.part line op (n == 8)).l1RecallAll q.part line true).updateRed q.part q.die pa n op v)

/-! ## Beyond the package (R297, R298, R304, R390) -/

/-- Whether an address lies in the partition's coherent flag window (R390). -/
def State.inFlagWindow (s : State) (part pa : Nat) : Bool :=
  let p := s.part part
  match region pa with
  | .host hpa => decide (p.flagBase ≤ hpa) && decide (hpa < p.flagBase + p.flagLen)
  | _ => false

/-- The module keeps a read-only copy of the line for a partition (R298). -/
def State.roCopy (s : State) (part pa : Nat) : Bool := ((s.die (s.homeDie part pa)).l2Find (pa / 256)).isSome

/-- Where State.mem holds the read-only copy that a die keeps of an address beyond the package. -/
def roKey (die pa : Nat) : Nat := pa + (die + 1) * 2 ^ 52

/-- Performs a store or reduction at its destination and updates every copy that the module holds, which it uses (R153, R154, R297,
R298). -/
def State.remotePerform (s : State) (r : Remote) : State :=
  let v := match r.red with
    | none => r.v.toNat
    | some op => aluOp op (8 * r.n) (loadN s.low r.pa r.n) r.v.toNat
  let s := { s with low := storeN s.low r.pa v r.n }
  (List.range 8).foldl
    (fun s d =>
      if ((s.die d).l2Find (r.pa / 256)).isSome then
        State.modDie { s with mem := storeN s.mem (roKey d r.pa) v r.n } d fun x => x.l2Touch (r.pa / 256) r.h
      else s) s

/-- Performs the accesses of a group to one destination that are on their way, oldest first (R297). -/
def State.remoteFlush (s : State) (g : GId) (dest : Nat) : State :=
  let mine (r : Remote) : Bool := r.g == g && r.dest == dest
  let s' := (s.remote.filter mine).foldl (fun s r => s.remotePerform r) s
  { s' with remote := s.remote.filter fun r => !mine r }

/-- A load from the read-only copy of a line, which it uses (R153, R298). -/
def State.roLoad (s : State) (part pa n h : Nat) : Acc :=
  let die := s.homeDie part pa
  .ok (loadN s.mem (roKey die pa) n) (s.modDie die fun d => d.l2Touch (pa / 256) h)

/-- A load beyond the package: from the read-only copy that the module keeps, or at the destination
(R297, R298, R390). -/
def State.remoteLoad (s : State) (q : Req) (pa n h : Nat) : Acc :=
  if !s.reach q.part pa then .abort s
  else
    let s := s.remoteFlush q.g (remoteDest pa)
    if s.inFlagWindow q.part pa then .ok (loadN s.low pa n) s
    else if s.roCopy q.part pa then s.roLoad q.part pa n h
    else if h = 3 then .ok (loadN s.low pa n) s
    else
      let die := s.homeDie q.part pa
      let s := s.l2Room q.part die pa
      let a := pa / 256 * 256
      let s := { s with mem := mcopyTo s.low s.mem a (roKey die a) 256 }
      .ok (loadN s.low pa n) (s.modDie die fun d => { d with l2 := d.l2 ++ [{ line := pa / 256, cls := hintRank h }] })

/-- A store or reduction beyond the package sets out for its destination (R297). -/
def State.remoteSend (s : State) (q : Req) (pa n v : Nat) (red : Option AOp) (h : Nat := 0) : Acc :=
  if !s.reach q.part pa then .abort s
  else
    .ok 0 { s.plain n with remote := s.remote ++
      [{ g := q.g, dest := remoteDest pa, pa := pa, n := n, v := BitVec.ofNat 64 v, red := red, h := h }] }

/-- An ATOM or CAS performed at a peer's home slice (R304). -/
def State.remoteRmw (s : State) (q : Req) (pa n : Nat) (f : Nat → Option Nat) : Acc :=
  if !s.reach q.part pa then .abort s
  else
    let s := s.remoteFlush q.g (remoteDest pa)
    let old := loadN s.low pa n
    match f old with
    | none => .ok old s
    | some v =>
      .ok old (s.remotePerform
        { g := q.g, dest := remoteDest pa, pa := pa, n := n, v := BitVec.ofNat 64 v, red := none })

/-- A slot holds a load that has not landed (R90, R145). -/
def Slot.loads (x : Slot) : Bool :=
  !x.empty && match x.wait with
    | .load _ => true
    | _ => false

/-- A load of a group's slots has not landed. -/
def Bank.loads (b : Bank) : Bool := b.slotA.loads || b.slotB.loads

/-- Whether accesses of a group are on their way: loads that have not landed, accesses to peers, or to the host as well
(R309). -/
def State.remotePending (s : State) (g : GId) (host : Bool) : Bool :=
  (s.grp g).b.loads || s.remote.any fun r => r.g == g && (host || r.dest != 0)

/-! ## Replicated pages (R144, R145) -/

/-- The replica of a named frame's address that lies on a die (R144). -/
def replicaOf (die pa : Nat) : Nat := hbmAddr die (pa % 2 ^ 38)

/-- A replica's home slice performs an update by the rules of a store homed there; the store that it belongs to ends with an
abort completion when one of them does (R145, R383). R145 does not say what becomes of the other replicas then: the model's choice is
that they keep the new value (log entry 49). -/
def replicaWrite (part : Nat) (r : RStore) (a : Acc) (die : Nat) : Acc :=
  let pa := hbmAddr die r.off
  match a with
  | .ok v s => (s.lineAccess part pa 0 false).bind fun _ s => .ok v (s.homeWrite part pa r.n r.v.toNat)
  | .abort s =>
    match s.lineAccess part pa 0 false with
    | .ok _ s => .abort (s.homeWrite part pa r.n r.v.toNat)
    | .abort s => .abort s
    | .wait w => .wait w
  | .wait w => .wait w

/-- The commit of a replicated store: every replica of the partition takes the new value (R145). -/
def State.replicaCommit (s : State) (part : Nat) (r : RStore) : Acc :=
  let s := s.modPart part fun p => { p with repl := p.repl.filter fun x => x.rid != r.rid }
  (s.part part).dies.foldl (replicaWrite part r) (.ok 0 s)

/-- The commit of a store from outside the model's instructions: one that fails is answered with an abort completion. -/
def State.replicaEnd (s : State) (part : Nat) (r : RStore) : State :=
  match s.replicaCommit part r with
  | .ok _ s => s
  | .abort s => s.answerAbort
  | .wait _ => s

/-- A store to a replicated page, sent to every replica, acknowledged by each and committed; stores that the sequencer
has placed before it commit first (R145). -/
def State.replicaStore (s : State) (part pa n v : Nat) : Acc :=
  if !(s.part part).dies.all fun d => s.reach part (replicaOf d pa) then .abort s
  else
    let s := (s.part part).repl.foldl (fun s r => s.replicaEnd part r) s
    s.replicaCommit part { rid := 0, off := pa % 2 ^ 38, n := n, v := BitVec.ofNat 512 v }

/-- A stage-2 leaf of a replicated page names a frame in the HBM window of a die of the partition (R144). -/
def State.replFrame (s : State) (part pa : Nat) : Bool :=
  match region pa with
  | .hbm d _ => (s.part part).dies.contains d
  | _ => false

/-! ## The module's registers (R132, R389, R395) -/

/-- The field of a monitor at an offset in doublewords, as a party finds it: the first as it stands, the others as the party's last
read of the first has latched them, if there has been one (R396). -/
def Monitor.field (x : Monitor) (who : Reader) (k : Nat) : W64 :=
  let y : Latch := (x.latched.find? fun y => y.who == who).getD
    { who := who, min := x.min, max := x.max, count := x.count, sum := x.sum, bins := x.bins }
  match k with
  | 0 => x.min | 1 => y.max | 2 => y.count | 3 => y.sum
  | _ => if k < 12 then mget 0 y.bins (2 * (k - 4) + 1) ++ mget 0 y.bins (2 * (k - 4)) else 0

/-- A monitor whose fields are latched for a party. -/
def Monitor.latch (x : Monitor) (who : Reader) : Monitor :=
  { x with latched := (x.latched.filter fun y => y.who != who) ++
      [{ who := who, min := x.min, max := x.max, count := x.count, sum := x.sum, bins := x.bins }] }

/-- The monitor that an offset of a partition's block lies in, and the doubleword of it (R389, R396). -/
def monAt (off : Nat) : Option (Nat × Nat) :=
  if 0x1000 ≤ off && off < 0x1000 + 128 * 20 then some ((off - 0x1000) / 128, (off - 0x1000) % 128 / 8) else none

/-- The register of a partition's block at an offset, as a party's read finds it; one that is written only, and an offset without a
register, read 0. -/
def State.partReg (s : State) (who : Reader) (part off : Nat) : W64 :=
  let p := s.part part
  if off < 0x400 then
    let q := mget {} p.lq (off / 64)
    match off % 64 / 8 with
    | 0 => q.base | 1 => q.size | 2 => q.head | 3 => q.tail | _ => 0
  else
    match monAt off with
    | some (m, k) => (mget {} p.mons m).field who k
    | none =>
      match off with
      | 0x400 => p.scbase | 0x408 => p.scsize | 0x410 => p.schead | 0x418 => p.sctail
      | 0x800 => p.tqbuf | 0x820 => BitVec.ofNat 64 (b01 p.tqrslt)
      | 0xC00 => p.invstart | 0xC08 => p.invlen | 0xC10 => p.invctl
      | 0xC40 => BitVec.ofNat 64 (b01 p.debug + 2 * part + 16 * (p.dies.foldl (fun m d => m ||| 2 ^ d) 0))
      | _ => 0

/-- The register at an offset of the register range: a partition's block, or the module's (R389, R395, R400). -/
def State.regRead (s : State) (who : Reader) (off : Nat) : W64 :=
  if off < 2 ^ 27 then s.partReg who (off / 2 ^ 24) (off % 2 ^ 24)
  else
    match off - 2 ^ 27 with
    | 0 => s.ready | 8 => s.fenced | 16 => s.throttle
    | _ => 0

/-- A read of a monitor's first field latches its others for the reader (R396). -/
def State.regLatch (s : State) (who : Reader) (off : Nat) : State :=
  match if off < 2 ^ 27 then monAt (off % 2 ^ 24) else none with
  | some (m, 0) => s.modPart (off / 2 ^ 24) fun p => { p with mons := mset {} p.mons m ((mget {} p.mons m).latch who) }
  | _ => s

/-- An address lies in the register range. -/
def isReg (pa : Nat) : Bool := match region pa with | .regs _ => true | _ => false

/-- A load from the register range: whole registers of 8 bytes; any other width, the range beyond BAR0's 256 MiB, and a module
whose hub is not ready end with an abort completion (R389, R395; log entry 21). -/
def State.regLoad (s : State) (who : Reader) (pa n : Nat) : Acc :=
  let off := pa - 2 ^ 41
  if n ≠ 8 || pa % 8 ≠ 0 || 2 ^ 28 ≤ off || !s.readyBit 1 then .abort s
  else .ok (s.regRead who off).toNat (s.regLatch who off)

/-! ## An access by where its address lies -/

/-- The page-table walker reads an entry, at its home slice, or beyond the package where its address lies there (R80, R297, R298). -/
def State.tableLoad (s : State) (part pa : Nat) : Acc :=
  if !isRemote pa then s.homeLoad part pa 8
  else if !s.reach part pa then .abort s
  else if s.roCopy part pa && !s.inFlagWindow part pa then s.roLoad part pa 8 0
  else .ok (loadN s.low pa 8) s

/-- A load by a group. -/
def State.load (s : State) (q : Req) (pa n h : Nat) : Acc :=
  if isRemote pa then s.remoteLoad q pa n h else if isReg pa then s.regLoad (.group q.g) pa n else s.coreLoad q pa n h

/-- A store by a group; `repl` says that the page is replicated. -/
def State.store (s : State) (q : Req) (pa n v h : Nat) (repl : Bool) : Acc :=
  if repl then s.replicaStore q.part pa n v
  else if isRemote pa then s.remoteSend q pa n v none h
  else s.coreStore q pa n v h

/-- A read-modify-write by a group. -/
def State.rmw (s : State) (q : Req) (pa n h : Nat) (f : Nat → Option Nat) : Acc :=
  if isRemote pa then s.remoteRmw q pa n f else s.coreRmw q pa n h f

/-- A RED by a group or a copy channel. -/
def State.red (s : State) (q : Req) (pa n : Nat) (op : AOp) (v : Nat) (far : Bool) : Acc :=
  if isRemote pa then s.remoteSend q pa n v (some op) else s.coreRed q pa n op v far

/-- A load by an engine, at the home slice or at the destination, where the group's earlier accesses come first (R272, R297). -/
def State.engineLoad (s : State) (q : Req) (pa n : Nat) : Acc :=
  if isReg pa then s.regLoad (.group q.g) pa n
  else if !isRemote pa then s.homeLoad q.part pa n
  else if !s.reach q.part pa then .abort s
  else
    let s := s.remoteFlush q.g (remoteDest pa)
    if s.roCopy q.part pa && !s.inFlagWindow q.part pa then s.roLoad q.part pa n 0 else .ok (loadN s.low pa n) s

/-- A store or reduction of an engine beyond the package; it has been performed when the step ends (R181, R297). -/
def State.engineSend (s : State) (q : Req) (pa n v : Nat) (red : Option AOp) : Acc :=
  if !s.reach q.part pa then .abort s
  else
    let s := s.remoteFlush q.g (remoteDest pa)
    .ok 0 (s.remotePerform { g := q.g, dest := remoteDest pa, pa := pa, n := n, v := BitVec.ofNat 64 v, red := red })

/-- A store by an engine. -/
def State.engineStore (s : State) (q : Req) (pa n v : Nat) (repl : Bool) : Acc :=
  if repl then s.replicaStore q.part pa n v
  else if !isRemote pa then s.homeStore q.part pa n v 0
  else s.engineSend q pa n v none

/-- A reduction by an engine. -/
def State.engineRed (s : State) (q : Req) (pa n : Nat) (op : AOp) (v : Nat) (far : Bool) : Acc :=
  if !isRemote pa then s.coreRed q pa n op v far else s.engineSend q pa n v (some op)

/-- The address that a page's load uses: the requester's own replica of a replicated page (R145). -/
def loadAddr (q : Req) (repl : Bool) (pa : Nat) : Nat := if repl then replicaOf q.die pa else pa

end Sys2Proof.Machine
end

