-- ==== Sys2Proof/Machine/Xlate.lean ====
section
/-! DEFINITION. Translation: tables and walks, TLBs, translation registers, permissions, invalidation (R77 to R105). -/

namespace Sys2Proof.Machine

/-- A fault that names a value. -/
def flt1 (c : FClass) (v : Nat) : FaultRec := { cls := c, detail := BitVec.ofNat 64 v }

/-- The bytes of a page. -/
def PSizeBytes : PSize → Nat
  | .k64 => 2 ^ 16 | .m2 => 2 ^ 21 | .m64 => 2 ^ 26

/-- The psize code of xperm (R63). -/
def psizeCode : PSize → Nat
  | .k64 => 0 | .m2 => 1 | .m64 => 2

/-- Allowed(perm, kind) of R89. -/
def Perm.allows (p : Perm) : Kind → Bool
  | .read => p.rd
  | .write => p.w
  | .rmw => p.rd && p.w && p.a
  | .fetch => p.x

/-- The AND of two leaves' permissions (R83). -/
def Perm.and (p q : Perm) : Perm := { rd := p.rd && q.rd, w := p.w && q.w, a := p.a && q.a, x := p.x && q.x }

/-! ## Table entries (R80 to R82) -/

/-- The permissions of a leaf entry. -/
def entryPerm (e : Nat) : Perm := { rd := bit e 2, w := bit e 3, a := bit e 4, x := bit e 5 }

/-- The address of an entry: its bits [51:8] in place. -/
def entryAddr (e : Nat) : Nat := bits e 8 44 * 256

/-- The index of an address at a level (R80). -/
def levelIndex (va : Nat) : Nat → Nat
  | 4 => bits va 52 5
  | 3 => bits va 39 13
  | 2 => bits va 26 13
  | 1 => bits va 21 5
  | _ => bits va 16 5

/-- The size of a table at a level (R80). -/
def tableBytes : Nat → Nat
  | 3 => 65536 | 2 => 65536 | _ => 256

/-- The size of a leaf's page at a level (R80). -/
def leafSize : Nat → PSize
  | 2 => .m64 | 1 => .m2 | _ => .k64

/-- Whether a present entry is malformed (R82). -/
def malformed (stage level : Nat) (hosten : Bool) (e : Nat) : Bool :=
  let leaf := bit e 1
  let ty := bits e 6 2
  bits e 52 12 != 0 ||
  (if leaf then
    decide (3 ≤ level) || entryAddr e % PSizeBytes (leafSize level) != 0 ||
    (if stage = 1 then (ty != 0 && ty != 2) || (ty == 2 && (entryAddr e != 0 || !hosten)) else ty != 0 && ty != 1)
  else level == 0 || bits e 2 6 != 0 || entryAddr e % tableBytes (level - 1) != 0)

/-! ## Walks (R77 to R84) -/

/-- The outcome of a walk. -/
inductive Walk where
  | ok (t : Trans) (s : State)
  | xlate (host : Bool) (s2 : Option S2Rec) (s : State)
  /-- PERM with its sub-code, and the stage and level of a malformed entry (R82). -/
  | perm (sub : Nat) (table : Option (Nat × Nat)) (s : State)
  | abort (s : State)
  | wait (w : Wait)
  deriving DecidableEq, Repr, Inhabited

/-- The outcome of a stage-2 translation. -/
inductive S2 where
  | ok (pa : Nat) (size : PSize) (p : Perm) (repl : Bool) (s : State)
  | absent (s : State)
  /-- A malformed entry at a level. -/
  | bad (level : Nat) (s : State)
  | abort (s : State)
  | wait (w : Wait)
  deriving DecidableEq, Repr, Inhabited

/-- The leaf of stage 2 for an intermediate address, from the table at a level down (R80). -/
def stage2From (s : State) (part ipa : Nat) : Nat → Nat → S2
  | level, table =>
    match s.tableLoad part (table + 8 * levelIndex ipa level) with
    | .abort s => .abort s
    | .wait w => .wait w
    | .ok e s =>
      if !bit e 0 then .absent s
      else if malformed 2 level false e then .bad level s
      else if bit e 1 then
        let sz := leafSize level
        .ok (entryAddr e + ipa % PSizeBytes sz) sz (entryPerm e) (bits e 6 2 == 1) s
      else
        match level with
        | 0 => .bad 0 s
        | l + 1 => stage2From s part ipa l (entryAddr e)

/-- The invalidation of a PUBLISH in whose range an intermediate address lies (R188). -/
def Part.publishing (p : Part) (ipa : Nat) : Option Nat :=
  (p.invs.find? fun i => match i.ext with
    | .pages ipas => ipas.any fun a => decide (a ≤ ipa) && decide (ipa < a + 65536)
    | _ => false).map (·.id)

/-- Stage 2 of a partition (R78): it starts at level 3. An access whose translation lands in a range that is being published
is held until the invalidation completes (R188). -/
def State.stage2 (s : State) (part ipa : Nat) : S2 :=
  match (s.part part).publishing ipa with
  | some id => .wait (.held id)
  | none => stage2From s part ipa 3 (s.part part).s2root

/-- The smaller page size (R83). -/
def minSize (a b : PSize) : PSize := if PSizeBytes a ≤ PSizeBytes b then a else b

/-- An address down to a page of a size. -/
def pageBase (x : Nat) (sz : PSize) : Nat := x / PSizeBytes sz * PSizeBytes sz

/-- The whole translation of a normal stage-1 leaf (R83, R144). -/
def finishWalk (s : State) (q : Req) (va e level : Nat) (kind : Kind) : Walk :=
  let sz1 := leafSize level
  let ipa := entryAddr e + va % PSizeBytes sz1
  match s.stage2 q.part ipa with
  | .abort s => .abort s
  | .wait w => .wait w
  | .bad l s => .perm 1 (some (2, l)) s
  | .absent s => .xlate false (some { kind := kind, walk := false, level := 0, va := va, ctx := q.ctxNo, ipa := ipa }) s
  | .ok pa sz2 p2 repl s =>
    let sz := minSize sz1 sz2
    -- a replicated leaf must name a frame in the HBM window of a die of the partition (R144)
    let bad := repl && !s.replFrame q.part pa
    .ok { vbase := pageBase va sz, frame := pageBase pa sz, ipa := pageBase ipa sz, size := sz, size2 := sz2,
          p1 := if bad then {} else entryPerm e, p2 := p2, host := false, repl := repl } s

/-- The translation of a page of type host by ATS (R83, R103): the completion that has arrived is used up; without one
the access waits, and a Translation Request is sent (`State.askAts`). R83 does not give the page size: it is the smaller of
those of the stage-1 leaf and of the completion (log entry 56). -/
def hostWalk (s : State) (q : Req) (va e level : Nat) : Walk :=
  match s.ats.find? fun a => a.part == q.part && a.pasid == q.pasid && pageBase va a.size == pageBase a.va a.size with
  | none => .wait (.ats (va / 65536))
  | some a =>
    if !a.present then .xlate true none s
    else
      let sz := minSize (leafSize level) a.size
      let pa := 2 ^ 50 + pageBase a.hpa a.size + va % PSizeBytes a.size
      .ok { vbase := pageBase va sz, frame := pageBase pa sz, ipa := 0, size := sz, size2 := sz, p1 := entryPerm e,
            p2 := { rd := a.rd, w := a.w, a := false, x := a.rd }, host := true, repl := false }
        { s with ats := s.ats.filter fun b => decide (b ≠ a) }

/-- Stage 1 from the table at a level down; table addresses are intermediate (R80, R84, R100). -/
def stage1From (s : State) (q : Req) (va : Nat) (kind : Kind) : Nat → Nat → Walk
  | level, table =>
    let ipa := table + 8 * levelIndex va level
    let s2fault : Option S2Rec :=
      some { kind := .read, walk := true, level := level, va := va, ctx := q.ctxNo, ipa := ipa }
    match s.stage2 q.part ipa with
    | .abort s => .abort s
    | .wait w => .wait w
    | .bad l s => .perm 1 (some (2, l)) s
    | .absent s => .xlate false s2fault s
    | .ok pa _ p2 repl s =>
      if repl && !s.replFrame q.part pa then .perm 0 none s
      else if !p2.rd then .xlate false s2fault s
      else
        match s.tableLoad q.part (loadAddr q repl pa) with
        | .abort s => .abort s
        | .wait w => .wait w
        | .ok e s =>
          if !bit e 0 then .xlate false none s
          else if malformed 1 level q.hosten e then .perm 1 (some (1, level)) s
          else if bit e 1 then
            if bits e 6 2 = 2 then hostWalk s q va e level else finishWalk s q va e level kind
          else
            match level with
            | 0 => .perm 1 (some (1, 0)) s
            | l + 1 => stage1From s q va kind l (entryAddr e)

/-! ## Invalidation's extent (R101) -/

/-- Whether an extent covers a translation held under a tag. -/
def Extent.covers (x : Extent) (tag : Nat) (t : Trans) : Bool :=
  let n := PSizeBytes t.size
  match x with
  | .virt asid pasid start len =>
    tag == (if t.host then pasid else asid) && decide (t.vbase < start + len) && decide (start < t.vbase + n)
  | .ctx asid pasid => tag == if t.host then pasid else asid
  | .ipa start len => !t.host && decide (t.ipa < start + len) && decide (start < t.ipa + n)
  | .all => true
  | .ats pasid start len => t.host && tag == pasid && decide (t.vbase < start + len) && decide (start < t.vbase + n)
  | .pages ipas => !t.host && ipas.any fun p => decide (t.ipa < p + 65536) && decide (p < t.ipa + n)

/-- Whether an extent covers a Translation Completion. -/
def Extent.coversAts (x : Extent) (a : Ats) : Bool :=
  let meet (pasid start len : Nat) : Bool :=
    a.pasid == pasid && decide (a.va < start + len) && decide (start < a.va + PSizeBytes a.size)
  match x with
  | .all => true
  | .ats pasid start len => meet pasid start len
  | .virt _ pasid start len => meet pasid start len
  | .ctx _ pasid => a.pasid == pasid
  | _ => false

/-- The tag of a translation (R85): asid, or pasid for one obtained by ATS. -/
def tagOf (q : Req) (t : Trans) : Nat := if t.host then q.pasid else q.asid

/-! ## TLBs (R85) -/

/-- Whether an entry translates an address for a requester. -/
def TlbEntry.hits (e : TlbEntry) (q : Req) (va : Nat) : Bool :=
  e.part == q.part && e.tag == tagOf q e.tr && decide (e.tr.vbase ≤ va) && decide (va < e.tr.vbase + PSizeBytes e.tr.size)

/-- Adds an entry to a TLB that holds n; the oldest goes (log entry 9). -/
def tlbAdd (n : Nat) (l : List TlbEntry) (e : TlbEntry) : List TlbEntry :=
  let l := l.filter fun x => decide (x ≠ e)
  (if l.length < n then l else l.drop (l.length + 1 - n)) ++ [e]

/-- The set of the die's TLB that holds a translation; which bits choose it is not given (log entry 9). -/
def Trans.tlbSet (t : Trans) : Nat := t.vbase / PSizeBytes t.size % 512

/-- Adds an entry to a die's TLB of 512 sets of 16 ways (R85); the oldest of its set goes (log entry 9). -/
def dieTlbAdd (l : List TlbEntry) (e : TlbEntry) : List TlbEntry :=
  let mine := l.filter fun x => x.tr.tlbSet == e.tr.tlbSet
  let l := l.filter fun x => decide (x ≠ e)
  match mine.filter fun x => decide (x ≠ e) with
  | [] => l ++ [e]
  | x :: r => (if 16 ≤ r.length + 1 then l.filter fun y => decide (y ≠ x) else l) ++ [e]

/-- Installs a translation, unless an invalidation covering it is in progress (R85). -/
def State.tlbInstall (s : State) (q : Req) (t : Trans) : State :=
  let tag := tagOf q t
  if (s.part q.part).invs.any fun i => i.ext.covers tag t then s
  else
    let e : TlbEntry := { part := q.part, tag := tag, tr := t }
    (s.modCore q.die q.core fun c => { c with tlb := tlbAdd 64 c.tlb e }).modDie q.die fun d =>
      { d with tlb := dieTlbAdd d.tlb e }

/-- Walk(va) of R87 and R88: the TLBs, then the tables or ATS. -/
def State.walk (s : State) (q : Req) (va : Nat) (kind : Kind) : Walk :=
  match (s.core q.die q.core).tlb.find? fun e => e.hits q va with
  | some e => .ok e.tr s
  | none =>
    match (s.die q.die).tlb.find? fun e => e.hits q va with
    | some e => .ok e.tr (s.modCore q.die q.core fun c => { c with tlb := tlbAdd 64 c.tlb e })
    | none =>
      match stage1From s q va kind 4 q.root with
      | .ok t s => .ok t (s.tlbInstall q t)
      | w => w

/-! ## Permission checks (R89, R146, R304) -/

/-- Whether a physical address lies in the host range. -/
def isHost (pa : Nat) : Bool := decide (2 ^ 50 ≤ pa) && decide (pa < 2 ^ 51)

/-- The fault of an access refused by a translation, if any: the stage that refuses decides (R89). -/
def refusal (q : Req) (t : Trans) (va pa : Nat) (kind : Kind) : Option FaultRec :=
  let detail := canon va
  if !t.p1.allows kind then some { cls := .perm, detail := detail }
  else if t.repl && kind == .rmw then some { cls := .perm, sub := 3, detail := detail }
  else if isHost pa && kind == .rmw then some { cls := .perm, detail := detail }
  else if t.p2.allows kind then none
  else if t.host then some { cls := .xlate, detail := detail, page := some (kind, true) }
  else
    some { cls := .xlate, detail := detail, page := some (kind, false),
           s2 := some { kind := kind, walk := false, level := 0, va := va, ctx := q.ctxNo,
                        ipa := t.ipa + va % PSizeBytes t.size } }

/-- The outcome of Translate (R50). -/
inductive Tr where
  | ok (pa : Nat) (repl : Bool) (s : State)
  | fault (f : FaultRec)
  | abort (s : State)
  | wait (w : Wait)
  deriving DecidableEq, Repr, Inhabited

/-- The address within a translation. -/
def Trans.at (t : Trans) (va : Nat) : Nat := t.frame + (va - t.vbase)

/-- Translate on the TLB path, without a translation register (R88). va is a 64-bit value. -/
def State.tlbPath (s : State) (q : Req) (va : Nat) (kind : Kind) : Tr :=
  let v := va57 va
  match s.walk q v kind with
  | .abort s => .abort s
  | .wait w => .wait w
  | .perm sub tab _ => .fault { cls := .perm, sub := sub, detail := canon v, table := tab }
  | .xlate host s2 _ => .fault { cls := .xlate, detail := canon v, page := some (kind, host), s2 := s2 }
  | .ok t s =>
    match refusal q t v (t.at v) kind with
    | some f => .fault f
    | none => .ok (t.at v) t.repl s

/-- Translate of an address through the TLB path, with the test that it is canonical (R88). -/
def State.translateTlb (s : State) (q : Req) (va : Nat) (kind : Kind) : Tr :=
  if !canonical va then .fault (flt1 .perm va) else s.tlbPath q va kind

/-- The base of a translation register as a 64-bit value (R64). -/
def XReg.base64 (x : XReg) : Nat := (canon x.base).toNat

/-- The virtual address of an offset through a register: a 64-bit sum (log entry 22). -/
def XReg.va (x : XReg) (off : Int) : Nat := low 64 (x.base64 + off)

/-- A register loaded with a translation of a base (R87). -/
def xregOf (va : Nat) (t : Trans) : XReg :=
  let v := va57 va
  let n := PSizeBytes t.size
  { v := true, sp := false, base := v, frame := t.frame, limit := n - v % n, size := t.size, p1 := t.p1, p2 := t.p2,
    host := t.host, repl := t.repl, ipa := t.ipa, stale := false }

/-- The translation that a register holds (R88). -/
def XReg.trans (x : XReg) : Trans :=
  { vbase := pageBase x.base x.size, frame := x.frame, ipa := x.ipa, size := x.size, size2 := x.size, p1 := x.p1,
    p2 := x.p2, host := x.host, repl := x.repl }

/-- Whether an address lies within a register's limit (R88). -/
def XReg.within (x : XReg) (va : Nat) : Bool :=
  let o := sext 64 va - sext 57 x.base
  x.v && decide (0 ≤ o) && decide (o < x.limit)

/-- Translate(va, kind) of R88 through translation register n of a group; a stale register is refreshed first
(R102). -/
def State.translate (s : State) (q : Req) (n va : Nat) (kind : Kind) : Tr :=
  if !canonical va then .fault (flt1 .perm va)
  else
    let x := (s.grp q.g).b.getX n
    let use (s : State) (x : XReg) : Tr :=
      if x.within va then
        let t := x.trans
        match refusal q t (va57 va) (t.at (va57 va)) kind with
        | some f => .fault f
        | none => .ok (t.at (va57 va)) t.repl s
      else s.tlbPath q va kind
    if x.within va && x.stale then
      match s.walk q x.base kind with
      | .abort s => .abort s
      | .wait w => .wait w
      | .perm sub tab _ => .fault { cls := .perm, sub := sub, detail := canon x.base, table := tab }
      | .xlate host s2 _ => .fault { cls := .xlate, detail := canon x.base, page := some (kind, host), s2 := s2 }
      | .ok t s =>
        let x' := xregOf x.base t
        use (s.modBank q.g fun b => b.setX n x') x'
    else use s x

/-! ## Lanes -/

/-- The outcome of the checks of a vector access: for each lane its physical address and whether the page is
replicated. -/
inductive Lanes where
  | ok (l : List (Nat × Nat × Bool)) (s : State)
  | fault (f : FaultRec)
  | abort (s : State)
  | wait (w : Wait)
  deriving DecidableEq, Repr, Inhabited

/-- Checks the lanes in ascending order; the lowest lane that fails is raised (R51, R370). -/
def lanesTr (f : Nat → State → Tr) : List Nat → State → Lanes
  | [], s => .ok [] s
  | l :: r, s =>
    match f l s with
    | .abort s => .abort s
    | .wait w => .wait w
    | .fault x => .fault { x with lane := some l }
    | .ok pa repl s =>
      match lanesTr f r s with
      | .ok ps s => .ok ((l, pa, repl) :: ps) s
      | o => o

/-! ## Invalidation (R101, R102) -/

/-- Marks the translation registers of a group that are built on a covered translation (R102). -/
def staleBank (x : Extent) (asid pasid : Nat) (b : Bank) : Bank :=
  { b with x := b.x.map fun e =>
      let t := e.2.trans
      (e.1, if e.2.v && !e.2.sp && x.covers (if t.host then pasid else asid) t then { e.2 with stale := true } else e.2) }

/-- Whether a requester belongs to a partition. -/
def State.groupPart (s : State) (g : GId) : Nat := (s.reqOf g).part

/-- What an invalidation does at once: no TLB holds a covered translation, covered translation registers are stale,
completions that no walk has used are dropped (R101, R102, R104). -/
def State.invalidate (s : State) (part : Nat) (x : Extent) : State :=
  let keep (l : List TlbEntry) : List TlbEntry := l.filter fun e => !(e.part == part && x.covers e.tag e.tr)
  { s with
    dies := s.dies.map fun e => (e.1, { e.2 with tlb := keep e.2.tlb })
    cores := s.cores.map fun e => (e.1, { e.2 with tlb := keep e.2.tlb })
    groups := s.groups.map fun e =>
      let q := s.reqOf e.1
      (e.1, if q.part = part then
          { e.2 with b := staleBank x q.asid q.pasid e.2.b,
                     ahead := e.2.ahead.map fun a => { a with saved := staleBank x q.asid q.pasid a.saved } }
        else e.2)
    ats := s.ats.filter fun a => !(a.part == part && x.coversAts a) }

/-! ## ATS (R83, R103) -/

/-- The page that a wait asks a Translation Request for. -/
def Wait.asks : Wait → Option Nat
  | .ats page => some page
  | .ckpt _ _ page => page
  | _ => Option.none

/-- A Translation Request of a context for a page is sent, unless one is on its way (R83, R103). -/
def State.askAts (s : State) (q : Req) (w : Wait) : State :=
  match w.asks with
  | some page =>
    if s.atsOut.contains (q.part, q.pasid, page) then s
    else { s with atsOut := s.atsOut ++ [(q.part, q.pasid, page)], outbox := s.outbox ++ [.atsRequest q.part q.pasid page] }
  | none => s

/-- The completion for a page that a fault has used is not used again: the replay asks anew (R83, R103). -/
def State.dropAts (s : State) (q : Req) (f : FaultRec) : State :=
  match f.page with
  | some (_, true) =>
    let va := va57 f.detail.toNat
    { s with ats := s.ats.filter fun a =>
        !(a.part == q.part && a.pasid == q.pasid && pageBase va a.size == pageBase a.va a.size) }
  | _ => s

/-- The translations of a partition that lead to a physical address: in the dies' TLBs, and in the registers of the groups
of a block. -/
def State.usedBy (s : State) (part : Nat) (b : BId) (pa : Nat) : List TlbEntry :=
  let leads (t : Trans) : Bool := decide (t.frame ≤ pa) && decide (pa < t.frame + PSizeBytes t.size)
  let tlbs := s.dies.flatMap fun e => e.2.tlb.filter fun x => x.part == part && leads x.tr
  let regs := (s.groupsOf b).flatMap fun e => e.2.b.x.filterMap fun x =>
    if x.2.v && !x.2.sp && leads x.2.trans then some { part := part, tag := tagOf (s.reqOf e.1) x.2.trans, tr := x.2.trans } else none
  distinct (tlbs ++ regs)

end Sys2Proof.Machine
end

