-- ==== Sys2Proof/Machine/Ops.lean ====
section
/-! DEFINITION. The operations that instructions and events share: trap-queue records, the end of a launch, killing and
relaunching a gang, TAKING AN EXCEPTION and returning from one, run-ahead, the checks before a word has any effect, and
the issue of one instruction (R27 to R31, R41, R51, R93 to R99, R320, R331, R369 to R378). -/

namespace Sys2Proof.Machine

/-! ## Records (R371, R372, R376) -/

/-- The class codes of R369. -/
def classCode : FClass → Nat
  | .ill => 1 | .priv => 2 | .align => 3 | .limit => 4 | .xlate => 5 | .perm => 6 | .kv => 7 | .code => 8
  | .lookahead => 9 | .stack => 10 | .abort => 11 | .check => 12 | .trap => 13 | .brk => 14

/-- ecause of a fault (R376). -/
def causeWord (c : FClass) (sub : Nat) (lane : Option Nat) : W64 :=
  BitVec.ofNat 64 (classCode c + sub * 256 + match lane with
    | none => 0
    | some l => l * 2 ^ 17 + 2 ^ 23)

/-- The detail of an error of a matrix instruction as MWAIT and its record give it: tile, progress and the instruction's own
detail (R274, R376). -/
def MErr.word (m : MErr) : W64 :=
  BitVec.ofNat 64 (m.tile % 16 * 2 ^ 60 + m.progress % 2 ^ 24 * 2 ^ 36 + m.detail.toNat % 2 ^ 36)

/-- The flat number of a group (R322). -/
def State.flatOf (s : State) (g : GId) : Nat :=
  match g with
  | .grp l b i => (s.launch l).flatG b i
  | .hdl _ _ _ => 0

/-- The launchid of a group's launch (R56). -/
def launchIdOf (g : GId) : Nat :=
  match g with
  | .grp l _ _ => l / 8
  | .hdl _ _ _ => 0

/-- The identifier of a record in a slot (R372). -/
def recId (slot : Nat) (r : Rec) : W64 := BitVec.ofNat 64 (r.rid * 256 + slot)

/-- The lowest free slot of a trap queue. -/
def Part.freeSlot (p : Part) : Option Nat := (List.range 256).find? fun n => (alook p.tq n).isNone

/-- Whether a record of a kind may take a slot now (R371). -/
def Part.mayPost (p : Part) (k : RKind) : Bool :=
  match k with
  | .fatal => decide (p.tq.length < 256)
  | _ => decide (p.tq.length + 2 < 256)

/-- Puts a record into the lowest free slot. -/
def Part.putRec (p : Part) (r : Rec) : Part :=
  match p.freeSlot with
  | none => p
  | some n => { p with tq := p.tq ++ [(n, r)] }

/-- After a slot is freed, the waiting records that may take a slot take one, oldest first (R371). -/
def Part.drain (p : Part) : Part :=
  p.tqWait.foldl
    (fun p r => if p.mayPost r.kind then p.putRec r else { p with tqWait := p.tqWait ++ [r] }) { p with tqWait := [] }

/-- The host entries of an XLATE record's payload (R97). -/
def Rec.hostPages (r : Rec) : List W64 := r.payload.tail.filter fun w => w.toNat.testBit 60

/-- The Page Requests of a group's pages, the last flag set on the final one (R98). -/
def pageRequests (part pasid rid : Nat) : List W64 → List Answer
  | [] => []
  | [w] => [.pageRequest part pasid rid (bits w.toNat 16 41) true]
  | w :: r => .pageRequest part pasid rid (bits w.toNat 16 41) false :: pageRequests part pasid rid r

/-- A posted record whose Page Requests are to be sent (R98). -/
def Rec.toAsk (r : Rec) : Bool := r.prg && !r.asked

/-- For each host page of a record that has been posted the Chandler issues a Page Request, in one group (R98). -/
def State.askPages (s : State) (part : Nat) : State :=
  let rs := ((s.part part).tq.map (·.2)).filter Rec.toAsk
  if rs.isEmpty then s
  else
    { s.modPart part fun p => { p with tq := p.tq.map fun e => (e.1, if e.2.toAsk then { e.2 with asked := true } else e.2) } with
      outbox := s.outbox ++ rs.flatMap fun r => pageRequests part r.pasid r.rid r.hostPages }

/-- Changes a partition's trap queue; the records that take a slot by it are posted (R98, R371). -/
def State.modQueue (s : State) (part : Nat) (f : Part → Part) : State := (s.modPart part f).askPages part

/-- Posts a replayable or notice record, or leaves it waiting with its producer (R371). -/
def State.postRec (s : State) (part : Nat) (r : Rec) : State :=
  s.modQueue part fun p =>
    if p.tqWait.isEmpty && p.mayPost r.kind then p.putRec r else { p with tqWait := p.tqWait ++ [r] }

/-- A fresh record number of a partition. -/
def State.newRid (s : State) (part : Nat) : State × Nat :=
  (s.modPart part fun p => { p with nextRid := p.nextRid + 1 }, (s.part part).nextRid)

/-- The records of a partition, posted or not. -/
def Part.findRec (p : Part) (rid : Nat) : Option Rec :=
  match p.tq.find? fun e => e.2.rid == rid with
  | some e => some e.2
  | none => (p.tqWait ++ p.chandler ++ p.brks.map (·.2)).find? fun r => r.rid == rid

/-- Drops the records that satisfy a test, and lets waiting ones take the slots. -/
def Part.dropRecs (p : Part) (f : Rec → Bool) : Part :=
  { p with
    tq := p.tq.filter fun e => !f e.2
    brks := p.brks.filter fun e => !f e.2
    tqWait := p.tqWait.filter fun r => !f r
    chandler := p.chandler.filter fun r => !f r }.drain

/-! ## The frame table (R112, R115) -/

/-- The physical address of a frame's entry, when the frame lies in the pool (R112, R113). -/
def Part.frameEntry (p : Part) (frame : Nat) : Option Nat :=
  if p.poolBase ≤ frame && frame < p.poolBase + p.poolSize then
    some (p.frameTable + 8 * ((frame - p.poolBase) / 65536))
  else none

/-- refs of a frame entry. -/
def fRefs (e : Nat) : Nat := bits e 48 16
/-- pins of a frame entry. -/
def fPins (e : Nat) : Nat := bits e 32 16
/-- state of a frame entry: 0 free, 1 live, 2 draining, 3 granted. -/
def fState (e : Nat) : Nat := bits e 30 2
/-- A frame entry. -/
def fEntry (refs pins state : Nat) : Nat := refs * 2 ^ 48 + pins * 2 ^ 32 + state * 2 ^ 30

/-- The walker reports a frame that became free to the Chandler's allocator (R115). -/
def State.reportFree (s : State) (frame : Nat) : State := { s with outbox := s.outbox ++ [.freed frame] }

/-- Releases a pin on a frame; a draining frame whose last pin goes becomes free (R119, R131). -/
def State.unpinFrame (s : State) (part frame : Nat) : State :=
  match (s.part part).frameEntry frame with
  | none => s
  | some pa =>
    let e := loadN s.mem pa 8
    let n := fPins e - 1
    if n = 0 && fState e = 2 then (s.unitWrite part pa 8 (fEntry (fRefs e) 0 0)).reportFree frame
    else s.unitWrite part pa 8 (fEntry (fRefs e) n (fState e))

/-! ## The end of a launch (R320) -/

/-- Translation by the hub in a launch's own context (R320): the tables, without a core's TLB. -/
def State.hubTranslate (s : State) (q : Req) (va : Nat) (kind : Kind) : Tr :=
  let v := va57 va
  if !canonical va then .fault (flt1 .perm va)
  else
    match stage1From s q v kind 4 q.root with
    | .abort s => .abort s
    | .wait w => .wait w
    | .perm sub tab _ => .fault { cls := .perm, sub := sub, detail := canon v, table := tab }
    | .xlate host s2 _ => .fault { cls := .xlate, detail := canon v, page := some (kind, host), s2 := s2 }
    | .ok t s =>
      match refusal q t v (t.at v) kind with
      | some f => .fault f
      | none => .ok (t.at v) t.repl s

/-- The requester that the hub is for a launch. -/
def Launch.req (l : Launch) (key : Nat) : Req :=
  { g := .grp key 0 0, die := l.leader, core := 0, part := l.part, asid := l.asid, pasid := l.pasid, hosten := l.hosten,
    root := l.root, ctxNo := l.ctxNo }

/-- Stores a list of doublewords in order. -/
def storeDws (s : State) (q : Req) (repl : Bool) : List (Nat × W64) → Acc
  | [] => .ok 0 s
  | (pa, v) :: r => (s.engineStore q pa 8 v.toNat repl).bind fun _ s => storeDws s q repl r

/-- The completion record: doublewords 1 to 7, then 0 (R320). -/
def Launch.completion (l : Launch) (e : Ended) (pa : Nat) : List (Nat × W64) :=
  let dw0 := e.status + b01 l.disc * 256 + e.reason * 65536
  [(pa + 8, BitVec.ofNat 64 l.id), (pa + 16, BitVec.ofNat 64 l.retired.length), (pa + 24, BitVec.ofNat 64 l.relaunches),
    (pa + 32, 0), (pa + 40, 0), (pa + 48, 0), (pa + 56, 0), (pa, BitVec.ofNat 64 dw0)]

/-- The header doubleword of an XLATE record (R97). -/
def xlateHeader (ctx count ahead cause : Nat) : W64 :=
  BitVec.ofNat 64 (ctx * 2 ^ 36 + count * 2 ^ 30 + ahead * 2 ^ 21 + cause * 2 ^ 18)

/-- The kind code of a page (R97). -/
def Kind.code : Kind → Nat
  | .read => 0 | .write => 1 | .rmw => 2 | .fetch => 3

/-- A page doubleword (R97). -/
def Page.dw (p : Page) : W64 :=
  BitVec.ofNat 64 (b01 p.first * 2 ^ 63 + Kind.code p.kind * 2 ^ 61 + b01 p.host * 2 ^ 60 + p.page % 2 ^ 41 * 2 ^ 16)

/-- The two doublewords of a stage-2 record (R100). -/
def S2Rec.dws (x : S2Rec) : List W64 :=
  [BitVec.ofNat 64 (Kind.code x.kind * 2 ^ 62 + b01 x.walk * 2 ^ 61 + x.level % 8 * 2 ^ 57 + x.va % 2 ^ 57),
    BitVec.ofNat 64 (x.ctx % 4096 * 2 ^ 52 + x.ipa % 2 ^ 52)]

/-- Posts an XLATE record: one with stage-2 records waits with the Chandler until its partition manager, to whom they go,
has resolved them (R100). -/
def State.postXrec (s : State) (part : Nat) (r : Rec) : State :=
  if !r.s2.isEmpty then
    { s.modPart part fun p => { p with chandler := p.chandler ++ [r] } with
      outbox := s.outbox ++ r.s2.map fun x => .stage2 part r.rid x.dws }
  else s.postRec part r

/-- A one-page XLATE record of an engine or the hub: first set, ahead 0, cause 3 (R182, R269, R320). -/
def State.enginePage (s : State) (part src launch gflat ctx pasid : Nat) (epc : W64) (f : FaultRec) (own : Owner) : State × Nat :=
  let (s, rid) := s.newRid part
  let k := f.page.getD (.read, false)
  let pg : Page := { first := true, kind := k.1, host := k.2, page := f.detail.toNat / 65536 % 2 ^ 41 }
  let r : Rec := {
    rid := rid, cls := .xlate, kind := .replayable, src := src, launch := launch, gflat := gflat, epc := epc
    cause := causeWord .xlate 0 none, detail := f.detail, payload := [xlateHeader ctx 1 0 3, pg.dw], owner := own,
    s2 := f.s2.toList, prg := k.2, pasid := pasid }
  (s.postXrec part r, rid)

/-- Accesses of a launch's groups beyond the package are on their way; those of a killed gang too (R320). -/
def State.launchRemote (s : State) (key : Nat) : Bool := s.remote.any fun r => !isHdl r.g && (bidOf r.g).launch == key

/-- Writes the completion record of a launch that has ended, after every access of the launch, or posts what R320 says when
it cannot. Nothing happens while it must wait: for an access of the launch, for a Translation Completion, for the release of
the record that holds it back. -/
def State.writeCompletion (s : State) (key : Nat) : State :=
  match s.launch? key with
  | none => s
  | some l =>
    match l.ended with
    | none => s
    | some e =>
      if l.reported || l.hubRec.isSome || s.launchRemote key then s
      else
        let done := (l.record.getD 3 0).toNat
        if done = 0 then s.modLaunch key fun l => { l with reported := true }
        else
          let q := l.req key
          let notice (s : State) (c : FClass) (table : Option (Nat × Nat) := none) : State :=
            let (s, rid) := s.newRid l.part
            (s.postRec l.part
              { rid := rid, cls := c, kind := .notice, src := 3, launch := l.id, gflat := 0
                cause := causeWord c 0 none, table := table }).modLaunch key fun l => { l with reported := true }
          let tr := if l.noctx then Tr.fault { cls := .xlate, detail := canon done, page := some (.write, false) }
            else s.hubTranslate q done .write
          match tr with
          | .wait w => s.askAts q w
          | .abort s => notice s .abort
          | .fault f =>
            if f.cls = .xlate then
              let r := (s.dropAts q f).enginePage l.part 3 l.id 0 l.ctxNo l.pasid 0 f (.hub key)
              r.1.modLaunch key fun l => { l with hubRec := some r.2 }
            else notice s f.cls f.table
          | .ok pa repl s' =>
            match storeDws s' q repl (l.completion e pa) with
            | .ok _ s => s.modLaunch key fun l => { l with reported := true }
            | .abort s => notice s .abort
            | .wait _ => s

/-! ## Discarding blocks (R165, R183, R187, R271, R292, R331) -/

/-- The groups of the blocks given. -/
def State.inBlocks (bs : List BId) (g : GId) : Bool := !isHdl g && bs.contains (bidOf g)

/-- The core and quadrant of a group. -/
def State.whereIs (s : State) (g : GId) : Nat × Nat × Nat :=
  match g with
  | .hdl d c q => (d, c, q)
  | .grp _ _ _ => let q := s.reqOf g; (q.die, q.core, (s.grp g).quad)

/-- The windows after an instruction of a slot. -/
def windowsAfter (ws : List Window) (sl : SlotId) : List Window :=
  (ws.map fun w => if w.sl = sl then { w with left := w.left - 1 } else w).filter fun w => decide (0 < w.left)

/-- The bank after an event has ended the wait of a slot. -/
def Bank.settle (b : Bank) (sl : SlotId) (f : Bank → Bank) : Bank :=
  { f b with wins := windowsAfter b.wins sl }.modSlot sl fun x =>
    { x with pc := x.pc + 4, wait := .none, waited := 0, until_ := none, al := none, pend := [], redo := none }

/-- An event ends the wait of a slot: its instruction has its results and the slot goes on after it; a checkpoint of the
group's run-ahead takes the results too (R96). -/
def State.settle (s : State) (g : GId) (sl : SlotId) (f : Bank → Bank) : State :=
  s.modGrp g fun r =>
    let pc := (r.b.slot sl).pc
    { r with
      b := r.b.settle sl f
      ahead := r.ahead.map fun a => { a with saved := a.saved.settle sl f }
      epc := if r.run == .stopped && r.eslot == sl && r.epc == pc then pc + 4 else r.epc }

/-- A slot waits in TAKE. -/
def Slot.wantsPrio (x : Slot) : Bool := match x.wait with | .prio _ => true | _ => false

/-- A group's waiting TAKE stands: trap entry cancels it, and the group executes it again when it resumes (R292). -/
def Run.keepsTake : Run → Bool
  | .running => true
  | .stopping => true
  | .stopped => true
  | .parked _ => true
  | .syscall _ _ => true
  | _ => false

/-- The token of a quadrant goes to a group, whose waiting TAKEs end with 1, whatever else the group waits for (R291, R292). -/
def State.givePrio (s : State) (die core q : Nat) (g : GId) : State :=
  let take (sl : SlotId) (s : State) : State :=
    match ((s.grp g).b.slot sl).wait with
    | .prio d => if (s.grp g).run.keepsTake then s.settle g sl fun b => b.setS d 1 else s
    | _ => s
  take .b (take .a (s.modQuad die core q fun qd => { qd with prio := some g }))

/-- The waiting TAKE of the lowest resident slot of a quadrant takes a token that is none (R291); the waits of the groups
`out` are cancelled (R292). -/
def State.grantPrio (s : State) (out : GId → Bool) (die core q : Nat) : State :=
  if (s.quad die core q).prio.isSome then s
  else
    let ws := s.groups.filter fun e =>
      !out e.1 && (e.2.b.slotA.wantsPrio || e.2.b.slotB.wantsPrio) && e.2.run.keepsTake && s.whereIs e.1 == (die, core, q) &&
        (isHdl e.1 || (s.block (bidOf e.1)).at?.isSome)
    match (List.range 8).findSome? fun r => ws.find? fun e => e.2.rslot == r with
    | none => s
    | some e => s.givePrio die core q e.1

/-- A stopped group goes to the handler of its quadrant (R374): tgroup of its block names it, and the handler enters 40
cycles later; behind another fault of the quadrant it waits. -/
def State.queueTrap (s : State) (g : GId) : State :=
  let (d, c, q) := s.whereIs g
  let first := (s.quad d c q).traps.isEmpty
  let s := s.modQuad d c q fun qd =>
    { qd with traps := qd.traps ++ [g], entry := if first then some (s.cycle + 40) else qd.entry }
  if first then s.modBlock (bidOf g) fun b => { b with tgroup := (s.grp g).idx1 } else s

/-- A group stands in its quadrant's queue for the handler. -/
def State.queued (s : State) (g : GId) : Bool :=
  let p := s.whereIs g
  (s.quad p.1 p.2.1 p.2.2).traps.contains g

/-- A pre-emption of the unit of a block waits. -/
def State.pendsFor (s : State) (b : BId) : Bool :=
  s.pends.any fun p => p.launch == b.launch && p.unit == (s.launch b.launch).unitOf b.flat

/-- The pre-emptions that CKPTs of the given handlers wait for are given up; a group whose handler was abandoned for one goes to the
handler again (R375, R386). -/
def State.dropPends (s : State) (f : GId → Bool) : State :=
  let mine (p : Pend) : Bool := match p.by_ with
    | some g => f g
    | none => false
  if !s.pends.any mine then s
  else
    let s : State := { s with pends := s.pends.filter fun p => !mine p }
    s.groups.foldl
      (fun s e =>
        if e.2.run == .trapped && (s.block (bidOf e.1)).at?.isSome && !s.queued e.1 && !s.pendsFor (bidOf e.1) then s.queueTrap e.1
        else s)
      s

/-- The first group of a quadrant's queue for the handler changes: the next one's entry follows (R374). The spec says nothing of the
issue-priority token in the handler: the model's choice is that the handler can take it, and that a token it holds is none when it
leaves, so that a waiting TAKE has it (log entry 31). -/
def State.handlerNext (s : State) (die core q : Nat) : State :=
  let qd := s.quad die core q
  let free := qd.prio == some (.hdl die core q)
  let s := s.modQuad die core q fun qd =>
    { qd with active := false, entry := if qd.traps.isEmpty then none else some (s.cycle + 40),
              prio := if free then none else qd.prio,
              cur := match qd.cur with
                | some (g, sl, n) => if isHdl g then none else some (g, sl, n)
                | none => none,
              held := match qd.held with
                | some (g, sl, n) => if isHdl g then none else some (g, sl, n)
                | none => none }
  let s := s.modGrp (.hdl die core q) fun g => { g with run := .idle }
  let s := (if free then s.grantPrio (fun _ => false) die core q else s).dropPends (· == .hdl die core q)
  match qd.traps.head? with
  | none => s
  | some g => s.modBlock (bidOf g) fun b => { b with tgroup := (s.grp g).idx1 }

/-- Removes groups from the queues for the handlers; a handler whose group is gone leaves (R375). -/
def State.untrap (s : State) (f : GId → Bool) : State :=
  s.cores.foldl
    (fun s e =>
      (List.range 4).foldl
        (fun s q =>
          let qd := e.2.quad q
          if !qd.traps.any f then s
          else
            let first := match qd.traps.head? with | some g => f g | none => false
            let s := s.modQuad (e.1 / 256) (e.1 % 256) q fun qd => { qd with traps := qd.traps.filter fun g => !f g }
            if first then s.handlerNext (e.1 / 256) (e.1 % 256) q else s)
        s)
    s

/-- Takes the issue-priority tokens and the runs in progress from groups (R292). -/
def State.dropIssue (s : State) (f : GId → Bool) : State :=
  s.cores.foldl
    (fun s e =>
      e.2.quads.foldl
        (fun s p =>
          let lose := match p.2.prio with | some g => f g | none => false
          let s := s.modQuad (e.1 / 256) (e.1 % 256) p.1 fun qd =>
            { qd with
              prio := if lose then none else qd.prio
              cur := match qd.cur with | some (g, sl, n) => if f g then none else some (g, sl, n) | none => none
              held := match qd.held with | some (g, sl, n) => if f g then none else some (g, sl, n) | none => none }
          if lose then s.grantPrio f (e.1 / 256) (e.1 % 256) p.1 else s)
        s)
    s

/-- Releases the pins of a block's table and closes its shadows without publication; a PUBLISH that has rewritten the leaves
completes (R120, R187, R190). -/
def State.closeBlock (s : State) (part : Nat) (b : BId) : State :=
  let x := s.block b
  let s := x.pins.foldl (fun s p => s.unpinFrame part p.frame) s
  let s := s.modPart part fun p =>
    { p with shadowPool := p.shadowPool ++ (x.shadows.filter fun h => h.closing.isNone).flatMap fun h => h.pages.map (·.shadow) }
  { s.modBlock b fun b => { b with pins := [], shadows := [] } with
    copies := s.copies.filter fun c => c.bid != b }

/-- Releases the frames and the lines that a matrix step in progress pins (R120, R191). -/
def State.releasePins (s : State) (part : Nat) (m : MEntry) : State :=
  let s := m.pins.foldl (fun s f => s.unpinFrame part f) s
  m.lines.foldl
    (fun s l => s.modDie (s.homeDie part (256 * l)) fun d => d.l2Mod l fun x => { x with pins := x.pins - 1 }) s

/-- Discards blocks with their groups, copies, matrix instructions, monitors, records and calls. -/
def State.discardBlocks (s : State) (part : Nat) (bs : List BId) : State :=
  let mine := State.inBlocks bs
  let eng := (s.matq.filter fun m => mine m.g)
  let cps := (s.copies.filter fun c => bs.contains c.bid).map (·.seq)
  let s := eng.foldl (fun s m => s.releasePins part m) s
  let s := bs.foldl (fun s b => s.closeBlock part b) s
  let s := (s.untrap mine).dropPends mine
  let gone (r : Rec) : Bool :=
    match r.owner with
    | .group g => mine g
    | .brk g => mine g
    | .engine n => eng.any fun m => m.seq == n
    | .copy n => cps.contains n
    | _ => false
  let tags := s.groups.filterMap fun e => match e.2.run with
    | .syscall t _ => if mine e.1 then some t else none
    | _ => none
  let s := s.modQueue part fun p => { p.dropRecs gone with calls := p.calls.filter fun t => !tags.contains t }
  { s with
    blocks := s.blocks.filter fun e => !bs.contains e.1
    groups := s.groups.filter fun e => !mine e.1
    copies := s.copies.filter fun c => !bs.contains c.bid
    matq := s.matq.filter fun m => !mine m.g
    monitors := s.monitors.filter fun m => !mine m.g
    wakes := s.wakes.filter fun w => !mine w.g
    pends := s.pends.filter fun p => !bs.any fun b => b.launch == p.launch && (s.launch b.launch).unitOf b.flat == p.unit
    cur := none }.dropIssue mine

/-- Ends a launch: its gangs are discarded without relaunch and the staged lists that are not released with them; disc is set
when an aborted launch leaves a list unreleased, or a staged write is discarded. Its completion record is written (R320, R358,
R422). -/
def State.endLaunch (s : State) (key : Nat) (e : Ended) : State :=
  match s.launch? key with
  | none => s
  | some l =>
    if l.ended.isSome then s
    else
      let bs := (s.blocks.filter fun x => x.1.launch == key)
      let disc := (e.status == 3 && l.grade == 1 && decide (l.miller < l.blocks)) || bs.any fun x => !x.2.staged.isEmpty
      let s := s.discardBlocks l.part (bs.map (·.1))
      let s := s.modLaunch key fun l =>
        { l with ended := some e, disc := l.disc || disc, handed := [], held := [], again := [], lost := [] }
      s.writeCompletion key

/-- Every launch of a partition that has not ended is aborted, and its queues start no record until the machine check
is cleared (R422). -/
def State.haltPart (s : State) (part reason : Nat) : State :=
  let s : State := { s with irqs := s.irqs ++ [.machineCheck part] }
  let s := s.modPart part fun p => { p with halted := true }
  s.launches.foldl
    (fun s e => if e.2.part = part && e.2.ended.isNone then s.endLaunch e.1 { status := 3, reason := reason } else s) s

/-- Posts a fatal record; when no slot is free the partition's launches halt (R371, R422). -/
def State.postFatal (s : State) (part : Nat) (r : Rec) : State :=
  if (s.part part).mayPost .fatal then s.modPart part fun p => p.putRec r
  else s.haltPart part (r.code.getD (classCode r.cls))

/-! ## Killing a gang (R331, R362, R372) -/

/-- The blocks of the unit of a block. -/
def State.unitBlocks (s : State) (b : BId) : List BId :=
  let l := s.launch b.launch
  (l.blocksOf (l.unitOf b.flat)).map fun f => ⟨b.launch, f⟩

/-- phys of a group (R62). The spec gives no rslot to the handler's reserved slot: the model's choice is that it reads 0 (log
entry 57). -/
def State.physOfGroup (s : State) (g : GId) : Nat :=
  let q := s.reqOf g
  let r := s.grp g
  match g with
  | .hdl d c qd => d * 2 ^ 28 + c * 2 ^ 20 + qd * 2 ^ 18
  | _ => q.die * 2 ^ 28 + q.core * 2 ^ 20 + r.quad * 2 ^ 18 + r.rslot * 2 ^ 15

/-- Whether a unit may be relaunched (R331, R362). -/
def Launch.mayRelaunch (l : Launch) (unit : Nat) : Bool :=
  decide (l.relaunches + 1 ≤ l.rlim) &&
    !(l.grade == 2 && l.everHeld.any fun G => l.unitOf (G / l.groupsPerBlock) == unit)

/-- The relaunch count of a unit. -/
def Launch.relaunchOf (l : Launch) (unit : Nat) : Nat := mget 0 l.relaunch unit

/-- The lowest block from an index on whose unit has not retired: the lists of a retired unit are released (R325, R354). -/
def Launch.skip (l : Launch) : Nat → Nat → Nat
  | 0, n => n
  | fuel + 1, n => if l.retired.contains (l.unitOf n) then l.skip fuel ((l.unitOf n + 1) * l.gangSize) else n

/-- The block that the Miller serves next, from an index on (R354, R358). -/
def Launch.toRelease (l : Launch) (n : Nat) : Nat := l.skip l.retired.length n

/-- A killed unit is to be placed again; the blocks of higher index wait until it has released its lists (R331, R358). -/
def Launch.killed (l : Launch) (unit : Nat) : Launch :=
  { l with
    again := l.again ++ [unit]
    held := l.held.filter fun e => e.1 != unit
    miller := min l.miller (unit * l.gangSize) }

/-- A gang kill of a launch makes a CKPT of it that waits write 0 (R386). -/
def State.ckptKilled (s : State) (key : Nat) : State :=
  let of (x : Slot) : Option Nat := match x.wait with
    | .ckpt k d _ => if k = key then some d else none
    | _ => none
  let one (g : GId) (sl : SlotId) (s : State) : State := match of ((s.grp g).b.slot sl) with
    | some d => s.settle g sl fun b => b.setS d 0
    | none => s
  let ws := (s.groups.filter fun e => (of e.2.b.slotA).isSome || (of e.2.b.slotB).isSome).map (·.1)
  (ws.foldl (fun s g => one g .b (one g .a s)) s).dropPends ws.contains

/-- Kills the gang of a group: it is relaunched when wanted and allowed, else the launch is aborted with the class as
reason. One record is posted: for CHECK the given instruction word and lanes, else a killed-gang record; `src` says whose
fault it is, and for the sequencer gflat is the block's index (R331, R362, R372). A relaunch beyond the limit counts (R331); the spec
does not say whether one that R362 refuses does: the model's choice is that it counts too (log entry 32). -/
def State.killGang (s : State) (g : GId) (cls : Nat) (relaunch : Bool) (chk : Option (Nat × W64)) (epc : W64)
    (pcls : FClass) (cause : W64 := BitVec.ofNat 64 cls) (detail : W64 := 0) (src : Nat := 0)
    (table : Option (Nat × Nat) := none) : State :=
  let b := bidOf g
  let l := s.launch b.launch
  let unit := l.unitOf b.flat
  let again := relaunch && l.mayRelaunch unit
  let count := l.relaunchOf unit + b01 relaunch
  let payload : List W64 :=
    match chk with
    | some (word, lanes) =>
      [BitVec.ofNat 64 word, BitVec.ofNat 64 (s.physOfGroup g / 2 ^ 18 * 2 ^ 18), lanes, BitVec.ofNat 64 count]
    | none => [BitVec.ofNat 64 cls, BitVec.ofNat 64 count]
  let (s', rid) := s.newRid l.part
  let r : Rec := {
    rid := rid, cls := pcls, kind := if again then .notice else .fatal, src := src, launch := l.id,
    gflat := if src = 2 then b.flat else s.flatOf g, epc := epc, cause := cause, detail := detail, payload := payload,
    code := some cls, table := table }
  let s' := s'.modLaunch b.launch fun l =>
    { l with relaunch := mset 0 l.relaunch unit count, relaunches := l.relaunches + b01 relaunch }
  if again then
    (((s'.discardBlocks l.part (s.unitBlocks b)).postRec l.part r).modLaunch b.launch fun l => l.killed unit).ckptKilled b.launch
  else (s'.endLaunch b.launch { status := 3, reason := cls }).postFatal l.part r

/-- A group consumes an abort completion: ABORT kills and relaunches its gang (R383). -/
def State.abortGroup (s : State) (g : GId) (epc : W64) : State := s.killGang g 11 true none epc .abort

/-! ## Taking an exception (R374, R375) -/

/-- Pre-emption or trap entry cancels a PUBLISH of a group that still waits for engine writes: it executes again, and then
counts the engine writes anew (R190; log entry 51). -/
def State.cancelPublish (s : State) (g : GId) : State :=
  let wait (x : Slot) : Bool := match x.wait with | .engine _ => true | _ => false
  let r := s.grp g
  if !wait r.b.slotA && !wait r.b.slotB then s
  else
    let seqs := [r.b.slotA.wait, r.b.slotB.wait].filterMap fun w => match w with | .engine n => some n | _ => none
    let redo (x : Slot) : Slot := if wait x then { x with wait := .none } else x
    (s.modBank g fun b => (b.modSlot .a redo).modSlot .b redo).modBlock (bidOf g) fun k =>
      { k with shadows := k.shadows.map fun h =>
          if (match h.pub with | some n => seqs.contains n | none => false) then { h with pub := none } else h }

/-- A slot whose instruction is executed again when its group resumes. -/
def Slot.redone (x : Slot) : Slot := { x with wait := .none, pend := [] }

/-- Pre-emption or trap entry cancels a waiting TAKE, BAR, GBAR or AWAIT; a BAR and a GBAR keep the generation in which they executed
(R292, R348). -/
def Slot.cancel (x : Slot) : Slot :=
  match x.wait with
  | .prio _ => x.redone
  | .gen _ _ => x.redone
  | .barrier sel gen none => { x.redone with redo := some (sel, gen) }
  | _ => x

/-- The same for both slots of a bank. -/
def Bank.cancel (b : Bank) : Bank := (b.modSlot .a Slot.cancel).modSlot .b Slot.cancel

/-- TAKES AN EXCEPTION to the on-core trap handler (R374): the group stops with epc, ecause and edetail set and goes to the
handler; a group whose block is not on a core does so when the block next runs (R375). -/
def State.takeTrap (s : State) (g : GId) (sl : SlotId) (pc cause detail : W64) : State :=
  let s := (s.cancelPublish g).modGrp g fun r =>
    { r with run := .trapped, epc := pc, ecause := cause, edetail := detail, eslot := sl, ahead := none, b := r.b.cancel }
  if (s.block (bidOf g)).at?.isSome then s.queueTrap g else s

/-- A fault of the handler itself: a fatal record with hdl set, the trapping group's gang killed without relaunch, the
launch aborted with the class as reason (R375). The spec does not say whether such a record of class XLATE or KV carries the
payload of R97 or R122: the model's choice is that it carries none (log entry 31). -/
def State.handlerFault (s : State) (h : GId) (pc : W64) (cls : FClass) (cause detail : W64)
    (table : Option (Nat × Nat) := none) : State :=
  let (d, c, q) := s.whereIs h
  match (s.quad d c q).traps.head? with
  | none => s.modGrp h fun g => { g with run := .idle }
  | some g =>
    let l := s.launch (bidOf g).launch
    let (s', rid) := s.newRid l.part
    let r : Rec := {
      rid := rid, cls := cls, kind := .fatal, src := 0, hdl := true, launch := l.id, gflat := s.flatOf g,
      epc := pc, cause := cause, detail := detail, table := table }
    (s'.endLaunch (bidOf g).launch { status := 3, reason := (classCode cls) }).postFatal l.part r

/-- A slot of a group that resumes: its wait count starts anew (R340), and a TAKE, ALSET or packed access that waits is executed
again (R206, R212, R292). -/
def Slot.again (x : Slot) : Slot :=
  let y : Slot := { x with waited := 0, al := none }
  if x.wantsPrio || x.wait == .packed || x.wait == .interlock then y.redone else y

/-- A slot that goes on at an address, with nothing of an instruction in it under way. -/
def Slot.goesTo (pc : W64) (x : Slot) : Slot :=
  { x with pc := pc, wait := .none, until_ := none, al := none, pend := [], redo := none }

/-- A stopped group resumes at its epc (R378). -/
def Grp.resume (r : Grp) : Grp :=
  { r with
    run := .running
    b := ((r.b.modSlot .a Slot.again).modSlot .b Slot.again).modSlot r.eslot fun x =>
      if x.empty then x else { x with pc := r.epc } }

/-- RETURNS FROM THE EXCEPTION (ERET, R378): the handler leaves, and the trapping group resumes at epc unless it has been
killed; a second fault of the quadrant then has its turn. -/
def State.returnTrap (s : State) (die core q : Nat) : State :=
  match (s.quad die core q).traps with
  | [] => s.handlerNext die core q
  | g :: rest =>
    let s := s.modGrp g fun r => match r.run with
      | .trapped => r.resume
      | _ => r
    (s.modQuad die core q fun qd => { qd with traps := rest }).handlerNext die core q

/-! ## Run-ahead (R93 to R99) -/

/-- Whether a group's quadrant has a checkpoint buffer free (R93). -/
def State.bufferFree (s : State) (g : GId) : Bool :=
  let at_ := s.whereIs g
  decide ((s.groups.filter fun e => e.2.ahead.isSome && s.whereIs e.1 == at_).length < 2)

/-- The rank of a kind for merging: fetch, rmw, write, read (R95). -/
def kindRank : Kind → Nat
  | .fetch => 3 | .rmw => 2 | .write => 1 | .read => 0

/-- Adds a stage-2 record to those of the batch, once (R100). The spec does not say how many records a batch gives for one page:
the model's choice is one for each distinct address that faults (log entry 48). -/
def addS2 (l : List S2Rec) (r : Option S2Rec) : List S2Rec :=
  match r with
  | none => l
  | some x => if l.contains x then l else l ++ [x]

/-- Adds a page, merging with the entry of the same 64 KiB region (R95). -/
def addPage (ps : List Page) (p : Page) : List Page :=
  if ps.any fun x => x.page == p.page then
    ps.map fun x =>
      if x.page = p.page then
        { x with first := x.first || p.first, host := x.host || p.host,
                 kind := if kindRank x.kind < kindRank p.kind then p.kind else x.kind }
      else x
  else ps ++ [p]

/-- The page of an XLATE fault. -/
def pageOf (f : FaultRec) (first : Bool) : Page :=
  let k := f.page.getD (.read, false)
  { first := first, kind := k.1, host := k.2, page := f.detail.toNat / 65536 % 2 ^ 41 }

/-- Posts the XLATE record of a group and parks it (R96 to R98). -/
def State.postXlate (s : State) (g : GId) (pc cause detail : W64) (ps : List Page) (s2 : List S2Rec)
    (ahead endCause : Nat) : State :=
  let q := s.reqOf g
  let (s, rid) := s.newRid q.part
  let host := ps.any (·.host)
  let r : Rec := {
    rid := rid, cls := .xlate, kind := .replayable, src := 0, launch := launchIdOf g,
    gflat := s.flatOf g, epc := pc, cause := cause, detail := detail,
    payload := xlateHeader q.ctxNo ps.length ahead endCause :: ps.map Page.dw, owner := .group g, s2 := s2, prg := host, pasid := q.pasid }
  (s.postXrec q.part r).modGrp g fun r => { r with run := .parked rid, ahead := none }

/-- What the group's other slot has not written yet counts as missing in run-ahead (R94; log entry 7). -/
def Poison.start (b : Bank) (sl : SlotId) : Poison :=
  let o := b.slot (otherSlot sl)
  let rs := if o.empty then [] else o.pend
  { s := rs.filterMap fun r => match r with | .s n => some n | _ => none
    v := rs.filterMap fun r => match r with | .v p => some p | _ => none
    x := rs.filterMap fun r => match r with | .x n => some n | _ => none }

/-- A group takes XLATE (R93): when every pending write of its loads has landed, it checkpoints its bank and runs ahead from the
faulting instruction, or posts the faulting page alone when no buffer is free (end cause 6). A Translation Completion that
refused the access is used up (R83). -/
def State.takeXlate (s : State) (g : GId) (sl : SlotId) (pc : W64) (f : FaultRec) : State :=
  let cause := causeWord .xlate f.sub f.lane
  if ((s.grp g).b.slot (otherSlot sl)).loads then s.modSlot g sl fun x => { x with wait := .landing, waited := 0 }
  else
  let s := (s.dropAts (s.reqOf g) f).modGrp g fun r => { r with epc := pc, ecause := cause, edetail := f.detail, eslot := sl }
  if s.bufferFree g then
    s.modGrp g fun r =>
      { r with ahead := some { saved := r.b, sl := sl, poison := Poison.start r.b sl, pages := [pageOf f true], s2 := f.s2.toList } }
  else s.postXlate g pc cause f.detail [pageOf f true] f.s2.toList 0 6

/-- A group takes a replayable KV fault (R121, R123): cause 2 goes to the trap queue, causes 0, 1 and 3 to the Chandler's
allocator, and the group parks. -/
def State.takeKv (s : State) (g : GId) (sl : SlotId) (pc : W64) (f : FaultRec) : State :=
  let q := s.reqOf g
  let (s, rid) := s.newRid q.part
  let kv := f.kv.getD (0, 0)
  let cause := causeWord .kv f.sub f.lane
  let r : Rec := {
    rid := rid, cls := .kv, kind := .replayable, src := 0, launch := launchIdOf g, gflat := s.flatOf g,
    epc := pc, cause := cause, detail := f.detail,
    payload := [BitVec.ofNat 64 (f.sub * 2 ^ 61), kv.1, BitVec.ofNat 64 (kv.2 % 2 ^ 52)], owner := .group g }
  let s := if f.sub = 2 then s.postRec q.part r else s.modPart q.part fun p => { p with chandler := p.chandler ++ [r] }
  s.modGrp g fun x => { x with run := .parked rid, epc := pc, ecause := cause, edetail := f.detail, eslot := sl }

/-- A fault of an instruction goes where its class sends it (R369). -/
def State.takeFault (s : State) (g : GId) (sl : SlotId) (pc : W64) (f : FaultRec) : State :=
  let cause := causeWord f.cls f.sub f.lane
  if isHdl g then s.handlerFault g pc f.cls cause f.detail f.table
  else
    match f.cls with
    | .xlate => s.takeXlate g sl pc f
    | .kv => if f.sub ≤ 3 && f.kv.isSome then s.takeKv g sl pc f else s.takeTrap g sl pc cause f.detail
    | .check => s.killGang g 12 true none pc .check
    | _ => (s.takeTrap g sl pc cause f.detail).modGrp g fun r => { r with cwd := f.cwd, table := f.table }

/-! ## Contexts -/

/-- What an instruction knows of the slot that issues it. -/
structure Ctx where
  g : GId
  sl : SlotId
  grp : Grp
  q : Req
  /-- The launch; for the handler one without levels. -/
  l : Launch
  /-- The block; for the handler that of the trapping group. -/
  bid : BId
  deriving DecidableEq, Repr, Inhabited

/-- The bank. -/
def Ctx.b (c : Ctx) : Bank := c.grp.b
/-- The issuing slot. -/
def Ctx.slot (c : Ctx) : Slot := c.b.slot c.sl
/-- The address of the instruction. -/
def Ctx.pc (c : Ctx) : W64 := c.slot.pc
/-- The active lanes, ascending (R49). -/
def Ctx.lanes (c : Ctx) : List Nat := lanesOf c.slot.lanes
/-- The scratchpad bytes S of the block; the handler's reserved slot has none. -/
def Ctx.scratch (c : Ctx) : Nat := c.l.scratch

/-- The context of a slot. The handler belongs to no launch, and the spec does not say what the launch registers read in it:
the model's choice is that they read those of an empty launch record (R56, R374; log entry 57). Nor does R235 give the handler an
issue mode: by the same choice its covered instructions issue unchecked (log entry 57). -/
def State.ctx (s : State) (g : GId) (sl : SlotId) : Ctx :=
  { g := g, sl := sl, grp := s.grp g, q := s.reqOf g,
    l := match g with
      | .grp l _ _ => s.launch l
      | .hdl _ _ _ => { part := (s.reqOf g).part, id := 0, record := [] }
    bid := match g with
      | .grp l b _ => ⟨l, b⟩
      | .hdl d c q => match (s.quad d c q).traps.head? with
        | some t => bidOf t
        | none => ⟨0, 0⟩ }

/-- The group named by tgroup, on which privileged code acts (R56, R378). -/
def State.target (s : State) (c : Ctx) : GId := .grp c.bid.launch c.bid.flat (s.block c.bid).tgroup

/-- The slot whose turn it is to issue: the run in progress of the quadrant that goes on, while its group runs and the
slot is neither empty nor waiting (R332, R340, R342). -/
def State.issuing (s : State) : Option Ctx :=
  match s.cur with
  | none => none
  | some (d, c, q) =>
    match (s.quad d c q).cur with
    | none => none
    | some (g, sl, _) =>
      match s.grp? g with
      | none => none
      | some r =>
        let live := match r.run with | .running => true | .stopping => true | _ => false
        if live && !(r.b.slot sl).empty && (r.b.slot sl).wait == .none then some (s.ctx g sl) else none

/-! ## The checks before a word has any effect (R41) -/

/-- Step 4 of R41: classes and groups (R32, R33). -/
def Use.classOk : Use → Bool
  | .s n k _ => decide (n + k ≤ 64)
  | .v n k _ => n % k == 0
  | .m n _ => decide (n < 8)
  | .x n _ => decide (n < 8)
  | .wb _ => true
  | .t n => decide (n < 16)
  | .tc n => decide (n < 16)

/-- Step 6 of R41: the allocation and the grant (R32, R34). -/
def Use.limitOk (valloc wb tiles : Nat) : Use → Bool
  | .v n k _ => (upFrom n k).all fun i => decide (physOf wb i < valloc)
  | .t n => decide (n < tiles)
  | _ => true

/-- The first fault of R41 from step 2 on. -/
def Desc.check (d : Desc) (priv debug : Bool) (valloc wb tiles : Nat) : Option FaultRec :=
  if !d.codeOk || !d.uses.all Use.classOk then some (flt1 .ill d.word)
  else if d.priv && !priv && !(d.debugOk && debug) then some (flt1 .priv d.word)
  else if !d.uses.all (Use.limitOk valloc wb tiles) then some (flt1 .limit d.word)
  else none

/-! ## Lookahead (R29, R30) -/

/-- The container operands of PKX and PKI are aligned pairs under an alphabet of 64-bit containers (R214). -/
def Use.pair : Use → Use
  | .v n _ w => .v n 2 w
  | u => u

/-- The description of a word once the alphabet register that it names has been read (R206, R214). -/
def Desc.resolve (d : Desc) (b : Block) : Desc :=
  match d.pairs with
  | none => d
  | some (g, us) =>
    if bits (b.getAl g).toNat 39 2 = 3 then
      { d with uses := (List.range d.uses.length).map fun i =>
          let u := d.uses.getD i (.t 0)
          if us.contains i then u.pair else u }
    else d

/-- The registers of an operand that lookahead and the interlock can watch. -/
def Use.wregs (wb : Nat) : Use → List WReg
  | .s n k _ => ((upFrom n k).filter (· != 0)).map .s
  | .v n k _ => (upFrom n k).map fun i => .v (physOf wb i)
  | .x n _ => [.x n]
  | _ => []

/-- Whether an operand is written. -/
def Use.writes : Use → Bool
  | .s _ _ w => w
  | .v _ _ w => w
  | .m _ w => w
  | .x _ w => w
  | .wb w => w
  | .t _ => false
  | .tc _ => false

/-- Whether an instruction violates a window. -/
def Window.hit (w : Window) (wb : Nat) (uses : List Use) : Bool :=
  uses.any fun u => (!w.readOk || u.writes) && (u.wregs wb).any fun r => w.regs.contains r

/-- What an instruction writes. -/
def Desc.results (d : Desc) (wb : Nat) : List WReg := (d.uses.filter Use.writes).flatMap (Use.wregs wb)

/-- The instruction reads or writes a result that the group's other slot has not written yet (R31, R342). -/
def Desc.interlocked (d : Desc) (sl : SlotId) (b : Bank) : Bool :=
  let o := b.slot (otherSlot sl)
  !o.empty && d.uses.any fun u => (u.wregs b.wb).any fun r => o.pend.contains r

/-- The instruction lies inside a window of its slot and violates it (R29, R30, R342). -/
def Desc.lookaheadHit (d : Desc) (sl : SlotId) (b : Bank) : Bool :=
  b.wins.any fun w => w.sl == sl && decide (0 < w.left) && w.hit b.wb d.uses

/-- The window that an instruction opens. -/
def Desc.window (d : Desc) (sl : SlotId) (wb : Nat) : List Window :=
  let regs := (d.uses.filter fun u => u.writes != d.laSrc).flatMap (Use.wregs wb)
  if d.la = 0 || regs.isEmpty then [] else [{ sl := sl, left := d.la, regs := regs, readOk := d.laSrc }]

/-- A slot waits in a packed access that has read its alphabet register (R205, R206). -/
def Slot.packs (x : Slot) : Bool :=
  x.al.isSome || match x.wait with
    | .load h => h.al.isSome
    | _ => false

/-- A packed access of a block, of a slot other than the given one, has issued and not completed (R205). -/
def State.packedBusy (s : State) (b : BId) (g : GId) (sl : SlotId) : Bool :=
  (s.groupsOf b).any fun e =>
    let busy (k : SlotId) (x : Slot) : Bool := !x.empty && x.packs && !(e.1 == g && k == sl)
    busy .a e.2.b.slotA || busy .b e.2.b.slotB

/-! ## The outcome of an instruction -/

/-- How the body of an instruction ends. -/
inductive Res where
  /-- At the next instruction. -/
  | ok (s : State)
  /-- At the next instruction; fetch was suspended, which ends the run (R27). -/
  | okEnd (s : State)
  /-- The same, and no lookahead window opens (R209). -/
  | okNoWin (s : State)
  /-- At a target (R27). -/
  | goto (pc : W64) (s : State)
  /-- The slot waits at the instruction. -/
  | stay (w : Wait) (s : State)
  /-- A fault (R51). -/
  | trap (f : FaultRec)
  /-- A fault whose description keeps a change of state (R274). -/
  | trapKept (f : FaultRec) (s : State)
  /-- An abort completion for an access already made (R383). -/
  | aborted (s : State)
  /-- The body has settled the slots itself; the run ends. -/
  | raw (s : State)
  /-- The slots have merged into slot A, whose run goes on (R334). -/
  | merged (s : State)
  deriving DecidableEq, Repr, Inhabited

/-- A group whose run ends: when GRES 1 stops it, it stops here (R378). -/
def Grp.runEnds (sl : SlotId) (r : Grp) : Grp :=
  match r.run with
  | .stopping =>
    let x := if (r.b.slot sl).empty then r.b.slot (otherSlot sl) else r.b.slot sl
    { r with run := .stopped, epc := x.pc, eslot := if (r.b.slot sl).empty then otherSlot sl else sl }
  | _ => r

/-- A quadrant whose run ends; the slot that issued last is kept for the round-robin (R340). -/
def Quad.runEnds (g : GId) (sl : SlotId) (rslot : Nat) (q : Quad) : Quad :=
  { q with cur := none, last := if isHdl g then q.last else 2 * rslot + (if sl = .a then 0 else 1) }

/-- Ends the run of a quadrant (R27). -/
def State.endRun (s : State) (g : GId) (sl : SlotId) : State :=
  let at_ := s.whereIs g
  let t := s.modQuad at_.1 at_.2.1 at_.2.2 (Quad.runEnds g sl (s.grp g).rslot)
  { t with cur := none }.modGrp g (Grp.runEnds sl)

/-- Counts an instruction of the run; the run ends after B = 1 or its 24th instruction, or when asked (R27). -/
def State.countRun (s : State) (g : GId) (sl : SlotId) (endIt : Bool) : State :=
  let (d, c, q) := s.whereIs g
  match (s.quad d c q).cur with
  | none => s
  | some (g', sl', n) =>
    if endIt || 24 ≤ n + 1 || (s.quad d c q).held.isSome then s.endRun g sl
    else s.modQuad d c q fun qd => { qd with cur := some (g', sl', n + 1) }

/-- The slot goes on at an address, past every wait. -/
def State.setPc (s : State) (g : GId) (sl : SlotId) (pc : W64) : State := s.modSlot g sl (Slot.goesTo pc)

/-- An instruction of the other slot that reads or writes a pending register has waited until it was written, or read: the window
no longer holds it (R29, R30, R342). -/
def Window.past (w : Window) (sl : SlotId) (wb : Nat) (uses : List Use) : Window :=
  if w.sl = sl then w
  else
    let met := (uses.filter fun u => !w.readOk || u.writes).flatMap (Use.wregs wb)
    { w with regs := w.regs.filter fun r => !met.contains r }

/-- The windows of a bank after an instruction, with the one it opens. -/
def Desc.winsAfter (d : Desc) (c : Ctx) (win : Bool) (b : Bank) : List Window :=
  windowsAfter (b.wins.map fun w => w.past c.sl c.b.wb d.uses) c.sl ++ if win then d.window c.sl c.b.wb else []

/-- Windows after the instruction. -/
def State.openWindow (s : State) (c : Ctx) (d : Desc) (win : Bool) : State :=
  s.modBank c.g fun b => { b with wins := d.winsAfter c win b }

/-- A retired instruction: the windows, the next address, the run. -/
def State.retire (s : State) (c : Ctx) (d : Desc) (pc : W64) (win endIt : Bool) : State :=
  ((s.openWindow c d win).setPc c.g c.sl pc).countRun c.g c.sl (endIt || d.z)

/-- A slot waits in an instruction whose translation checks or whose codes are not all done: fetch of its group is suspended
(R90, R209, R212). A load held at a replica has passed its checks; another access that waits there does so with its group (log
entry 12). -/
def Wait.suspends : Wait → Bool
  | .ats _ => true
  | .walked => true
  | .landing => true
  | .held _ => true
  | .replica _ => true
  | _ => false

/-- Fetch of a slot's group is suspended for it. -/
def Slot.suspends (x : Slot) : Bool := !x.empty && x.wait.suspends

/-- The other slot of a group whose fetch is suspended is not eligible: its wait count starts anew (R340). -/
def State.suspend (s : State) (g : GId) (sl : SlotId) (w : Wait) : State :=
  if w.suspends then s.modSlot g (otherSlot sl) fun x => { x with waited := 0 } else s

/-- A slot waits: its run ends, and it is not eligible (R340). `pend` is what its instruction has still to write. A page of
type host is asked for by a Translation Request (R83). -/
def State.park (s : State) (c : Ctx) (w : Wait) (pend : List WReg := []) : State :=
  (((s.modSlot c.g c.sl fun x => { x with wait := w, waited := 0, pend := pend }).suspend c.g c.sl w).endRun c.g c.sl).askAts c.q w

/-- An interlock stalls the run of the slot, which keeps the quadrant's issue slot (R31, R342). -/
def State.stall (s : State) (c : Ctx) : State :=
  let at_ := s.whereIs c.g
  { (s.modSlot c.g c.sl fun x => { x with wait := .interlock }).modQuad at_.1 at_.2.1 at_.2.2 fun q =>
      { q with cur := none, held := q.cur } with cur := none }

/-- A fault of an instruction: its run ends and the fault goes where its class sends it (R51, R369). -/
def State.fail (s : State) (c : Ctx) (f : FaultRec) : State :=
  ((s.setPc c.g c.sl c.pc).endRun c.g c.sl).takeFault c.g c.sl c.pc f

/-- ABORT met by an instruction; inside the handler it is a fault of the handler (R383, R375). -/
def State.failAbort (s : State) (c : Ctx) : State :=
  let s := s.endRun c.g c.sl
  if isHdl c.g then s.handlerFault c.g c.pc .abort (causeWord .abort 0 none) 0 else s.abortGroup c.g c.pc

/-- The next address. -/
def Ctx.next (c : Ctx) : W64 := c.pc + 4

/-- Settles the outcome of an instruction. -/
def finish (c : Ctx) (d : Desc) (s : State) (r : Res) : State :=
  match r with
  | .ok s => s.retire c d c.next true false
  | .okEnd s => s.retire c d c.next true true
  | .okNoWin s => s.retire c d c.next false true
  | .goto pc s => s.retire c d pc true true
  | .stay w s => s.park c w (d.results c.b.wb)
  | .trap f => s.fail c f
  | .trapKept f s => s.fail c f
  | .aborted s => s.failAbort c
  | .raw s => (s.openWindow c d false).endRun c.g c.sl
  | .merged s =>
    let at_ := s.whereIs c.g
    (((s.openWindow c d false).modBank c.g fun b => { b with wins := b.wins.map fun w => { w with sl := .a } }).modQuad
      at_.1 at_.2.1 at_.2.2 fun q => { q with cur := q.cur.map fun x => (x.1, .a, x.2.2) }).countRun c.g .a d.z

/-! ## Checked issue (R235 to R239) -/

/-- A fresh number for a free value. -/
def State.fresh (s : State) : State × Nat := ({ s with free := s.free + 1 }, s.free)

/-- The health of a datapath: ALU p below 64, else adder j of level k of the reduction tree under p = 64 k + j (R236, R254). -/
def Quad.health (q : Quad) (p : Nat) : Health := if p < 64 then mget .sound q.alus p else mget .sound q.adders p

/-- The lanes of a covered instruction: its active lanes, or all bits of a mask (R236). -/
def Desc.aluLanes (d : Desc) (c : Ctx) : List Nat := if d.alu = .mask then List.range 64 else c.lanes

/-- The nodes of the reduction tree that satisfy a test on level and number, each with its adders in the two passes: j and
j + 1 mod n of a level of n (R236, R254). -/
def treeNodes (f : Nat → Nat → Bool) : List (Nat × Nat) :=
  (upFrom 1 6).flatMap fun k =>
    let n := 2 ^ (6 - k)
    ((List.range n).filter (f k)).map fun j => (64 * k + j, 64 * k + (j + 1) % n)

/-- The datapaths that what a covered instruction gives lane l runs on, in the first and in the second pass: lane l on ALUs l
and l + 1 mod 64; a sum on every node of the tree; the smallest or largest element on the nodes with an active lane in either
half; a prefix sum on the nodes below l + 1, and on the lane's ALU where it joins several of them (R236, R253 to R256; log
entry 14). -/
def Desc.paths (d : Desc) (c : Ctx) (l : Nat) : List (Nat × Nat) :=
  let own := (l, (l + 1) % 64)
  match d.alu with
  | .lanes | .mask => [own]
  | .sum => treeNodes fun _ _ => true
  | .order => treeNodes fun k j =>
      let half i := c.lanes.any fun a => decide (a / 2 ^ (k - 1) = i)
      half (2 * j) && half (2 * j + 1)
  | .scan => (treeNodes fun k j => decide ((j + 1) * 2 ^ k ≤ l + 1)) ++ if (l + 1) &&& l = 0 then [] else [own]

/-- The lanes in which two passes disagree; `again` is the re-issue, which only what is always wrong still spoils. The root of
the tree has one adder, which both passes use: always wrong, it gives them the same wrong value (R236, R237; log entry 14). -/
def Desc.disagree (d : Desc) (c : Ctx) (q : Quad) (again : Bool) : List Nat :=
  let wrong (p : Nat) := if again then q.health p == .broken else q.health p != .sound
  (d.aluLanes c).filter fun l => (d.paths c l).any fun p =>
    if p.1 = p.2 then wrong p.1 && q.health p.1 != .broken else wrong p.1 || wrong p.2

/-- The lanes whose two passes agree on a wrong value: those that an adder shared by both passes and always wrong spoils. -/
def Desc.unseen (d : Desc) (c : Ctx) (q : Quad) : List Nat :=
  (d.aluLanes c).filter fun l => (d.paths c l).any fun p => decide (p.1 = p.2) && q.health p.1 == .broken

/-- A datapath that is wrong once has been wrong. -/
def Health.used : Health → Health
  | .glitch => .sound
  | h => h

/-- These datapaths have been used. -/
def Quad.used (q : Quad) (ps : List Nat) : Quad :=
  let use (m : SMap Health) : SMap Health :=
    (m.map fun e => (e.1, if ps.contains e.1 then e.2.used else e.2)).filter fun e => e.2 != .sound
  { q with alus := use q.alus, adders := use q.adders }

/-- The lanes whose first pass, the only one under unchecked issue, computes wrongly. -/
def Desc.wrongLanes (d : Desc) (c : Ctx) (q : Quad) : List Nat :=
  (d.aluLanes c).filter fun l => (d.paths c l).any fun p => q.health p.1 != .sound

/-- The mask of a list of lanes. -/
def maskFrom (ls : List Nat) : W64 := ls.foldl (fun m l => m ||| BitVec.ofNat 64 (2 ^ l)) 0

/-- The bits of the given lanes from y, the others from x. -/
def bitsFrom (ls : List Nat) (x y : W64) : W64 := (x &&& ~~~maskFrom ls) ||| (y &&& maskFrom ls)

/-- Replaces the given lanes of what an operand writes by free values: defective datapaths (R239; log entry 14). -/
def Use.garble (n : Nat) (ls : List Nat) (b : Bank) : Use → Bank
  | .s r k true => (upFrom r k).foldl (fun b i => b.setS i (Config.aluGarbage (n + 8192 + i))) b
  | .v r k true =>
    (upFrom r k).foldl (fun b i => b.setV i ls fun l => (Config.aluGarbage (n + 64 * i + l)).setWidth 32) b
  | .m r true => b.setM r (bitsFrom ls (b.getM r) (Config.aluGarbage (n + 9000 + r)))
  | _ => b

/-- These lanes of what an instruction writes are free values (R239; log entry 14). -/
def State.garble (s : State) (g : GId) (d : Desc) (ls : List Nat) : State :=
  if ls.isEmpty then s
  else { s with free := s.free + 16384 }.modBank g fun b => d.uses.foldl (Use.garble s.free ls) b

/-- What the ALUs make of a covered instruction that has computed its results. -/
inductive Checked where
  | good (s : State)
  /-- The re-issue disagrees too, in these lanes. -/
  | bad (lanes : W64)
  deriving DecidableEq, Repr, Inhabited

/-- The outcome t of a covered instruction issued in s, by the state of the quadrant's ALUs and adders: agreement, a transient disagreement
that is counted, CHECK, or free results of what is defective and no comparison shows (R236, R237, R239). -/
def aluIssue (c : Ctx) (d : Desc) (s t : State) : Checked :=
  let at_ := s.whereIs c.g
  let q := s.quad at_.1 at_.2.1 at_.2.2
  if q.alus.isEmpty && q.adders.isEmpty then .good t
  else
    let ps := (d.aluLanes c).flatMap (d.paths c)
    if c.l.chk then
      let again := d.disagree c q true
      let t := t.garble c.g d (d.unseen c q)
      if (d.disagree c q false).isEmpty then .good t
      else if again.isEmpty then
        .good ((t.modQuad at_.1 at_.2.1 at_.2.2 fun q => q.used (ps.map Prod.fst ++ ps.map Prod.snd)).modCore
          at_.1 at_.2.1 fun k => { k with transient := k.transient + 1 })
      else .bad (maskFrom again)
    else
      .good ((t.garble c.g d (d.wrongLanes c q)).modQuad at_.1 at_.2.1 at_.2.2 fun q => q.used (ps.map Prod.fst))

/-- The Chandler takes back the frames of a core's cache: they are free again (R116). -/
def State.takeFrames (s : State) (die core : Nat) : State :=
  let part := s.partOfDie die
  ((s.core die core).frames.foldl
    (fun s f => match (s.part part).frameEntry f with
      | some pa => s.unitWrite part pa 8 (fEntry 0 0 0)
      | none => s)
    s).modCore die core fun k => { k with frames := [], refill := false, retryAt := none, deferAt := none }

/-- The Chandler fences a core and takes back the frames of its cache (R116, R237). -/
def State.fenceCore (s : State) (die core : Nat) : State :=
  ((s.takeFrames die core).modCore die core fun k => { k with fenced := true }).interrupt (.fenceCore die core)

/-- CHECK: nothing is written, the gang is killed and relaunched, and the core is fenced, whose frames the Chandler takes back
(R116, R237). -/
def State.takeCheck (s : State) (c : Ctx) (d : Desc) (lanes : W64) : State :=
  let at_ := s.whereIs c.g
  let s := (s.endRun c.g c.sl).killGang c.g 12 true (some (d.word, lanes)) c.pc .check
  s.fenceCore at_.1 at_.2.1

/-- A covered instruction under the ALUs of its quadrant. -/
def checkIssue (c : Ctx) (d : Desc) (s : State) (r : Res) : State :=
  match r with
  | .ok s' =>
    match aluIssue c d s s' with
    | .good t => finish c d s (.ok t)
    | .bad lanes => s.takeCheck c d lanes
  | r => finish c d s r

/-! ## Instructions in run-ahead (R94, R95) -/

/-- Whether an operand is poison; where WB is, no windowed name tells its register (R94; log entry 7). -/
def Use.poisoned (wb : Nat) (p : Poison) : Use → Bool
  | .s n k w => !w && (upFrom n k).any p.s.contains
  | .v n k w => (p.wb && decide (n < 120)) || (!w && (upFrom n k).any fun i => p.v.contains (physOf wb i))
  | .m n w => !w && p.m.contains n
  | .x n w => !w && p.x.contains n
  | .wb w => !w && p.wb
  | _ => false

/-- Marks or clears the poison of what an operand writes. -/
def Use.taint (wb : Nat) (on : Bool) (p : Poison) : Use → Poison
  | .s n k true =>
    let rs := upFrom n k
    { p with s := (p.s.filter fun r => !rs.contains r) ++ if on then rs.filter (· != 0) else [] }
  | .v n k true =>
    let rs := if p.wb && decide (n < 120) then List.range 256 else (upFrom n k).map (physOf wb)
    { p with v := (p.v.filter fun r => !rs.contains r) ++ if on then rs else [] }
  | .m n true => { p with m := (p.m.filter (· != n)) ++ if on then [n] else [] }
  | .x n true => { p with x := (p.x.filter (· != n)) ++ if on then [n] else [] }
  | .wb true => { p with wb := on }
  | _ => p

/-- Changes the run-ahead record of a group. -/
def State.modAhead (s : State) (g : GId) (f : Ahead → Ahead) : State :=
  s.modGrp g fun r => { r with ahead := r.ahead.map f }

/-- Run-ahead has met an end event; the run ends. The instruction that meets it is counted, as in the example of R99, but
a fetch fault has none (R95; log entry 7). -/
def State.aheadEnd (s : State) (c : Ctx) (cause : Nat) : State :=
  (s.modAhead c.g fun a =>
    { a with ended := some (a.ended.getD cause), count := if cause = 7 then a.count else a.count + 1 }).endRun c.g c.sl

/-- An instruction run ahead is counted; 256 of them or 32 pages end run-ahead (R95). -/
def State.aheadCount (s : State) (c : Ctx) : State :=
  s.modAhead c.g fun a =>
    let n := a.count + 1
    { a with count := n,
             ended := if a.ended.isSome then a.ended else if 256 ≤ n then some 0
               else if 32 ≤ a.pages.length then some 1 else none }

/-- An instruction ran ahead: counted, and the slot goes on. -/
def State.aheadOk (s : State) (c : Ctx) (d : Desc) (pc : W64) (endIt : Bool) : State :=
  let s := (s.setPc c.g c.sl pc).aheadCount c
  let past := match (s.grp c.g).ahead with
    | some a => a.ended.isSome
    | none => false
  s.countRun c.g c.sl (endIt || d.z || past)

/-- A page that run-ahead meets is recorded (R94, R95). -/
def State.aheadPage (s : State) (c : Ctx) (first : Bool) (f : FaultRec) : State :=
  (s.dropAts c.q f).modAhead c.g fun a =>
    { a with pages := (addPage a.pages (pageOf f first)).take 32, s2 := addS2 a.s2 f.s2 }

/-- What a lane of an instruction run ahead waits for; a host page that the batch lists already is not asked for again. -/
def State.aheadWaits (s : State) (c : Ctx) (w : Wait) : Bool :=
  match w, (s.grp c.g).ahead with
  | .ats page, some a => !a.pages.any fun p => p.host && p.page == page
  | _, _ => true

/-- The pages of a memory instruction run ahead: the page of each lane that raises XLATE, up to the 32nd, which ends
run-ahead; any other fault ends it with cause 4 (R94, R95). A lane that waits for a Translation Completion leaves the instruction to
be run ahead again when that has come (R83; log entry 48). -/
def aheadLanes (s : State) (c : Ctx) (first : Bool) : List (State → Tr) → State × Option Wait
  | [] => (s, none)
  | t :: r =>
    match t s with
    | .ok _ _ s => aheadLanes s c first r
    | .fault f =>
      if f.cls = .xlate then
        let s := s.aheadPage c first f
        if (match (s.grp c.g).ahead with | some a => decide (32 ≤ a.pages.length) | none => false) then
          (s.modAhead c.g fun a => { a with ended := some (a.ended.getD 1) }, none)
        else aheadLanes s c first r
      else (s.modAhead c.g fun a => { a with ended := some (a.ended.getD 4) }, none)
    | .abort s => (s.modAhead c.g fun a => { a with ended := some (a.ended.getD 4) }, none)
    | .wait w => if s.aheadWaits c w then (s, some w) else aheadLanes s c first r

/-- The operands that make a memory instruction's address: the last two (R174, R94). -/
def Desc.address (d : Desc) : List Use := d.uses.drop (d.uses.length - 2)

/-- One instruction in run-ahead (R94). `ts` are the translations of its active lanes, for an instruction that accesses
memory. A covered instruction that the re-issue does not mend is a fault that is not recorded; a transient disagreement
leaves no trace (R95, R96, R237). The monitors that a push or a pop would cancel stay (R96). A RET whose entry lies in memory
reads it there; when that read raises XLATE its page is added and its target is missing (R94, R178; log entry 7). -/
def runAhead (c : Ctx) (d : Desc) (a : Ahead) (s : State) (body : Ctx → State → Res)
    (ts : Ctx → List (State → Tr)) : State :=
  let wb := c.b.wb
  let bad := d.uses.any (Use.poisoned wb a.poison)
  let taintAll (s : State) (on : Bool) : State :=
    s.modAhead c.g fun a => { a with poison := d.uses.foldl (Use.taint wb on) a.poison }
  match d.ahead with
  | .ends => s.aheadEnd c 3
  | .exec =>
    if bad then (taintAll s true).aheadOk c d c.next false
    else
      match body c s with
      | .ok s' =>
        match if d.covered then aluIssue c d s s' else .good s' with
        | .good s' => (taintAll { s' with cores := s.cores } false).aheadOk c d c.next false
        | .bad _ => s.aheadEnd c 4
      | .trap _ => s.aheadEnd c 4
      | _ => s.aheadEnd c 3
  | .jump =>
    if bad then s.aheadEnd c 2
    else
      match body c s with
      | .ok s' => s'.aheadOk c d c.next false
      | .goto pc s' => State.aheadOk { s' with monitors := s.monitors, wakes := s.wakes } c d pc true
      | .trap f => if f.cls = .xlate then (s.aheadPage c false f).aheadEnd c 2 else s.aheadEnd c 4
      | .aborted _ => s.aheadEnd c 4
      | .stay w s' => if w.suspends then s'.park c w else s.aheadEnd c 3
      | _ => s.aheadEnd c 3
  | .mem =>
    if d.address.any (Use.poisoned wb a.poison) then (taintAll s true).aheadOk c d c.next true
    else
      match aheadLanes s c (a.count == 0) (ts c) with
      | (t, none) => (taintAll t true).aheadOk c d c.next true
      | (t, some w) => t.park c w

/-- The allocation that R41 tests against: while WB is poison no windowed name can be told beyond it (R94). -/
def Grp.allocation (r : Grp) : Nat :=
  match r.ahead with
  | some a => if a.poison.wb then 1024 else r.valloc
  | none => r.valloc

/-! ## Issue -/

/-- Issues one instruction word: its checks, its body, its outcome. `ts` gives the translations of its active lanes to
run-ahead. -/
def issueMem (d : Desc) (s : State) (body : Ctx → State → Res) (ts : Ctx → List (State → Tr)) :
    Host.Outcome State Fault Refusal :=
  match s.issuing with
  | none => .fault .noIssuingSlot
  | some c =>
    let debug := (s.part c.q.part).debug
    let d := d.resolve (s.block c.bid)
    match d.check c.grp.priv debug c.grp.allocation c.b.wb c.l.tiles with
    | some f => .next (if c.grp.ahead.isSome then s.aheadEnd c 4 else s.fail c f)
    | none =>
      match c.grp.ahead with
      | some a => .next (runAhead c d a s body ts)
      | none =>
        if d.lookaheadHit c.sl c.b then .next (s.fail c { cls := .lookahead })
        else if d.interlocked c.sl c.b then .next (s.stall c)
        else .next (if d.covered then checkIssue c d s (body c s) else finish c d s (body c s))

/-- Issues one instruction word that accesses no memory in run-ahead. -/
def issue (d : Desc) (s : State) (body : Ctx → State → Res) : Host.Outcome State Fault Refusal :=
  issueMem d s body fun _ => []

/-- Issues an instruction whose only effect is on the group's bank. -/
def issueBank (d : Desc) (s : State) (f : Ctx → Bank → Bank) : Host.Outcome State Fault Refusal :=
  issue d s fun c s => .ok (s.modBank c.g (f c))

/-- The state after an instruction whose only effect is on the group's bank. -/
def bankNext (c : Ctx) (d : Desc) (f : Ctx → Bank → Bank) (s : State) : State :=
  (s.modBank c.g (f c)).retire c d c.next true false

/-! ## Invalidation (R101, R105) -/

/-- The next fetch of a slot has to translate anew in a partition (R105). -/
def State.fetchAnew (s : State) (part : Nat) (g : GId) (sl : SlotId) : Bool :=
  let q := s.reqOf g
  let va := va57 ((s.grp g).b.slot sl).pc.toNat
  q.part == part && !((s.core q.die q.core).tlb ++ (s.die q.die).tlb).any fun t => t.hits q va

/-- A run whose next fetch has to translate anew ends, one in progress and one that an interlock stalls (R105, R342). -/
def State.endFetch (s : State) (part : Nat) (e : Nat × Core) : State :=
  e.2.quads.foldl
    (fun s p =>
      let s := match p.2.cur with
        | none => s
        | some (g, sl, _) => if s.fetchAnew part g sl then s.endRun g sl else s
      match p.2.held with
      | none => s
      | some (g, sl, _) =>
        if s.fetchAnew part g sl then s.modQuad (e.1 / 256) (e.1 % 256) p.1 fun x => { x with held := none } else s)
    s

/-- A WAITC that waits goes through its translation anew: it is issued again, under its deadline (R101, R307). Until then its
monitor stays armed, and what it finds counts (R162; log entry 9). -/
def Slot.repoll (x : Slot) : Slot :=
  match x.wait with
  | .cond _ _ _ _ dl _ _ _ => { x with wait := .none, until_ := dl }
  | _ => x

/-- The same for both slots of a bank. -/
def Bank.repoll (b : Bank) : Bank := (b.modSlot .a Slot.repoll).modSlot .b Slot.repoll

/-- Starts an invalidation (R101): runs whose fetch it covers end, and WAITCs of the partition that wait are issued again. -/
def State.invalStart (s : State) (part : Nat) (x : Extent) (who : Asker) : State × Nat :=
  let id := s.seq
  let s := (State.invalidate { s with seq := s.seq + 1 } part x).modPart part fun p =>
    { p with invs := p.invs ++ [{ id := id, ext := x, asker := who }] }
  let s := s.cores.foldl (fun s e => s.endFetch part e) s
  ({ s with groups := s.groups.map fun e =>
      (e.1, if s.groupPart e.1 = part then
          { e.2 with b := e.2.b.repoll, ahead := e.2.ahead.map fun a => { a with saved := a.saved.repoll } } else e.2) }, id)

end Sys2Proof.Machine
end

