-- ==== Sys2Proof/Machine/Scalar.lean ====
section
/-! DEFINITION. The scalar pipe: arithmetic, immediates, constants, special registers, the window and XLT
(R52 to R76, R87). -/

namespace Sys2Proof.Machine

/-! ## Shared arithmetic -/

/-- A scalar instruction of two sources: s(d) ← f (s(a)) (s(b)). -/
def scalar2 (d a b : BitVec 7) (f : W64 → W64 → W64) (_ : Ctx) (k : Bank) : Bank :=
  k.setS d.toNat (f (k.getS a.toNat) (k.getS b.toNat))

/-- A scalar instruction of one source. -/
def scalar1 (d a : BitVec 7) (f : W64 → W64) (_ : Ctx) (k : Bank) : Bank := k.setS d.toNat (f (k.getS a.toNat))

/-- A scalar instruction that reads its destination too: s(d) ← f (s(d)) (s(a)) (s(b)). -/
def scalar3 (d a b : BitVec 7) (f : W64 → W64 → W64 → W64) (_ : Ctx) (k : Bank) : Bank :=
  k.setS d.toNat (f (k.getS d.toNat) (k.getS a.toNat) (k.getS b.toNat))

/-- 1 or 0 as a scalar. -/
def w01 (b : Bool) : W64 := if b then 1 else 0

/-- The high half of a signed product (R67). -/
def mulHigh (a b : W64) : W64 := (a.signExtend 128 * b.signExtend 128).extractLsb' 64 64

/-- The high half of a natural product (R67). -/
def mulHighN (a b : W64) : W64 := (a.setWidth 128 * b.setWidth 128).extractLsb' 64 64

/-- The number of 1 bits among the low n of x. -/
def popCount (x : Nat) : Nat → Nat
  | 0 => 0
  | n + 1 => popCount x n + b01 (x.testBit n)

/-- The low n bits of x in the other order. -/
def reverseBits (x : Nat) : Nat → Nat
  | 0 => 0
  | n + 1 => 2 * reverseBits x n + b01 (x.testBit n)

/-- BFX on words of w bits: len bits from pos, bits beyond the word read as 0 (R69, R241). -/
def bfx (w a pos len : Nat) : Nat := a % 2 ^ w / 2 ^ pos % 2 ^ len

/-- BFI on words of w bits: len bits at pos replaced, bits beyond the word dropped (R69, R241). -/
def bfi (w d a pos len : Nat) : Nat :=
  let n := if pos + len ≤ w then len else w - pos
  d % 2 ^ pos + a % 2 ^ n * 2 ^ pos + d / 2 ^ (pos + n) * 2 ^ (pos + n)

/-- min(x, n). -/
def atMost (x n : Nat) : Nat := if x ≤ n then x else n

/-- DIV (R70). -/
def divS (a b : W64) : W64 := if b = 0 then -1 else BitVec.ofInt 64 (a.toInt.tdiv b.toInt)
/-- DIVN (R70). -/
def divN (a b : W64) : W64 := if b = 0 then -1 else a.udiv b
/-- REM (R70). -/
def remS (a b : W64) : W64 := if b = 0 then a else BitVec.ofInt 64 (a.toInt.tmod b.toInt)
/-- REMN (R70). -/
def remN (a b : W64) : W64 := if b = 0 then a else a.umod b

/-- ADDW (R68): the low 32 bits of the sum, sign-extended. -/
def addW (a b : W64) : W64 := ((a + b).setWidth 32).signExtend 64

/-! ## SA (R67) -/

/-- ADD (R67). -/
def execAdd (z : Bool) (d a b : BitVec 7) (s : State) := issueBank (descAdd z d a b) s (scalar2 d a b (· + ·))
/-- SUB (R67). -/
def execSub (z : Bool) (d a b : BitVec 7) (s : State) := issueBank (descSub z d a b) s (scalar2 d a b (· - ·))
/-- AND (R67). -/
def execAnd (z : Bool) (d a b : BitVec 7) (s : State) := issueBank (descAnd z d a b) s (scalar2 d a b (· &&& ·))
/-- OR (R67). -/
def execOr (z : Bool) (d a b : BitVec 7) (s : State) := issueBank (descOr z d a b) s (scalar2 d a b (· ||| ·))
/-- XOR (R67). -/
def execXor (z : Bool) (d a b : BitVec 7) (s : State) := issueBank (descXor z d a b) s (scalar2 d a b (· ^^^ ·))
/-- SHL (R67). -/
def execShl (z : Bool) (d a b : BitVec 7) (s : State) :=
  issueBank (descShl z d a b) s (scalar2 d a b fun x y => x <<< (y.toNat % 64))
/-- SHR (R67). -/
def execShr (z : Bool) (d a b : BitVec 7) (s : State) :=
  issueBank (descShr z d a b) s (scalar2 d a b fun x y => x >>> (y.toNat % 64))
/-- SRA (R67). -/
def execSra (z : Bool) (d a b : BitVec 7) (s : State) :=
  issueBank (descSra z d a b) s (scalar2 d a b fun x y => x.sshiftRight (y.toNat % 64))
/-- MUL (R67). -/
def execMul (z : Bool) (d a b : BitVec 7) (s : State) := issueBank (descMul z d a b) s (scalar2 d a b (· * ·))
/-- MULH (R67). -/
def execMulh (z : Bool) (d a b : BitVec 7) (s : State) := issueBank (descMulh z d a b) s (scalar2 d a b mulHigh)
/-- MULHN (R67). -/
def execMulhn (z : Bool) (d a b : BitVec 7) (s : State) := issueBank (descMulhn z d a b) s (scalar2 d a b mulHighN)
/-- MIN (R67). -/
def execMin (z : Bool) (d a b : BitVec 7) (s : State) :=
  issueBank (descMin z d a b) s (scalar2 d a b fun x y => if y.slt x then y else x)
/-- MAX (R67). -/
def execMax (z : Bool) (d a b : BitVec 7) (s : State) :=
  issueBank (descMax z d a b) s (scalar2 d a b fun x y => if x.slt y then y else x)
/-- MINN (R67). -/
def execMinn (z : Bool) (d a b : BitVec 7) (s : State) :=
  issueBank (descMinn z d a b) s (scalar2 d a b fun x y => if y.ult x then y else x)
/-- MAXN (R67). -/
def execMaxn (z : Bool) (d a b : BitVec 7) (s : State) :=
  issueBank (descMaxn z d a b) s (scalar2 d a b fun x y => if x.ult y then y else x)
/-- ANDN (R67). -/
def execAndn (z : Bool) (d a b : BitVec 7) (s : State) :=
  issueBank (descAndn z d a b) s (scalar2 d a b fun x y => x &&& ~~~y)

/-! ## SB (R68 to R70) -/

/-- SLT (R68). -/
def execSlt (z : Bool) (d a b : BitVec 7) (s : State) :=
  issueBank (descSlt z d a b) s (scalar2 d a b fun x y => w01 (x.slt y))
/-- SLTN (R68). -/
def execSltn (z : Bool) (d a b : BitVec 7) (s : State) :=
  issueBank (descSltn z d a b) s (scalar2 d a b fun x y => w01 (x.ult y))
/-- SEQ (R68). -/
def execSeq (z : Bool) (d a b : BitVec 7) (s : State) :=
  issueBank (descSeq z d a b) s (scalar2 d a b fun x y => w01 (x == y))
/-- CLZ (R68). -/
def execClz (z : Bool) (d a : BitVec 7) (s : State) :=
  issueBank (descClz z d a) s (scalar1 d a fun x => BitVec.ofNat 64 (64 - bitLen x.toNat))
/-- POPC (R68). -/
def execPopc (z : Bool) (d a : BitVec 7) (s : State) :=
  issueBank (descPopc z d a) s (scalar1 d a fun x => BitVec.ofNat 64 (popCount x.toNat 64))
/-- BREV (R68). -/
def execBrev (z : Bool) (d a : BitVec 7) (s : State) :=
  issueBank (descBrev z d a) s (scalar1 d a fun x => BitVec.ofNat 64 (reverseBits x.toNat 64))
/-- ROTL (R68). -/
def execRotl (z : Bool) (d a b : BitVec 7) (s : State) :=
  issueBank (descRotl z d a b) s (scalar2 d a b fun x y => x.rotateLeft (y.toNat % 64))
/-- BFX (R69). -/
def execBfx (z : Bool) (d a b : BitVec 7) (s : State) :=
  issueBank (descBfx z d a b) s (scalar2 d a b fun x y =>
    BitVec.ofNat 64 (bfx 64 x.toNat (bits y.toNat 0 6) (atMost (bits y.toNat 8 7) 64)))
/-- BFI (R69). -/
def execBfi (z : Bool) (d a b : BitVec 7) (s : State) :=
  issueBank (descBfi z d a b) s (scalar3 d a b fun r x y =>
    BitVec.ofNat 64 (bfi 64 r.toNat x.toNat (bits y.toNat 0 6) (atMost (bits y.toNat 8 7) 64)))
/-- DIV (R70). -/
def execDiv (z : Bool) (d a b : BitVec 7) (s : State) := issueBank (descDiv z d a b) s (scalar2 d a b divS)
/-- DIVN (R70). -/
def execDivn (z : Bool) (d a b : BitVec 7) (s : State) := issueBank (descDivn z d a b) s (scalar2 d a b divN)
/-- REM (R70). -/
def execRem (z : Bool) (d a b : BitVec 7) (s : State) := issueBank (descRem z d a b) s (scalar2 d a b remS)
/-- REMN (R70). -/
def execRemn (z : Bool) (d a b : BitVec 7) (s : State) := issueBank (descRemn z d a b) s (scalar2 d a b remN)
/-- CSEL (R68). -/
def execCsel (z : Bool) (d a b : BitVec 7) (s : State) :=
  issueBank (descCsel z d a b) s (scalar3 d a b fun r x y => if r = 0 then y else x)
/-- ADDW (R68). -/
def execAddw (z : Bool) (d a b : BitVec 7) (s : State) := issueBank (descAddw z d a b) s (scalar2 d a b addW)

/-! ## Immediate forms and constants (R25, R71 to R73) -/

/-- imm11, sign-extended (R25). -/
def imm11 (i : BitVec 11) : W64 := i.signExtend 64

/-- ADDI (R71). -/
def execAddi (z : Bool) (d a : BitVec 7) (i : BitVec 11) (s : State) :=
  issueBank (descAddi z d a i) s (scalar1 d a (· + imm11 i))
/-- ANDI (R71). -/
def execAndi (z : Bool) (d a : BitVec 7) (i : BitVec 11) (s : State) :=
  issueBank (descAndi z d a i) s (scalar1 d a (· &&& imm11 i))
/-- ORI (R71). -/
def execOri (z : Bool) (d a : BitVec 7) (i : BitVec 11) (s : State) :=
  issueBank (descOri z d a i) s (scalar1 d a (· ||| imm11 i))
/-- XORI (R71). -/
def execXori (z : Bool) (d a : BitVec 7) (i : BitVec 11) (s : State) :=
  issueBank (descXori z d a i) s (scalar1 d a (· ^^^ imm11 i))
/-- SHLI (R72). -/
def execShli (z : Bool) (d a : BitVec 7) (n : BitVec 6) (s : State) :=
  issueBank (descShli z d a n) s (scalar1 d a (· <<< n.toNat))
/-- SHRI (R72). -/
def execShri (z : Bool) (d a : BitVec 7) (n : BitVec 6) (s : State) :=
  issueBank (descShri z d a n) s (scalar1 d a (· >>> n.toNat))
/-- SRAI (R72). -/
def execSrai (z : Bool) (d a : BitVec 7) (n : BitVec 6) (s : State) :=
  issueBank (descSrai z d a n) s (scalar1 d a fun x => x.sshiftRight n.toNat)
/-- ROTLI (R72). -/
def execRotli (z : Bool) (d a : BitVec 7) (n : BitVec 6) (s : State) :=
  issueBank (descRotli z d a n) s (scalar1 d a fun x => x.rotateLeft n.toNat)
/-- SLTI (R71). -/
def execSlti (z : Bool) (d a : BitVec 7) (i : BitVec 11) (s : State) :=
  issueBank (descSlti z d a i) s (scalar1 d a fun x => w01 (x.slt (imm11 i)))
/-- LI (R73). -/
def execLi (z : Bool) (d : BitVec 7) (i : BitVec 18) (s : State) :=
  issueBank (descLi z d i) s fun _ k => k.setS d.toNat (i.signExtend 64)
/-- LIS (R73). -/
def execLis (z : Bool) (d : BitVec 7) (i : BitVec 18) (s : State) :=
  issueBank (descLis z d i) s (scalar1 d d fun x => x <<< 18 ||| i.setWidth 64)

/-! ## Special registers (R56 to R66, R74, R75) -/

/-- lmode (R61). -/
def Launch.lmode (l : Launch) : Nat := l.prio * 16 + b01 l.pre * 8 + b01 l.chk * 4 + l.grade

/-- xperm of a translation register: the AND of the stages (R63, R83). -/
def XReg.perm (x : XReg) : Nat :=
  if !x.v then 0
  else
    let p := x.p1.and x.p2
    b01 x.sp * 64 + (if x.sp then 0 else psizeCode x.size * 16) + b01 p.a * 8 + b01 p.w * 4 + b01 p.rd * 2 + 1

/-- The value that GETS reads (R56). -/
def getsVal (c : Ctx) (s : State) (i : Nat) : W64 :=
  let n := BitVec.ofNat 64
  let x := c.b.getX (i % 8)
  let G := s.flatOf c.g
  let t := s.grp (s.target c)
  if i < 0x10 then
    match i with
    | 0 => c.pc
    | 1 => n c.b.wb
    | 2 => n c.grp.valloc
    | 3 => n c.b.rmode
    | 4 => (s.block c.bid).alflags.setWidth 64
    | 5 => c.b.stkbase
    | 6 => c.b.stklim
    | 7 => w01 (c.sl == .b)
    | _ => n c.l.nlevels
  else if i < 0x18 then n (c.l.idx G (i - 0x10))
  else if i < 0x20 then n (c.l.extent (i - 0x18))
  else if i < 0x100 then
    match i with
    | 0x20 => c.l.record.getD 2 0
    | 0x21 => n c.l.id
    | 0x22 => c.l.record.getD 4 0
    | 0x23 => n c.l.lmode
    | 0x24 => n (c.l.relaunchOf (c.l.unitOf c.bid.flat))
    | _ => n (s.physOfGroup c.g)
  else if i < 0x108 then (if x.v then canon x.base else 0)
  else if i < 0x110 then (if x.v then n x.limit else 0)
  else if i < 0x118 then n x.perm
  else if i < 0x120 then (if x.sp then n x.base else 0)
  else
    match i with
    | 0x400 => n (s.block c.bid).tgroup
    | 0x401 => t.epc
    | 0x402 => t.ecause
    | 0x403 => t.edetail
    | _ => if x.v then n x.frame else 0

/-- GETS (R74). -/
def execGets (z : Bool) (d : BitVec 7) (i : BitVec 11) (s : State) :=
  issue (descGets z d i) s fun c s => .ok (s.modBank c.g fun b => b.setS d.toNat (getsVal c s i.toNat))

/-- The effect of SETS on a selector other than xlt and xsp (R57 to R59, R75, R376). -/
def setsEffect (c : Ctx) (s : State) (i : Nat) (v : W64) : Res :=
  match i with
  | 3 => if 5 ≤ v.toNat then .trap (flt1 .ill v.toNat) else .ok (s.modBank c.g fun b => { b with rmode := v.toNat })
  | 4 => if 256 ≤ v.toNat then .trap (flt1 .ill v.toNat) else .ok (s.modBlock c.bid fun b => b.clearAl v)
  | 6 =>
    if v.toNat % 64 ≠ 0 || v.ult c.b.stkbase then .trap (flt1 .ill v.toNat)
    else .ok (s.modBank c.g fun b => { b with stklim := v })
  | 0x400 =>
    if 16 ≤ v.toNat || (s.grp? (.grp c.bid.launch c.bid.flat v.toNat)).isNone then .trap (flt1 .ill v.toNat)
    else .ok (s.modBlock c.bid fun b => { b with tgroup := v.toNat })
  | _ =>
    if !canonical v.toNat || v.toNat % 4 ≠ 0 then .trap (flt1 .ill v.toNat)
    else .ok (s.modGrp (s.target c) fun r => { r with epc := v })

/-- SETS (R74). -/
def execSets (z : Bool) (a : BitVec 7) (i : BitVec 11) (s : State) :=
  issue (descSets z a i) s fun c s => setsEffect c s i.toNat (c.b.getS a.toNat)

/-- XLT: SETS of xlt n (R64, R87). It suspends fetch (R90). -/
def xltEffect (c : Ctx) (s : State) (n : Nat) (v : W64) : Res :=
  if !canonical v.toNat then .trap (flt1 .ill v.toNat)
  else
    match s.walk c.q (va57 v.toNat) .read with
    | .abort s => .aborted s
    | .wait w => .stay w s
    | .perm sub tab _ => .trap { cls := .perm, sub := sub, detail := v, table := tab }
    | .xlate host s2 _ => .trap { cls := .xlate, detail := v, page := some (.read, host), s2 := s2 }
    | .ok t s => .okEnd (s.modBank c.g fun b => b.setX n (xregOf v.toNat t))

/-- The translation of XLT in run-ahead, where no permission is tested. -/
def xltAhead (c : Ctx) (v : W64) (s : State) : Tr :=
  if !canonical v.toNat then .fault (flt1 .ill v.toNat)
  else
    match s.walk c.q (va57 v.toNat) .read with
    | .abort s => .abort s
    | .wait w => .wait w
    | .perm sub tab _ => .fault { cls := .perm, sub := sub, detail := v, table := tab }
    | .xlate host s2 _ => .fault { cls := .xlate, detail := v, page := some (.read, host), s2 := s2 }
    | .ok t s => .ok (t.at (va57 v.toNat)) t.repl s

/-- XLT (R87). -/
def execXlt (z : Bool) (a : BitVec 7) (n : BitVec 3) (s : State) :=
  issueMem (descXlt z a n) s (fun c s => xltEffect c s n.toNat (c.b.getS a.toNat))
    fun c => [xltAhead c (c.b.getS a.toNat)]

/-- The scratchpad form of a translation register (R66). -/
def xspReg (base scratch : Nat) : XReg :=
  let p : Perm := { rd := true, w := true, a := true, x := false }
  { v := true, sp := true, base := base, frame := 0, limit := scratch - base, size := .k64, p1 := p, p2 := p }

/-- SETS of xsp n (R66). -/
def execSetsXsp (z : Bool) (a : BitVec 7) (n : BitVec 3) (s : State) :=
  issue (descSetsXsp z a n) s fun c s =>
    let v := c.b.getS a.toNat
    if c.scratch ≤ v.toNat then .trap (flt1 .limit v.toNat)
    else .ok (s.modBank c.g fun b => b.setX n.toNat (xspReg v.toNat c.scratch))

/-- WIN (R35, R76). -/
def execWin (z : Bool) (a : BitVec 7) (i : BitVec 11) (s : State) :=
  issue (descWin z a i) s fun c s =>
    let v := c.b.getS a.toNat + imm11 i
    if v.toNat % 8 ≠ 0 || c.grp.valloc < v.toNat + 8 then .trap (flt1 .limit v.toNat)
    else .ok (s.modBank c.g fun b => { b with wb := v.toNat })

end Sys2Proof.Machine
end

