-- ==== Sys2Proof/Machine/Access.lean ====
section
/-! DEFINITION. Accesses of a group to global memory and to scratchpads under the determinism grades: staging, the commit
token, accesses lane by lane (R49, R51, R171, R173, R351 to R361, R383). -/

namespace Sys2Proof.Machine

/-! ## Staging (R353 to R357) -/

/-- The launch is ticketed. -/
def Ctx.ticketed (c : Ctx) : Bool := c.l.grade == 1
/-- The launch is of token grade. -/
def Ctx.tokened (c : Ctx) : Bool := c.l.grade == 2

/-- What names a byte to the staging list: a replicated page's byte has the same name at every replica (R144). -/
def stageKey (repl : Bool) (pa : Nat) : Nat := if repl then 2 ^ 60 + pa % 2 ^ 38 else pa

/-- The byte that a staging list holds for a name, the youngest staged store counting; a staged RED or posting holds
none (R355). -/
def stagedByte (key : Nat) : List Staged → Option Nat
  | [] => none
  | x :: r =>
    match stagedByte key r with
    | some b => some b
    | none =>
      match x with
      | .store pa n v repl =>
        let k := stageKey repl pa
        if k ≤ key ∧ key < k + n then some (bits v.toNat (8 * (key - k)) 8) else none
      | _ => none

/-- The value of n bytes of memory overlaid with a block's staged bytes (R355). -/
def overlay (l : List Staged) (key v : Nat) : Nat → Nat
  | 0 => 0
  | n + 1 => (stagedByte key l).getD (v % 256) + 256 * overlay l (key + 1) (v / 256) n

/-- The address of a staged write. -/
def Staged.pa? : Staged → Option Nat
  | .store pa _ _ _ => some pa
  | .red _ pa _ _ => some pa
  | .launch _ _ => none

/-- Adds an element to the block's staging list, with the translations that led to it (R101, R353). -/
def State.stage (s : State) (part : Nat) (b : BId) (x : Staged) : State :=
  let by_ := match x.pa? with
    | some pa => s.usedBy part b pa
    | none => []
  s.modBlock b fun k => { k with staged := k.staged ++ [x], stagedBy := distinct (k.stagedBy ++ by_) }

/-- The element bytes of a copy (R179). -/
def Copy.esize (c : Copy) : Nat := if c.kind = 2 && c.op == 2 then 8 else 4

/-- The elements that a block's list holds, or will hold for its copies and drains, which are charged when they issue or
start (R357). -/
def State.stagedCount (s : State) (b : BId) : Nat :=
  (s.block b).staged.length +
    ((s.copies.filter fun c => c.bid == b && c.kind != 0).map fun c => (c.len - c.done) / c.esize).foldl (· + ·) 0 +
    ((s.matq.filter fun m => bidOf m.g == b).map (·.due)).foldl (· + ·) 0

/-- A block may stage 65,536 elements: an instruction that would take the list past that raises LIMIT and stages nothing
(R357). -/
def roomOk (c : Ctx) (r : Res) : Res :=
  if !c.ticketed then r
  else
    let full (s : State) : Option FaultRec :=
      let n := s.stagedCount c.bid
      if 65536 < n then some { cls := .limit, sub := 0xC0, detail := BitVec.ofNat 64 n } else none
    match r with
    | .ok s => match full s with | some f => .trap f | none => r
    | .okEnd s => match full s with | some f => .trap f | none => r
    | _ => r

/-! ## One access of a group (R353, R355, R356) -/

/-- A load: memory, overlaid with the block's own staged bytes. -/
def State.gLoad (s : State) (c : Ctx) (pa n : Nat) (repl : Bool) (h : Nat) : Acc :=
  (s.load c.q (loadAddr c.q repl pa) n h).bind fun v s =>
    .ok (if c.ticketed then overlay (s.block c.bid).staged (stageKey repl pa) v n else v) s

/-- A store: staged in a ticketed launch. -/
def State.gStore (s : State) (c : Ctx) (pa n v : Nat) (repl : Bool) (h : Nat) : Acc :=
  if c.ticketed then .ok 0 (s.stage c.q.part c.bid (.store pa n (BitVec.ofNat 64 v) repl)) else s.store c.q pa n v h repl

/-- A read-modify-write: in a ticketed launch its write is staged. -/
def State.gRmw (s : State) (c : Ctx) (pa n h : Nat) (f : Nat → Option Nat) : Acc :=
  if c.ticketed then
    (s.gLoad c pa n false h).bind fun old s =>
      match f old with
      | none => .ok old s
      | some v => .ok old (s.stage c.q.part c.bid (.store pa n (BitVec.ofNat 64 v) false))
  else s.rmw c.q pa n h f

/-- A RED: its operand is staged in a ticketed launch; in ticketed and token launches FADD is never gathered (R351). -/
def State.gRed (s : State) (c : Ctx) (pa n : Nat) (op : AOp) (v : Nat) : Acc :=
  if c.ticketed then .ok 0 (s.stage c.q.part c.bid (.red op pa n (BitVec.ofNat 64 v)))
  else s.red c.q pa n op v (c.tokened && op == .fadd)

/-- Every block of lower index has released (R356). -/
def Ctx.lowerReleased (c : Ctx) (s : State) : Bool := decide (c.bid.flat ≤ (s.launch c.bid.launch).miller)

/-! ## The commit token at an access (R361) -/

/-- The group holds the commit token. -/
def State.holdsToken (s : State) (g : GId) : Bool := (s.launch (bidOf g).launch).token == s.flatOf g

/-- PERM of R361 at an address. -/
def tokenFault (lane : Option Nat) (va : Nat) : FaultRec :=
  { cls := .perm, sub := 2, lane := lane, detail := BitVec.ofNat 64 (2 ^ 63 + va57 va) }

/-- An access that needs the token while the group does not hold it: every access when `tok` says so, else one in the shared
range (R361). An instruction without `tok` needs none. -/
def State.tokenCheck (s : State) (c : Ctx) (tok : Option Bool) (lane : Option Nat) (va : Nat) : Option FaultRec :=
  match tok with
  | none => none
  | some always =>
    if !c.tokened || s.holdsToken c.g then none
    else if always || (decide (c.l.shBase ≤ va) && decide (va < c.l.shBase + c.l.shLen)) then some (tokenFault lane va)
    else none

/-- A translation, and then the check of the token (R361). -/
def Tr.token (r : Tr) (c : Ctx) (tok : Option Bool) (lane : Option Nat) (va : Nat) : Tr :=
  match r with
  | .ok pa repl s =>
    match s.tokenCheck c tok lane va with
    | some f => .fault f
    | none => .ok pa repl s
  | r => r

/-! ## Scratchpads (R171 to R173) -/

/-- The block of a gang peer (R171). -/
def Ctx.peer (c : Ctx) (p : Nat) : BId :=
  let e := c.l.gangSize
  let i := c.bid.flat % e
  { c.bid with flat := c.bid.flat - i + (i + p) % e }

/-- n bytes of a block's scratchpad. -/
def State.scLoad (s : State) (b : BId) (off n : Nat) : Nat := loadN (s.block b).scratch off n

/-- Writes n bytes of a block's scratchpad. -/
def State.scStore (s : State) (b : BId) (off n v : Nat) : State :=
  s.modBlock b fun k => { k with scratch := storeN k.scratch off v n }

/-! ## Lanes -/

/-- The outcome of the accesses of an instruction, lane by lane. -/
inductive Loop where
  | done (vals : List (Nat × Nat)) (s : State)
  /-- A lane met an abort completion; the values are those of the lanes below. -/
  | aborted (vals : List (Nat × Nat)) (s : State)
  | wait (w : Wait)
  deriving DecidableEq, Repr, Inhabited

/-- The lanes above one that met an abort completion: whether each is performed is open (R383; log entry 13). -/
def lanesAfter {α : Type} (f : State → α → Acc) : List α → State → State
  | [], s => s
  | x :: r, s =>
    let s' : State := { s with free := s.free + 1 }
    if Config.laneAfterAbort s.free then
      match f s' x with
      | .ok _ t => lanesAfter f r t
      | .abort t => lanesAfter f r t
      | .wait _ => lanesAfter f r s'
    else lanesAfter f r s'

/-- Performs an access for each lane in ascending order; `lane` tells the lane of an element (R51). -/
def lanesDo {α : Type} (f : State → α → Acc) (lane : α → Nat) : List α → State → Loop
  | [], s => .done [] s
  | x :: r, s =>
    match f s x with
    | .wait w => .wait w
    | .abort t => .aborted [] (lanesAfter f r t)
    | .ok v t =>
      match lanesDo f lane r t with
      | .done vs t => .done ((lane x, v) :: vs) t
      | .aborted vs t => .aborted ((lane x, v) :: vs) t
      | .wait w => .wait w

/-- The value of a lane in a list. -/
def laneVal (vs : List (Nat × Nat)) (l : Nat) : Nat := (alook vs l).getD 0

/-- How an instruction ends after its lanes' accesses; one that must wait does so in the state in which it began. -/
def Loop.finish (o : Loop) (s : State) (f : List (Nat × Nat) → State → Res) : Res :=
  match o with
  | .done vs s => f vs s
  | .aborted _ s => .aborted s
  | .wait w => .stay w s

end Sys2Proof.Machine
end

