-- ==== Sys2Proof/Machine/Sync.lean ====
section
/-! DEFINITION. The issue-priority token, barriers, the commit token, LAUNCH (R290 to R292, R323, R346 to R349, R359 to
R363). -/

namespace Sys2Proof.Machine

/-! ## PASS, TAKE, QUERY (R290, R291) -/

/-- The token of the group's quadrant. -/
def State.prioOf (s : State) (g : GId) : Option GId :=
  let p := s.whereIs g
  (s.quad p.1 p.2.1 p.2.2).prio

/-- Gives the token of the group's quadrant to a group, or to none, and the group or the first waiter has it (R291). -/
def State.setPrio (s : State) (g : GId) (h : Option GId) : State :=
  let p := s.whereIs g
  match h with
  | some k => s.givePrio p.1 p.2.1 p.2.2 k
  | none => (s.modQuad p.1 p.2.1 p.2.2 fun q => { q with prio := none }).grantPrio (fun _ => false) p.1 p.2.1 p.2.2

/-- A group of the issuing block is resident in the issuing group's quadrant. -/
def State.besides (s : State) (c : Ctx) (t : Nat) : Bool :=
  match s.grp? (.grp c.bid.launch c.bid.flat t) with
  | none => false
  | some r => !isHdl c.g && r.quad == c.grp.quad && r.run != .exited

/-- PASS (R291). -/
def passEffect (c : Ctx) (s : State) (d a : Nat) : Res :=
  let t := (c.b.getS a).toNat
  let out (s : State) (v : W64) : Res := .ok (s.modBank c.g fun b => b.setS d v)
  if s.prioOf c.g ≠ some c.g then out s 0
  else if t = 2 ^ 64 - 1 then out (s.setPrio c.g none) 1
  else if t < 16 && s.besides c t then out (s.setPrio c.g (some (.grp c.bid.launch c.bid.flat t))) 1
  else out s 2

/-- TAKE (R291): the control is read once; a TAKE that waits ends when the token is given to its group. -/
def takeEffect (c : Ctx) (s : State) (d a : Nat) : Res :=
  let v := c.b.getS a
  if 2 ≤ v.toNat then .trap (flt1 .ill v.toNat)
  else if s.prioOf c.g = some c.g || s.prioOf c.g = none then
    .ok ((s.setPrio c.g (some c.g)).modBank c.g fun b => b.setS d 1)
  else if v = 0 then .ok (s.modBank c.g fun b => b.setS d 0)
  else .stay (.prio d) s

/-- QUERY (R291). -/
def queryEffect (c : Ctx) (s : State) (d : Nat) : Res :=
  let p := s.prioOf c.g
  .ok (s.modBank c.g fun b => b.setS d (BitVec.ofNat 64 (2 * b01 p.isNone + b01 (p == some c.g))))

/-- PASS (R291). -/
def execPass (z : Bool) (d a : BitVec 7) (s : State) :=
  issue (descPass z d a) s fun c s => passEffect c s d.toNat a.toNat
/-- TAKE (R291). -/
def execTake (z : Bool) (d a : BitVec 7) (s : State) :=
  issue (descTake z d a) s fun c s => takeEffect c s d.toNat a.toNat
/-- QUERY (R291). -/
def execQuery (z : Bool) (d : BitVec 7) (s : State) := issue (descQuery z d) s fun c s => queryEffect c s d.toNat

/-! ## Barriers (R323, R346 to R348) -/

/-- The selector of the block barrier (R346). -/
def blockSel : W64 := BitVec.allOnes 64

/-- The block of index 0 of a block's gang, which holds the gang's counters (R347). -/
def State.gangHead (s : State) (b : BId) : BId :=
  let l := s.launch b.launch
  { b with flat := l.unitOf b.flat * l.gangSize }

/-- The generation and the count of a barrier (R347). -/
def State.barrier (s : State) (b : BId) (sel : W64) : Nat × Nat :=
  if sel = blockSel then ((s.block b).bgen, (s.block b).bcnt)
  else
    let v := s.scLoad (s.gangHead b) sel.toNat 8
    (v / 2 ^ 32, v % 2 ^ 32)

/-- Writes them. -/
def State.setBarrier (s : State) (b : BId) (sel : W64) (gen cnt : Nat) : State :=
  if sel = blockSel then s.modBlock b fun k => { k with bgen := gen % 2 ^ 32, bcnt := cnt }
  else s.scStore (s.gangHead b) sel.toNat 8 (gen % 2 ^ 32 * 2 ^ 32 + cnt % 2 ^ 32)

/-- A group takes part in a barrier of block b: it belongs to the block, or to its gang, and has not exited. -/
def State.member (s : State) (b : BId) (sel : W64) (e : GId × Grp) : Bool :=
  let o := bidOf e.1
  !isHdl e.1 && e.2.run != .exited && o.launch == b.launch &&
    (if sel = blockSel then o.flat == b.flat
     else (s.launch b.launch).unitOf o.flat == (s.launch b.launch).unitOf b.flat)

/-- The groups of the barrier's unit that have not exited. -/
def State.members (s : State) (b : BId) (sel : W64) : Nat := (s.groups.filter (s.member b sel)).length

/-- A slot that waits at a barrier in a generation is released, and its ARRIVE writes that generation (R347, R348). -/
def State.releaseSlot (s : State) (g : GId) (sl : SlotId) (sel : W64) (gen : Nat) : State :=
  match ((s.grp g).b.slot sl).wait with
  | .barrier sel' gen' d =>
    if sel' = sel && gen' = gen then
      s.settle g sl fun b => match d with
        | some n => b.setS n (BitVec.ofNat 64 gen)
        | none => b
    else s
  | _ => s

/-- Completes a barrier whose count has reached the unit's groups (R347). -/
def State.completeBar (s : State) (b : BId) (sel : W64) : State :=
  let p := s.barrier b sel
  if p.2 = 0 || p.2 < s.members b sel then s
  else
    let s := (s.setBarrier b sel (p.1 + 1) 0).modBlock (s.gangHead b) fun k => { k with counters := k.counters.filter (· != sel) }
    (s.groups.filter (s.member b sel)).foldl
      (fun s e => (s.releaseSlot e.1 .a sel p.1).releaseSlot e.1 .b sel p.1) s

/-- A group has arrived in a generation of a barrier. -/
def Grp.arrivedIn (r : Grp) (sel : W64) (gen : Nat) : Bool := r.arrived.contains (sel, gen)

/-- The other slot of a group does not keep the group from arriving in a generation: it is empty, or has executed the instruction
there for an arrival that is not yet counted (log entry 41). -/
def Grp.otherAt (r : Grp) (sl : SlotId) (sel : W64) (gen : Nat) : Bool :=
  let x := r.b.slot (otherSlot sl)
  x.empty || match x.wait with
    | .barrier sel' gen' _ => sel' == sel && gen' == gen && !r.arrivedIn sel gen
    | _ => false

/-- A group arrives: the count rises by 1, and the barrier may complete (R347). -/
def State.arriveBar (s : State) (g : GId) (sel : W64) : State :=
  let b := bidOf g
  let p := s.barrier b sel
  let s := s.modGrp g fun r => { r with arrived := (r.arrived.filter fun a => a.1 != sel) ++ [(sel, p.1)] }
  let s := if sel = blockSel then s else
    s.modBlock (s.gangHead b) fun k => { k with counters := if k.counters.contains sel then k.counters else k.counters ++ [sel] }
  (s.setBarrier b sel p.1 (p.2 + 1)).completeBar b sel

/-- The scope of the level of a barrier makes its instructions act as FENCE first (R323): the accesses that must have been
performed, and whether those to the host count. -/
def State.barFence (s : State) (c : Ctx) (sel : W64) : Option Wait :=
  let sc := if sel = blockSel then (if 3 ≤ c.l.nlevels then c.l.scopeOf 2 else 0)
    else if c.l.hasGang then c.l.scopeOf 3 else 0
  if sc = 6 && s.remotePending c.g true then some (.remote true)
  else if sc = 5 && s.remotePending c.g false then some (.remote false)
  else none

/-- The checks of a barrier's selector (R346). -/
def selCheck (c : Ctx) (word : Nat) (sel : W64) : Option FaultRec :=
  if sel = blockSel then none
  else if sel.toNat % 8 ≠ 0 then some (flt1 .align sel.toNat)
  else if !c.l.hasGang then some (flt1 .ill word)
  else if c.scratch ≤ sel.toNat then some (flt1 .limit sel.toNat)
  else none

/-- BAR, GBAR and ARRIVE (R347, R348). The execution belongs to the current generation. The group arrives when its other
slot does not hold it back; until then, and for an instruction that waits until the completion, the slot parks. d is the
scalar that receives the generation. A BAR or a GBAR that was cancelled executes again against the generation in which it executed
first, and an arrival that has been counted stands. The handler is of no block, and the spec does not say what it does in it: the
model's choice is that it arrives nowhere, waits for nothing and writes 0 (log entry 31). -/
def arriveEffect (c : Ctx) (s : State) (word : Nat) (sel : W64) (waits : Bool) (d : Option Nat) : Res :=
  match selCheck c word sel with
  | some f => .trap f
  | none =>
    match s.barFence c sel with
    | some w => .stay w s
    | none =>
      let now := (s.barrier c.bid sel).1
      let gen := match c.slot.redo with
        | some (sel', n) => if sel' = sel then n else now
        | none => now
      let out (t : State) : Res :=
        match d with
        | some n => .ok (t.modBank c.g fun b => b.setS n (BitVec.ofNat 64 gen))
        | none => .ok t
      if isHdl c.g then .ok (match d with | some n => s.modBank c.g fun b => b.setS n 0 | none => s)
      else if gen ≠ now then out s
      else if c.slot.redo = some (sel, gen) && c.grp.arrivedIn sel gen then .stay (.barrier sel gen d) s
      else if c.grp.otherAt c.sl sel gen then
        let t := s.arriveBar c.g sel
        if waits && (t.barrier c.bid sel).1 == gen then .stay (.barrier sel gen d) t else out t
      else .stay (.barrier sel gen d) s

/-- AWAIT (R348). -/
def awaitEffect (c : Ctx) (s : State) (word : Nat) (sel : W64) (g : Nat) : Res :=
  match selCheck c word sel with
  | some f => .trap f
  | none =>
    match s.barFence c sel with
    | some w => .stay w s
    | none =>
      let t := s.completeBar c.bid sel
      if isHdl c.g then .ok s
      else if (t.barrier c.bid sel).1 = g % 2 ^ 32 then .stay (.gen sel (g % 2 ^ 32)) t else .ok t

/-- BAR (R348). -/
def execBar (z : Bool) (s : State) :=
  issue (descBar z) s fun c s => arriveEffect c s (descBar z).word blockSel true none
/-- GBAR (R348): its operand is always a counter offset (R346). -/
def execGbar (z : Bool) (a : BitVec 7) (s : State) :=
  issue (descGbar z a) s fun c s =>
    let sel := c.b.getS a.toNat
    if sel = blockSel then .trap (flt1 .align sel.toNat)
    else arriveEffect c s (descGbar z a).word sel true none
/-- ARRIVE (R348). -/
def execArrive (z : Bool) (d a : BitVec 7) (s : State) :=
  issue (descArrive z d a) s fun c s =>
    arriveEffect c s (descArrive z d a).word (c.b.getS a.toNat) false (some d.toNat)
/-- AWAIT (R348). -/
def execAwait (z : Bool) (a b : BitVec 7) (s : State) :=
  issue (descAwait z a b) s fun c s =>
    awaitEffect c s (descAwait z a b).word (c.b.getS a.toNat) (c.b.getS b.toNat).toNat

/-- After an exit: the barriers whose counts the smaller number of groups now reaches complete, and a group whose exited slot is
left empty arrives where its other slot waits, unless it has arrived there before; so does one whose slot GWR has emptied (R347,
R348, R379). -/
def State.barAfterExit (s : State) (g : GId) (sl : SlotId) : State :=
  let b := bidOf g
  let x := (s.grp g).b.slot (otherSlot sl)
  let s : State := match x.wait with
    | .barrier sel gen _ =>
      if !x.empty && ((s.grp g).b.slot sl).empty && (s.barrier b sel).1 == gen && (s.grp g).run != Run.exited &&
          !(s.grp g).arrivedIn sel gen then
        s.arriveBar g sel
      else s
    | _ => s
  let sels := distinct (s.groups.flatMap fun (e : GId × Grp) =>
    if isHdl e.1 then [] else
      [e.2.b.slotA.wait, e.2.b.slotB.wait].filterMap fun (w : Wait) =>
        match w with
        | .barrier sel _ _ => if s.member b sel e then some sel else none
        | .gen sel _ => if s.member b sel e then some sel else none
        | _ => none)
  (distinct (sels ++ (s.block (s.gangHead b)).counters)).foldl (fun s sel => s.completeBar b sel) (s.completeBar b blockSel)

/-! ## The commit token (R360 to R363) -/

/-- The group of a flat number of a launch. -/
def Launch.groupAt (l : Launch) (key G : Nat) : GId := .grp key (G / l.groupsPerBlock) (G % l.groupsPerBlock)

/-- A group has retired: it has exited, or its unit has retired (R360). -/
def State.groupRetired (s : State) (key G : Nat) : Bool :=
  let l := s.launch key
  l.retired.contains (l.unitOf (G / l.groupsPerBlock)) ||
    (match s.grp? (l.groupAt key G) with | some r => r.run == .exited | none => false)

/-- The next group in ascending flat order, wrapping, that has not retired; the search ends after all groups. -/
def State.nextHolder (s : State) (key n cur : Nat) : Nat → Nat
  | 0 => cur
  | k + 1 =>
    let G := if n ≤ cur + 1 then 0 else cur + 1
    if s.groupRetired key G then s.nextHolder key n G k else G

/-- Passes the commit token of a launch (R360). -/
def State.tokenPass (s : State) (key : Nat) : State :=
  let l := s.launch key
  let G := s.nextHolder key l.groups l.token l.groups
  s.modLaunch key fun l => { l with token := G, everHeld := if l.everHeld.contains G then l.everHeld else l.everHeld ++ [G] }

/-- TOKW (R363). -/
def tokwEffect (c : Ctx) (s : State) (word : Nat) : Res :=
  if !c.tokened then .trap (flt1 .ill word) else if s.holdsToken c.g then .okEnd s else .stay .token s

/-- TOKP (R363). -/
def tokpEffect (c : Ctx) (s : State) (word : Nat) : Res :=
  if !c.tokened then .trap (flt1 .ill word)
  else if s.holdsToken c.g then .okEnd (s.tokenPass c.bid.launch) else .ok s

/-- TICKQ (R363). -/
def tickqEffect (c : Ctx) (s : State) (d : Nat) (v : W64) : Res :=
  let out (n : Nat) : Res := .ok (s.modBank c.g fun b => b.setS d (BitVec.ofNat 64 n))
  if v = 0 then out (if c.ticketed then (s.launch c.bid.launch).miller else 0)
  else if v = 1 then out (if c.ticketed then (s.block c.bid).staged.length else 0)
  else if v = 2 then out c.bid.flat
  else .trap (flt1 .ill v.toNat)

/-- TOKW (R363). -/
def execTokw (z : Bool) (s : State) := issue (descTokw z) s fun c s => tokwEffect c s (descTokw z).word
/-- TOKP (R363). -/
def execTokp (z : Bool) (s : State) := issue (descTokp z) s fun c s => tokpEffect c s (descTokp z).word
/-- TICKQ (R363). -/
def execTickq (z : Bool) (d b : BitVec 7) (s : State) :=
  issue (descTickq z d b) s fun c s => tickqEffect c s d.toNat (c.b.getS b.toNat)

/-! ## LAUNCH (R349) -/

/-- What the reads of several doublewords answer. -/
inductive Read where
  | ok (l : List W64) (s : State)
  | abort (s : State)
  | wait (w : Wait)
  deriving DecidableEq, Repr, Inhabited

/-- Reads n doublewords of a group in ascending order. -/
def readDws (s : State) (c : Ctx) (repl : Bool) (pa : Nat) : Nat → Read
  | 0 => .ok [] s
  | n + 1 =>
    match s.gLoad c pa 8 repl 0 with
    | .abort s => .abort s
    | .wait w => .wait w
    | .ok v s =>
      match readDws s c repl (pa + 8) n with
      | .ok l s => .ok (BitVec.ofNat 64 v :: l) s
      | r => r

/-- The device queue holds 256 records (R321). -/
def State.devqFull (s : State) (part : Nat) : Bool := decide (256 ≤ (s.part part).devq.length)

/-- LAUNCH: reads the record, gives it a launch identifier and posts it, or stages the posting (R349, R353). -/
def launchEffect (c : Ctx) (s : State) (d : Nat) (va : W64) : Res :=
  if va.toNat % 256 ≠ 0 then .trap (flt1 .align va.toNat)
  else
    match s.translateTlb c.q va.toNat .read with
    | .fault f => .trap f
    | .abort s => .aborted s
    | .wait w => .stay w s
    | .ok pa repl t =>
      match t.tokenCheck c (some true) none va.toNat with
      | some f => .trap f
      | none =>
        match readDws t c repl pa 32 with
        | .abort t => .aborted t
        | .wait w => .stay w s
        | .ok r t =>
          let out (t : State) (v : Nat) : Res := .okEnd (t.modBank c.g fun b => b.setS d (BitVec.ofNat 64 v))
          let p := t.part c.q.part
          let id := p.nextLaunch
          if c.ticketed then
            roomOk c (out ((t.modPart c.q.part fun p => { p with nextLaunch := id + 1 }).stage c.q.part c.bid (.launch id r)) id)
          else if t.devqFull c.q.part then out t 0
          else
            out (t.modPart c.q.part fun p =>
              { p with nextLaunch := id + 1, devq := p.devq ++ [{ id := id, prio := c.l.prio, record := r }] }) id

/-- LAUNCH (R349). -/
def execLaunch (z : Bool) (d a : BitVec 7) (s : State) :=
  issue (descLaunch z d a) s fun c s => launchEffect c s d.toNat (c.b.getS a.toNat)

end Sys2Proof.Machine
end

