-- ==== Sys2Proof/Machine/Control.lean ====
section
/-! DEFINITION. Branches, the two PC slots, the stack, EXIT and system calls (R176 to R178, R332 to R339, R382). -/

namespace Sys2Proof.Machine

/-! ## Targets (R25) -/

/-- The target of a branch of n bits of offset. -/
def Ctx.target (c : Ctx) {n : Nat} (i : BitVec n) : W64 := c.pc + 4 * i.signExtend 64

/-! ## The stack (R176 to R178) -/

/-- The number of entries on the stack. -/
def Bank.depth (b : Bank) : Nat := b.spilled + b.stk.length

/-- The address of entry k. -/
def Bank.entryVa (b : Bank) (k : Nat) : Nat := (b.stkbase.toNat + 16 * k) % 2 ^ 64

/-- The doublewords of an entry in memory (R176). -/
def SEntry.dws (e : SEntry) : Nat × Nat := (b01 e.pending * 2 ^ 62 + bits e.pc.toNat 2 55 * 4, e.lanes.toNat)

/-- The entry that two doublewords hold; kinds 2 and 3 are never written (log entry 25). -/
def entryOf (a b : Nat) : SEntry :=
  { pending := bits a 62 2 == 1, pc := canon (bits a 2 55 * 4), lanes := BitVec.ofNat 64 b }

/-- The outcome of one spill or fill. -/
inductive Moved where
  | ok (s : State)
  | fault (f : FaultRec)
  | abort (s : State)
  | wait (w : Wait)
  deriving DecidableEq, Repr, Inhabited

/-- Spills the oldest entry of the stack cache (R177). -/
def State.spillOne (s : State) (g : GId) : Moved :=
  let q := s.reqOf g
  let b := (s.grp g).b
  match b.stk.getLast? with
  | none => .ok s
  | some e =>
    match s.translateTlb q (b.entryVa b.spilled) .write with
    | .fault f => .fault f
    | .abort s => .abort s
    | .wait w => .wait w
    | .ok pa repl s =>
      match (s.store q pa 8 e.dws.1 0 repl).bind fun _ s => s.store q (pa + 8) 8 e.dws.2 0 repl with
      | .abort s => .abort s
      | .wait w => .wait w
      | .ok _ s => .ok (s.modBank g fun b => { b with stk := b.stk.dropLast, spilled := b.spilled + 1 })

/-- Fills the youngest entry that lies in memory (R177); in run-ahead its read leaves no trace (R96). -/
def State.fillOne (s : State) (g : GId) (trace : Bool := true) : Moved :=
  let q := s.reqOf g
  let b := (s.grp g).b
  if b.spilled = 0 then .ok s
  else
    match s.translateTlb q (b.entryVa (b.spilled - 1)) .read with
    | .fault f => .fault f
    | .abort s => .abort s
    | .wait w => .wait w
    | .ok pa repl s =>
      match s.load q (loadAddr q repl pa) 8 0 with
      | .abort s => .abort s
      | .wait w => .wait w
      | .ok x t =>
        match t.load q (loadAddr q repl (pa + 8)) 8 0 with
        | .abort s => .abort s
        | .wait w => .wait w
        | .ok y t =>
          .ok ((if trace then t else s).modBank g fun b => { b with stk := b.stk ++ [entryOf x y], spilled := b.spilled - 1 })

/-- An instruction that needs a spill or fill waits for it; a fault that the background work met and kept pending is raised at
the instruction (R178). -/
def needMove (c : Ctx) (s : State) (fill : Bool) : Res :=
  match c.grp.stkFault with
  | none => .stay (if fill then .fill c.b.spilled else .spill) s
  | some f => .trapKept f (s.modGrp c.g fun r => { r with stkFault := none })

/-- A push: STACK beyond the limit, a wait at a full cache, or the bank after it (R177). -/
inductive Pushed where
  | ok (b : Bank)
  | stack (k : Nat)
  | full
  deriving DecidableEq, Repr, Inhabited

/-- Pushes an entry into a cache with room for 128 (R177). -/
def Bank.push (b : Bank) (e : SEntry) (room : Nat := 128) : Pushed :=
  if b.stklim.toNat < b.stkbase.toNat + 16 * (b.depth + 1) then .stack b.depth
  else if room ≤ b.stk.length then .full
  else .ok { b with stk := e :: b.stk }

/-- The entry that holds a slot: a slot parked at a JOIN is pushed with the JOIN's own address (R333). -/
def Slot.entry (x : Slot) : SEntry :=
  { pending := true, pc := if x.wait = .join then x.pc - 4 else x.pc, lanes := x.lanes }

/-- An emptied slot keeps the pc last written for it by GWR (R379). -/
def Slot.emptied (x : Slot) : Slot := { pc := x.gpc, gpc := x.gpc }

/-- A slot is emptied; the lookahead windows of what it has executed go with it (R29, R342). -/
def Bank.vacate (b : Bank) (sl : SlotId) : Bank :=
  { b.modSlot sl Slot.emptied with wins := b.wins.filter fun w => w.sl != sl }

/-- A slot that takes an entry. -/
def Slot.take (x : Slot) (e : SEntry) : Slot := { pc := e.pc, lanes := e.lanes, gpc := x.gpc }

/-- The other slot, if occupied, is pushed as a kind 1 entry and emptied (R333, R336). -/
def Bank.pushOther (b : Bank) (sl : SlotId) (room : Nat := 128) : Pushed :=
  let x := b.slot (otherSlot sl)
  if x.empty then .ok b
  else
    match b.push x.entry room with
    | .ok b => .ok (b.vacate (otherSlot sl))
    | o => o

/-- Goes on with the bank after pushes; a pushed slot's monitors are cancelled. -/
def withPushed (c : Ctx) (s : State) (p : Pushed) (k : State → Res) : Res :=
  match p with
  | .stack n => .trap (flt1 .stack n)
  | .full => needMove c s false
  | .ok b => k ((s.modBank c.g fun _ => b).cancelMonitors c.g (some (otherSlot c.sl)))

/-! ## BRU, JMP, JR (R337 to R339) -/

/-- BRU (R337). -/
def bruEffect (c : Ctx) (s : State) (k : BCond) (a : Nat) (i : BitVec 14) : Res :=
  if k.holds (c.b.getS a) then .goto (c.target i) s else .ok s

/-- BRU_EQZ (R337). -/
def execBruEqz (z : Bool) (a : BitVec 7) (i : BitVec 14) (s : State) :=
  issue (descBruEqz z a i) s fun c s => bruEffect c s .eqz a.toNat i
/-- BRU_NEZ (R337). -/
def execBruNez (z : Bool) (a : BitVec 7) (i : BitVec 14) (s : State) :=
  issue (descBruNez z a i) s fun c s => bruEffect c s .nez a.toNat i
/-- BRU_LTZ (R337). -/
def execBruLtz (z : Bool) (a : BitVec 7) (i : BitVec 14) (s : State) :=
  issue (descBruLtz z a i) s fun c s => bruEffect c s .ltz a.toNat i
/-- BRU_GEZ (R337). -/
def execBruGez (z : Bool) (a : BitVec 7) (i : BitVec 14) (s : State) :=
  issue (descBruGez z a i) s fun c s => bruEffect c s .gez a.toNat i
/-- BRU_GTZ (R337). -/
def execBruGtz (z : Bool) (a : BitVec 7) (i : BitVec 14) (s : State) :=
  issue (descBruGtz z a i) s fun c s => bruEffect c s .gtz a.toNat i
/-- BRU_LEZ (R337). -/
def execBruLez (z : Bool) (a : BitVec 7) (i : BitVec 14) (s : State) :=
  issue (descBruLez z a i) s fun c s => bruEffect c s .lez a.toNat i
/-- BRU_ALW (R337). -/
def execBruAlw (z : Bool) (i : BitVec 14) (s : State) :=
  issue (descBruAlw z i) s fun c s => bruEffect c s .alw 0 i
/-- JMP (R338). -/
def execJmp (z : Bool) (i : BitVec 21) (s : State) := issue (descJmp z i) s fun c s => .goto (c.target i) s

/-- The check of JR and CALLR (R339). -/
def jumpOk (v : W64) : Bool := canonical v.toNat && v.toNat % 4 == 0

/-- JR (R339). -/
def execJr (z : Bool) (a : BitVec 7) (s : State) :=
  issue (descJr z a) s fun c s =>
    let v := c.b.getS a.toNat
    if jumpOk v then .goto v s else .trap (flt1 .align v.toNat)

/-! ## BRD and JOIN (R332 to R334) -/

/-- BRD (R333). -/
def brdEffect (c : Ctx) (s : State) (set : Bool) (a : Nat) (i : BitVec 14) : Res :=
  let m := c.b.getM a
  let T := c.slot.lanes &&& (if set then m else ~~~m)
  let F := c.slot.lanes &&& ~~~T
  if T = 0 then .ok s
  else if F = 0 then .goto (c.target i) s
  else
    withPushed c s (c.b.pushOther c.sl) fun s =>
      .raw (s.modBank c.g fun b =>
        (b.modSlot c.sl fun x => { x with pc := c.next, lanes := F, wait := .none, waited := 0 }).modSlot (otherSlot c.sl)
          fun x => { x with pc := c.target i, lanes := T, wait := .none, waited := 0 })

/-- BRD_SET (R333). -/
def execBrdSet (z : Bool) (a : BitVec 3) (i : BitVec 14) (s : State) :=
  issue (descBrdSet z a i) s fun c s => brdEffect c s true a.toNat i
/-- BRD_CLR (R333). -/
def execBrdClr (z : Bool) (a : BitVec 3) (i : BitVec 14) (s : State) :=
  issue (descBrdClr z a i) s fun c s => brdEffect c s false a.toNat i

/-- A slot is occupied and parked after a JOIN. -/
def Slot.joined (x : Slot) : Bool := !x.empty && x.wait == .join

/-- JOIN (R334). -/
def joinEffect (c : Ctx) (s : State) : Res :=
  let o := c.b.slot (otherSlot c.sl)
  let parked (b : Bank) : Bank := b.modSlot c.sl fun x => { x with pc := c.next, wait := .join, waited := 0 }
  if o.joined then
    if o.pc = c.next then
      .merged (s.modBank c.g fun b =>
        { b with
          slotA := { pc := c.next, lanes := b.slotA.lanes ||| b.slotB.lanes, gpc := b.slotA.gpc }
          slotB := b.slotB.emptied })
    else .ok (s.modSlot c.g (otherSlot c.sl) fun x => { x with wait := .none, waited := 0 })
  else if !o.empty then .raw (s.modBank c.g parked)
  else
    match c.b.stk with
    | e :: r =>
      if e.pending then
        .raw (s.modBank c.g fun b => { (parked b).modSlot (otherSlot c.sl) (·.take e) with stk := r })
      else .ok s
    | [] => if c.b.spilled = 0 then .ok s else needMove c s true

/-- JOIN (R334). -/
def execJoin (z : Bool) (s : State) := issue (descJoin z) s joinEffect

/-! ## CALL, CALLR, RET (R336) -/

/-- The entries that the stack cache has room for; in run-ahead, where nothing is spilled, as many as CALL pushes (R94; log entry 7). -/
def Ctx.stackRoom (c : Ctx) : Nat := if c.grp.ahead.isSome then 2 ^ 64 else 128

/-- CALL and CALLR. -/
def callEffect (c : Ctx) (s : State) (pc : W64) : Res :=
  let p := match c.b.pushOther c.sl c.stackRoom with
    | .ok b => b.push { pending := false, pc := c.next, lanes := 0 } c.stackRoom
    | o => o
  withPushed c s p fun s => .goto pc s

/-- CALL (R336). -/
def execCall (z : Bool) (i : BitVec 21) (s : State) := issue (descCall z i) s fun c s => callEffect c s (c.target i)
/-- CALLR (R336, R339). -/
def execCallr (z : Bool) (a : BitVec 7) (s : State) :=
  issue (descCallr z a) s fun c s =>
    let v := c.b.getS a.toNat
    if jumpOk v then callEffect c s v else .trap (flt1 .align v.toNat)

/-- The STACK fault of RET; its detail is free (log entry 23). -/
def retFault (s : State) : FaultRec := { cls := .stack, detail := Config.retDetail s.free }

/-- RET with an entry on top of the cache (R336). -/
def retPop (c : Ctx) (s : State) (e : SEntry) (r : List SEntry) : Res :=
  if e.pending then .trap (retFault s)
  else
    let o := c.b.slot (otherSlot c.sl)
    let s' := s.modBank c.g fun b =>
      if o.empty then { b with stk := r }
      else { b.vacate (otherSlot c.sl) with stk := o.entry :: r }
    .goto e.pc (if o.empty then s' else s'.cancelMonitors c.g (some (otherSlot c.sl)))

/-- RET whose entry lies in memory: it waits for the fill; in run-ahead it reads the entry, which leaves no trace but in the TLBs
(R94, R96, R178; log entry 7). -/
def retFill (c : Ctx) (s : State) : Res :=
  if c.grp.ahead.isNone then needMove c s true
  else
    match s.fillOne c.g false with
    | .fault f => .trap f
    | .abort s => .aborted s
    | .wait w => .stay w s
    | .ok s =>
      match (s.grp c.g).b.stk with
      | [] => .ok s
      | e :: r => retPop c s e r

/-- RET (R336). -/
def retEffect (c : Ctx) (s : State) : Res :=
  match c.b.stk with
  | [] => if c.b.spilled = 0 then .trap (retFault s) else retFill c s
  | e :: r => retPop c s e r

/-- RET (R336). -/
def execRet (z : Bool) (s : State) := issue (descRet z) s retEffect

/-! ## EXIT (R335) -/

/-- The errors that no MWAIT collected are posted as notices (R274, R335, R372). -/
def State.postErrors (s : State) (g : GId) (ms : List MErr) : State :=
  let q := s.reqOf g
  ms.foldl
    (fun s m =>
      let (s, rid) := s.newRid q.part
      s.postRec q.part {
        rid := rid, cls := m.cls, kind := .notice, src := 2, launch := launchIdOf g, gflat := (bidOf g).flat, epc := m.pc
        cause := causeWord m.cls m.sub none, detail := m.word, table := m.table })
    s

/-- The group retires: its errors are posted, its monitors cancelled, its tokens passed on; the last group's
block exits, which closes its shadows, releases its pins and discards its copies (R335, R165, R292, R360, R120, R183,
R187). -/
def State.retireGroup (s : State) (c : Ctx) : State :=
  let s := s.postErrors c.g c.grp.merrs
  let s := s.cancelMonitors c.g none
  let s := s.modGrp c.g fun r =>
    { r with run := .exited, merrs := [],
             b := { r.b with slotA := r.b.slotA.emptied, slotB := r.b.slotB.emptied, stk := [], spilled := 0, wins := [] } }
  let s := if s.prioOf c.g = some c.g then s.setPrio c.g none else s
  let s := if c.tokened && s.holdsToken c.g then s.tokenPass c.bid.launch else s
  if isHdl c.g then s
  else if (s.groupsOf c.bid).all fun e => e.2.run == .exited then
    (s.closeBlock c.q.part c.bid).modBlock c.bid fun b => { b with exited := true }
  else s

/-- The entries above the newest kind 1 entry of the stack cache dropped: that entry and what lies below it. -/
def dropCalls : List SEntry → Option (SEntry × List SEntry)
  | [] => none
  | e :: r => if e.pending then some (e, r) else dropCalls r

/-- EXIT (R335). Entries of kind 0 that it discards stay in the cache until it has its effect, so that the fault of a fill that it waits
for is precise (R51, R178). -/
def exitEffect (c : Ctx) (s : State) : Res :=
  let o := c.b.slot (otherSlot c.sl)
  let leave (s : State) : State := if isHdl c.g then s else s.barAfterExit c.g c.sl
  if s.remotePending c.g true then .stay (.remote true) s
  else if !o.empty then
    match c.b.stk with
    | e :: r =>
      if e.pending then .raw (leave (s.modBank c.g fun b => { (b.vacate c.sl).modSlot c.sl (·.take e) with stk := r }))
      else .raw (leave (s.modBank c.g fun b => (b.vacate c.sl).modSlot (otherSlot c.sl) fun x =>
        if x.wait = .join then { x with wait := .none, waited := 0 } else x))
    | [] =>
      if c.b.spilled = 0 then
        .raw (leave (s.modBank c.g fun b => (b.vacate c.sl).modSlot (otherSlot c.sl) fun x =>
          if x.wait = .join then { x with wait := .none, waited := 0 } else x))
      else needMove c s true
  else
    match dropCalls c.b.stk with
    | some (e, r) =>
      .raw (leave (s.modBank c.g fun b =>
        { b with slotA := b.slotA.take e, slotB := b.slotB.emptied, stk := r, wins := [] }))
    | none =>
      if c.b.spilled ≠ 0 then needMove c s true
      else if s.matq.any fun m => m.g == c.g then .stay .drain s
      else .raw (leave (s.retireGroup c))

/-- EXIT (R335). -/
def execExit (z : Bool) (s : State) := issue (descExit z) s exitEffect

/-! ## NOP, YIELD, BRK, TRAP (R339, R382) -/

/-- NOP (R339). -/
def execNop (z : Bool) (s : State) := issue (descNop z) s fun _ s => .ok s
/-- YIELD (R339). -/
def execYield (z : Bool) (s : State) := issue (descYield z) s fun _ s => .okEnd s
/-- BRK raises BRK at itself (R339). -/
def execBrk (z : Bool) (s : State) := issue (descBrk z) s fun _ _ => .trap { cls := .brk }

/-- The hub writes bytes to memory of a partition; what ends with an abort completion is not written (R150, R382). -/
def State.hubWrite (s : State) (part : Nat) (g : GId) (pa n : Nat) (v : W64) : State :=
  if !s.reach part pa then s
  else if isRemote pa then s.remotePerform { g := g, dest := remoteDest pa, pa := pa, n := n, v := v }
  else s.unitWrite part pa n v.toNat

/-- The system-call ring is full: one entry is kept free, so that a full ring differs from an empty one (log entry 24). -/
def Part.ringFull (p : Part) : Bool :=
  let n := p.scsize.toNat
  n == 0 || (p.sctail.toNat + 1) % n == p.schead.toNat % n

/-- TRAP (R382). -/
def trapEffect (c : Ctx) (s : State) (d a : Nat) (code : Nat) : Res :=
  let p := s.part c.q.part
  if s.remotePending c.g true then .stay (.remote true) s
  else if p.ringFull then .stay .ring s
  else
    let tag := BitVec.ofNat 64 p.nextTag
    let arg := c.b.getS a
    let lid := BitVec.ofNat 64 c.l.id
    let G := BitVec.ofNat 64 (s.flatOf c.g)
    let at_ := p.scbase.toNat + 32 * (p.sctail.toNat % p.scsize.toNat)
    let s := (List.range 32).foldl
      (fun s i => s.hubWrite c.q.part c.g (at_ + i) 1 ((Config.callEntry code arg lid G tag i).setWidth 64)) s
    let s := s.modPart c.q.part fun p =>
      { p with sctail := BitVec.ofNat 64 ((p.sctail.toNat + 1) % p.scsize.toNat), calls := p.calls ++ [p.nextTag],
               nextTag := p.nextTag + 1 }
    .raw (s.modGrp c.g fun r => { r with run := .syscall tag.toNat d, epc := c.pc, eslot := c.sl })

/-- TRAP (R382). -/
def execTrap (z : Bool) (d a : BitVec 7) (i : BitVec 11) (s : State) :=
  issue (descTrap z d a i) s fun c s => trapEffect c s d.toNat a.toNat i.toNat

end Sys2Proof.Machine
end

