-- ==== Sys2Proof/Machine/Async.lean ====
section
/-! DEFINITION. Copy channels, shadows, FENCE, cache maintenance, matrix batches, the mailboxes and MSQ (R147, R179 to R190,
R273, R274, R309 to R312). -/

namespace Sys2Proof.Machine

/-- Writes a scalar result and ends the run. -/
def outS (c : Ctx) (d v : Nat) (s : State) : Res := .okEnd (s.modBank c.g fun b => b.setS d (BitVec.ofNat 64 v))

/-! ## COPY, CWAIT, CSTAT (R179 to R185) -/

/-- A copy of a block on a channel. -/
def Copy.on (x : Copy) (b : BId) (ch : Nat) : Bool := x.bid == b && x.ch == ch

/-- The copies of a block on a channel that it has not begun (R180). -/
def State.queuedCopies (s : State) (b : BId) (ch : Nat) : Nat :=
  (s.copies.filter fun x => x.on b ch && !x.begun).length

/-- A global operand of a copy: a multiple of e, and canonical (R180). -/
def globalOk (e : Nat) (v : W64) : Bool := v.toNat % e == 0 && canonical v.toNat

/-- The checks of R180; the destination is looked at before the source. -/
def copyCheck (c : Ctx) (x : Copy) (ctl : W64) : Option FaultRec :=
  let e := x.esize
  let dg := x.kind != 0
  let sg := x.kind == 0 || x.kind == 3
  let past (v : W64) : Bool := decide (c.scratch < v.toNat + x.len)
  if 64 ≤ ctl.toNat || x.op == 3 || (x.op != 0 && x.kind != 2) then some (flt1 .ill ctl.toNat)
  else if x.len % e ≠ 0 ∨ 2 ^ 40 ≤ x.len then some (flt1 .ill x.len)
  else if dg && !globalOk e x.dst then some (flt1 .align x.dst.toNat)
  else if sg && !globalOk e x.src then some (flt1 .align x.src.toNat)
  else if !dg && past x.dst then some (flt1 .limit x.dst.toNat)
  else if !sg && past x.src then some (flt1 .limit x.src.toNat)
  else none

/-- COPY (R179, R180, R182, R357). -/
def copyEffect (c : Ctx) (s : State) (d a b : Nat) : Res :=
  let ctl := c.b.getS (b + 1)
  let x : Copy := {
    seq := s.seq, bid := c.bid, ch := bits ctl.toNat 0 2, kind := bits ctl.toNat 2 2, op := bits ctl.toNat 4 2
    src := c.b.getS a, dst := c.b.getS d, len := (c.b.getS b).toNat }
  match copyCheck c x ctl with
  | some f => .trap f
  | none =>
    if 8 ≤ s.queuedCopies c.bid x.ch then .stay (.copyRoom x.ch) s
    else if ((s.block c.bid).ch x.ch).err.isSome then .ok s
    else roomOk c (.ok { s with seq := s.seq + 1, copies := s.copies ++ [x] })

/-- A counter of a channel. -/
def Chan.counter (x : Chan) (wptr : Bool) : Nat := if wptr then x.wptr else x.rdone

/-- CWAIT (R184). -/
def cwaitEffect (c : Ctx) (s : State) (d a b : Nat) : Res :=
  let v := (c.b.getS b).toNat
  let need := (c.b.getS a).toNat
  let ch := v % 4
  let x := (s.block c.bid).ch ch
  if 8 ≤ v then .trap (flt1 .ill v)
  else if need ≤ x.counter (v.testBit 2) then outS c d (x.counter (v.testBit 2)) s
  else
    match x.err with
    | some k => .trap
        { cls := k.1, sub := k.2, detail := BitVec.ofNat 64 (ch * 2 ^ 62 + x.off % 2 ^ 40), cwd := some d, table := x.table }
    | none => .stay (.copy ch (v.testBit 2) need) s

/-- The state of a block's channel (R185). -/
def State.chanState (s : State) (b : BId) (ch : Nat) : Nat :=
  match ((s.block b).ch ch).err with
  | some (.abort, _) => 4
  | some _ => 3
  | none =>
    match s.copies.find? fun x => x.on b ch && x.begun with
    | some x => if x.held.isSome then 2 else 1
    | none => 0

/-- CSTAT (R185). -/
def cstatEffect (c : Ctx) (s : State) (d b : Nat) : Res :=
  let v := (c.b.getS b).toNat
  let ch := v % 4
  let x := (s.block c.bid).ch ch
  let out (n : Nat) (s : State) : Res := .ok (s.modBank c.g fun b => b.setS d (BitVec.ofNat 64 n))
  if 32 ≤ v || bits v 2 2 == 3 || (v.testBit 4 && bits v 2 2 != 2) then .trap (flt1 .ill v)
  else if bits v 2 2 = 0 then out x.rdone s
  else if bits v 2 2 = 1 then out x.wptr s
  else
    let w := s.chanState c.bid ch * 2 ^ 61 + s.queuedCopies c.bid ch * 2 ^ 57 + if x.err.isSome then x.off % 2 ^ 40 else 0
    out w (if v.testBit 4 then s.modBlock c.bid fun k => k.modCh ch fun x => { x with err := none, off := 0, table := none } else s)

/-- COPY (R180). -/
def execCopy (z : Bool) (l : BitVec 4) (d a b : BitVec 7) (s : State) :=
  issue (descCopy z l d a b) s fun c s => copyEffect c s d.toNat a.toNat b.toNat
/-- CWAIT (R184). -/
def execCwait (z : Bool) (d a b : BitVec 7) (s : State) :=
  issue (descCwait z d a b) s fun c s => cwaitEffect c s d.toNat a.toNat b.toNat
/-- CSTAT (R185). -/
def execCstat (z : Bool) (d b : BitVec 7) (s : State) :=
  issue (descCstat z d b) s fun c s => cstatEffect c s d.toNat b.toNat

/-! ## SHADOW and PUBLISH (R186 to R188) -/

/-- The outcome of translating the pages of a range. -/
inductive Pages where
  | ok (l : List ShPage) (s : State)
  | fault (f : FaultRec)
  | abort (s : State)
  | wait (w : Wait)
  deriving DecidableEq, Repr, Inhabited

/-- Translates pages of 64 KiB for write as SHADOW does (R186). -/
def shadowPages (q : Req) : List Nat → State → Pages
  | [], s => .ok [] s
  | va :: r, s =>
    if !canonical va then .fault (flt1 .perm va)
    else
      let v := va57 va
      match s.walk q v .write with
      | .abort s => .abort s
      | .wait w => .wait w
      | .perm sub tab _ => .fault { cls := .perm, sub := sub, detail := canon v, table := tab }
      | .xlate host s2 _ => .fault { cls := .xlate, detail := canon v, page := some (.write, host), s2 := s2 }
      | .ok t s =>
        match refusal q t v (t.at v) .write with
        | some f => .fault f
        | none =>
          if t.host || isHost (t.at v) || t.repl || t.size2 != .k64 then .fault { cls := .perm, detail := canon v }
          else
            match shadowPages q r s with
            | .ok l s => .ok ({ va := v, ipa := t.ipa + v % PSizeBytes t.size, live := t.at v, shadow := 0 } :: l) s
            | o => o

/-- Drops the L1 and L2 copies of a range. -/
def State.dropCopies (s : State) (lo n : Nat) : State :=
  { s with
    cores := s.cores.map fun e =>
      (e.1, { e.2 with l1 := e.2.l1.filter fun l => !(decide (lo ≤ 64 * l.line) && decide (64 * l.line < lo + n)) })
    dies := s.dies.map fun e =>
      (e.1, { e.2 with l2 := e.2.l2.filter fun l => !(decide (lo ≤ 256 * l.line) && decide (256 * l.line < lo + n)) }) }

/-- Reads the lines of a page at their home slices, which hold them or fill them (R135, R139, R186). -/
def State.readPage (s : State) (part pa : Nat) : Acc :=
  if isRemote pa then if s.reach part pa then .ok 0 s else .abort s
  else accAll (fun k s => s.lineAccess part (pa + 256 * k) 0 true) (List.range 256) s

/-- Copies a page as loads read it into a frame, line by line at the home slices (R9, R135, R150, R162, R167, R186). -/
def State.copyPage (s : State) (part src dst : Nat) : Acc :=
  (s.readPage part src).bind fun _ s => s.pagePut part dst (mmove (if isRemote src then s.low else s.mem) src dst 65536)

/-- The handle that a new shadow takes (R186). -/
def Block.freeHandle (b : Block) : Nat :=
  ((upFrom 1 4).find? fun h => !b.shadows.any fun x => x.handle == h).getD 1

/-- A page lies in an open shadow of the partition; shadows are compared by intermediate page (log entry 26). -/
def State.shadowed (s : State) (part ipa : Nat) : Bool :=
  s.blocks.any fun e => (s.launch e.1.launch).part == part && e.2.shadows.any fun h => h.pages.any fun p => p.ipa == ipa

/-- SHADOW (R186, R355). -/
def shadowEffect (c : Ctx) (s : State) (d a b : Nat) : Res :=
  let va := (c.b.getS a).toNat
  let n := (c.b.getS b).toNat
  if va % 65536 ≠ 0 then .trap (flt1 .ill va)
  else if n % 65536 ≠ 0 ∨ n = 0 ∨ 2 ^ 26 < n then .trap (flt1 .ill n)
  else
    match shadowPages c.q ((List.range (n / 65536)).map fun k => (va + 65536 * k) % 2 ^ 64) s with
    | .fault f => .trap f
    | .abort s => .aborted s
    | .wait w => .stay w s
    | .ok ps t =>
      let k := t.block c.bid
      let pool := (t.part c.q.part).shadowPool
      if c.ticketed || 4 ≤ k.shadows.length || (ps.any fun p => t.shadowed c.q.part p.ipa) || pool.length < ps.length then
        outS c d 0 t
      else
        let ps := (ps.zip pool).map fun e => { e.1 with shadow := e.2 }
        match accAll (fun p t => t.copyPage c.q.part p.live p.shadow) ps t with
        | .abort t => .aborted t
        | .wait w => .stay w s
        | .ok _ t =>
          let t := t.modPart c.q.part fun p => { p with shadowPool := p.shadowPool.drop ps.length }
          let h := k.freeHandle
          outS c d h (t.modBlock c.bid fun k => { k with shadows := k.shadows ++ [{ handle := h, pages := ps }] })

/-- The address of the stage-2 leaf entry of an intermediate address, from the table at a level down. -/
def leaf2From (s : State) (part ipa : Nat) : Nat → Nat → Option Nat
  | level, table =>
    let at_ := table + 8 * levelIndex ipa level
    match s.homeLoad part at_ 8 with
    | .ok e _ =>
      if !bit e 0 then none
      else if bit e 1 then some at_
      else
        match level with
        | 0 => none
        | l + 1 => leaf2From s part ipa l (entryAddr e)
    | _ => none

/-- The hub's publish unit makes the stage-2 leaf of a page name its shadow frame; PUBLISH writes at no slice, so that no monitor
wakes (R162, R188). The spec does not say what happens where the leaf is gone or cannot be read: the model's choice is to pass
the page over, whose old frame goes to the pool with the others (log entry 51). -/
def State.publishPage (s : State) (part : Nat) (p : ShPage) : State :=
  match leaf2From s part p.ipa 3 (s.part part).s2root with
  | none => s
  | some at_ =>
    match s.lineAccess part at_ 0 true with
    | .ok _ s =>
      let e := loadN s.mem at_ 8
      s.homePut part at_ 8 (e - entryAddr e + p.shadow)
    | .abort s => s
    | .wait _ => s

/-- Whether two ranges of virtual addresses share a byte. -/
def meets (a n b m : Nat) : Bool := decide (a < b + m) && decide (b < a + n)

/-- The engine writes of a block into a shadow's range that arrived before a number and are not all performed (R188):
copies to memory, and drains to memory by where tdst and pitch put their rows (R281). -/
def State.engineWrites (s : State) (b : BId) (sh : Shadow) (seq : Nat) : Bool :=
  let lo := match sh.pages.head? with | some p => p.va | none => 0
  let n := 65536 * sh.pages.length
  (s.copies.any fun x => x.bid == b && decide (x.seq < seq) && (x.kind == 1 || x.kind == 3) && meets (va57 x.dst.toNat) x.len lo n) ||
  s.matq.any fun m =>
    bidOf m.g == b && decide (m.seq < seq) && match m.op with
      | .tdr _ =>
        let t := (s.block b).getTs m.d
        bit t.tdctl.toNat 2 && meets (va57 t.tdst.toNat) (63 * bits t.tdctl.toNat 8 24 + 768) lo n
      | _ => false

/-- PUBLISH (R188): it waits for the engine writes, rewrites the leaves, and waits for the invalidation, with which the shadow
closes and the old frames go to the pool (`State.answerInval`). The spec does not say what PUBLISH of a shadow does that another
group's PUBLISH is already closing: the model's choice is ILL, as for a handle of no open shadow (log entry 26). -/
def publishEffect (c : Ctx) (s : State) (a : Nat) : Res :=
  let h := c.b.getS a
  let k := s.block c.bid
  match k.shadows.find? fun x => x.handle == h.toNat && x.closing.isNone with
  | none => .trap (flt1 .ill h.toNat)
  | some sh =>
    let seq := sh.pub.getD s.seq
    let sh := { sh with pub := some seq }
    if s.engineWrites c.bid sh seq then
      .stay (.engine seq) (s.modBlock c.bid fun k =>
        { k with shadows := k.shadows.map fun x => if x.handle = sh.handle then sh else x })
    else
      let t := sh.pages.foldl (fun s p => s.publishPage c.q.part p) s
      let r := t.invalStart c.q.part (.pages (sh.pages.map (·.ipa))) (.group c.g c.sl)
      let t := r.1.modPart c.q.part fun p =>
        { p with invs := p.invs.map fun i => if i.id = r.2 then { i with frames := sh.pages.map (·.live) } else i }
      .stay (.inval r.2) (t.modBlock c.bid fun k =>
        { k with shadows := k.shadows.map fun x => if x.handle = sh.handle then { sh with closing := some r.2 } else x })

/-- SHADOW (R186). -/
def execShadow (z : Bool) (d a b : BitVec 7) (s : State) :=
  issue (descShadow z d a b) s fun c s => shadowEffect c s d.toNat a.toNat b.toNat
/-- PUBLISH (R188). -/
def execPublish (z : Bool) (a : BitVec 7) (s : State) :=
  issue (descPublish z a) s fun c s => publishEffect c s a.toNat

/-! ## FENCE (R309) -/

/-- FENCE (R309). -/
def fenceEffect (c : Ctx) (s : State) (k : Nat) : Res :=
  if k < 5 then .ok s
  else if s.remotePending c.g (k == 6) then .stay (.remote (k == 6)) s
  else .okEnd s

/-- FENCE (R309). -/
def execFence (z : Bool) (k : BitVec 3) (s : State) := issue (descFence z k) s fun c s => fenceEffect c s k.toNat

/-! ## CLEAN, INVAL, CLINV (R141, R298, R310 to R312) -/

/-- The physical ranges of a virtual range, page by page, with the state after the walks. -/
inductive Ranges where
  | ok (l : List (Nat × Nat)) (s : State)
  | fault (f : FaultRec)
  | abort (s : State)
  | wait (w : Wait)
  deriving DecidableEq, Repr, Inhabited

/-- Translates n bytes from va, at most `fuel` pages. Which replicas of a replicated page maintenance acts on at level L2 and
above is not in R310: the model's choice is the requester's own replica alone (R145; log entry 61). -/
def rangesOf (q : Req) (kind : Kind) : Nat → Nat → Nat → State → Ranges
  | 0, _, _, s => .ok [] s
  | fuel + 1, va, n, s =>
    if n = 0 then .ok [] s
    else
      match s.translateTlb q va kind with
      | .fault f => .fault f
      | .abort s => .abort s
      | .wait w => .wait w
      | .ok pa repl s =>
        let m := min n (65536 - va % 65536)
        match rangesOf q kind fuel ((va + m) % 2 ^ 64) (n - m) s with
        | .ok l s => .ok ((loadAddr q repl pa, m) :: l) s
        | o => o

/-- Whether an L1 line of the range is acted on, by core key. -/
def coreActed (s : State) (q : Req) (lvl key : Nat) : Bool :=
  if lvl = 0 then key == 256 * q.die + q.core else (s.part q.part).dies.contains (key / 256)

/-- The sectors of the Cooper that hold addresses of a range: die, slot, sector number. -/
def State.coopIn (s : State) (part lo n : Nat) : List (Nat × Nat × Nat) :=
  let N := s.coopSectors part
  (s.part part).dies.flatMap fun d =>
    (s.die d).cooper.filterMap fun e =>
      let i := e.1 * (s.part part).dies.length + ((s.part part).dies.findIdx? (· == d)).getD 0
      let k := e.2.tag * N + i
      if e.2.v && meets (sectorAddr k) 2048 lo n then some (d, e.1, k) else none

/-- Fills of the range's sectors in progress, and requests for them that wait behind another fill, are done before maintenance at
level MS (R140). -/
def State.coopQuiet (s : State) (part lo n : Nat) : State :=
  (s.part part).dies.foldl
    (fun s d =>
      let a := (s.die d).coopFills.map (fun f => sectorAddr f.sector) ++ (s.die d).coopReqs.map fun r => r.pa / 2048 * 2048
      a.foldl (fun s a => if meets a 2048 lo n then s.coopSettle part (s.coopPos part a) else s) s)
    s

/-- Maintenance reads bursts of a sector: its state in burst 0, and with it all that it writes to LPDDR. One that cannot be corrected
drops the clean sector or blocks its index, and the sector is left alone (R138, R141, R142). -/
def State.coopMaint (s : State) (part : Nat) (x : Nat × Nat × Nat) (all : Bool) (f : State → State) : State :=
  let p := s.coopPos part (sectorAddr x.2.2)
  let bad := (((s.die x.1).coopDamage.filter fun e => e.1 / 32 == x.2.1).map fun e => (e.1 % 32, e.2)).filter fun e => all || e.1 == 0
  if (s.die x.1).blocked.contains x.2.1 then s
  else
    match s.coopCheck part p x.2.2 bad with
    | .ok _ s => f s
    | .abort s => s
    | .wait _ => s

/-- A sector number of a range that lies at an index. -/
def sectorAt (N i lo n : Nat) : Bool :=
  let a := (lo - 2 ^ 42) / 2048
  decide (a + (i + N - a % N) % N ≤ (lo + n - 1 - 2 ^ 42) / 2048)

/-- A request of maintenance at level MS for a blocked index ends with an abort completion (R142). -/
def State.blockedIn (s : State) (part lo n : Nat) : Bool :=
  let dies := (s.part part).dies
  (match region lo with | .lpddr _ _ => true | _ => false) &&
    (List.range dies.length).any fun k => (s.die (dies.getD k 0)).blocked.any fun x =>
      sectorAt (s.coopSectors part) (x * dies.length + k) lo n

/-- The writes of a range's sectors that are on their way to LPDDR are performed (R310). -/
def State.victimsDone (s : State) (part lo n : Nat) : State :=
  (s.part part).dies.foldl (fun s d => s.coopWritesDone d fun w => meets (sectorAddr w.sector) 2048 lo n) s

/-- Maintenance has acted on a range: at level DEV every write of it has been acknowledged, and the requests for blocked indices have
ended with abort completions (R142, R310). -/
def State.maintEnd (s : State) (part lvl lo n : Nat) : Acc :=
  let s := if lvl = 3 then s.victimsDone part lo n else s
  if 2 ≤ lvl && s.blockedIn part lo n then .abort s else .ok 0 s

/-- The update-only copies of a range are recalled (R167). -/
def State.recallRange (s : State) (part lo n : Nat) : State :=
  (distinct ((s.updates.filter fun u => meets (256 * u.line) 256 lo n).map (·.line))).foldl (fun s l => s.recallUpdates part l) s

/-- CLEAN of a physical range (R311, R141). At level L1 nothing reaches the home, and no update-only copy is recalled (R168). -/
def State.cleanRange (s : State) (q : Req) (lvl lo n : Nat) : State :=
  let s := if lvl = 0 then s else s.recallRange q.part lo n
  let s := s.cores.foldl
    (fun s e =>
      if !coreActed s q lvl e.1 then s
      else
        e.2.l1.foldl
          (fun s l =>
            if meets (64 * l.line) 64 lo n then
              (s.l1Merge q.part l.line l.mask).modCore (e.1 / 256) (e.1 % 256) fun k =>
                k.l1Mod l.line fun l => some { l with mask := 0 }
            else s)
          s)
    s
  if lvl = 0 then s
  else
    let s := (s.part q.part).dies.foldl
      (fun s d => (s.die d).l2.foldl (fun s l => if meets (256 * l.line) 256 lo n then s.l2Clean q.part d l.line else s) s) s
    if lvl = 1 then s
    else
      let s := s.coopQuiet q.part lo n
      (s.coopIn q.part lo n).foldl
        (fun s x =>
          let s := s.coopWritesDone x.1 fun w => w.sector == x.2.2
          let e := s.sector x.1 x.2.1
          s.coopMaint q.part x e.d fun s => if e.d then (s.lpddrWrite x.2.2).setSector x.1 x.2.1 { e with d := false } else s)
        s

/-- INVAL of a physical range: the copies of the caches acted on are discarded, after the recall of the update-only copies
(R167, R311, R141). -/
def State.discardRange (s : State) (q : Req) (lvl lo n : Nat) : State :=
  let s := if lvl = 0 then s else s.recallRange q.part lo n
  let s := if lvl < 2 then s else
    let s := s.coopQuiet q.part lo n
    (s.coopIn q.part lo n).foldl (fun s x => s.coopMaint q.part x false id) s
  let hit1 (l : L1Line) : Bool := meets (64 * l.line) 64 lo n
  let hit2 (l : L2Line) : Bool := meets (256 * l.line) 256 lo n
  let secs := if lvl < 2 then [] else (s.coopIn q.part lo n).filter fun x => !(s.die x.1).blocked.contains x.2.1
  let l1s := s.cores.flatMap fun e => if coreActed s q lvl e.1 then (e.2.l1.filter hit1).map (·.line / 4) else []
  let l2s := if lvl = 0 then [] else
    (s.part q.part).dies.flatMap fun d => ((s.die d).l2.filter hit2).map (·.line)
  let lines := distinct (l1s ++ l2s ++ secs.flatMap fun x => upFrom (sectorAddr x.2.2 / 256) 8)
  let s : State := { s with
    cores := s.cores.map fun e => (e.1, if coreActed s q lvl e.1 then { e.2 with l1 := e.2.l1.filter fun l => !hit1 l } else e.2) }
  let s := if lvl = 0 then s else
    (s.part q.part).dies.foldl (fun s d => s.modDie d fun x => { x with l2 := x.l2.filter fun l => !hit2 l }) s
  let s := secs.foldl
    (fun s x =>
      { s.setSector x.1 x.2.1 { s.sector x.1 x.2.1 with v := false } with
        low := mcopy s.lpd s.low (sectorAddr x.2.2) 2048 })
    s
  lines.foldl (fun s l => if isRemote (256 * l) then s else s.lineFromBelow q.part l) s

/-- What cache maintenance does. -/
inductive Maint where
  | clean | inval | clinv
  deriving DecidableEq, Repr, Inhabited

/-- Cache maintenance of one physical range: the group's earlier accesses to it are performed first; an unprivileged INVAL
of the package's memory acts as CLINV (R311, R312). -/
def State.maintain (s : State) (c : Ctx) (k : Maint) (lvl lo n : Nat) : Acc :=
  let s := if isRemote lo then s.remoteFlush c.g (remoteDest lo) else s
  let s := match k with
    | .clean => s.cleanRange c.q lvl lo n
    | .clinv => (s.cleanRange c.q lvl lo n).discardRange c.q lvl lo n
    | .inval =>
      if c.grp.priv || isRemote lo then s.discardRange c.q lvl lo n
      else (s.cleanRange c.q lvl lo n).discardRange c.q lvl lo n
  s.maintEnd c.q.part lvl lo n

/-- CLEAN, INVAL and CLINV (R310 to R312). -/
def maintEffect (c : Ctx) (s : State) (k : Maint) (lvl a b : Nat) : Res :=
  let n := (c.b.getS b).toNat
  let va := (c.b.getS a).toNat
  if 2 ^ 32 < n then .trap (flt1 .ill n)
  else
    match rangesOf c.q (if k = .clean then .read else .write) (n / 65536 + 2) va n s with
    | .fault f => .trap f
    | .abort s => .aborted s
    | .wait w => .stay w s
    | .ok l t =>
      match accAll (fun x s => s.maintain c k lvl x.1 x.2) l t with
      | .ok _ t => .okEnd t
      | .abort t => .aborted t
      | .wait w => .stay w s

/-- CLEAN (R311). -/
def execClean (z : Bool) (v : BitVec 2) (a b : BitVec 7) (s : State) :=
  issue (descClean z v a b) s fun c s => maintEffect c s .clean v.toNat a.toNat b.toNat
/-- INVAL (R311). -/
def execInval (z : Bool) (v : BitVec 2) (a b : BitVec 7) (s : State) :=
  issue (descInval z v a b) s fun c s => maintEffect c s .inval v.toNat a.toNat b.toNat
/-- CLINV (R311). -/
def execClinv (z : Bool) (v : BitVec 2) (a b : BitVec 7) (s : State) :=
  issue (descClinv z v a b) s fun c s => maintEffect c s .clinv v.toNat a.toNat b.toNat

/-! ## MBATCH and MWAIT (R273, R274) -/

/-- MBATCH (R273). -/
def mbatchEffect (c : Ctx) (s : State) (d : Nat) : Res :=
  let n := c.grp.batch + 1
  .ok ((s.modGrp c.g fun r => { r with batch := n }).modBank c.g fun b => b.setS d (BitVec.ofNat 64 n))

/-- The earliest error of the batches up to n. -/
def Grp.firstErr (r : Grp) (n : Nat) : Option MErr :=
  (r.merrs.filter fun m => decide (m.batch ≤ n)).foldl
    (fun o m => match o with | none => some m | some x => if m.seq < x.seq then some m else some x) none

/-- MWAIT (R274). -/
def mwaitEffect (c : Ctx) (s : State) (a : Nat) : Res :=
  let n := (c.b.getS a).toNat
  if c.grp.batch < n then .trap (flt1 .ill n)
  else if s.matq.any fun m => m.g == c.g && decide (m.batch ≤ n) then .stay (.batches n) s
  else
    match c.grp.firstErr n with
    | none => .okEnd s
    | some m =>
      .trapKept { cls := m.cls, sub := m.sub, detail := m.word, table := m.table }
        (s.modGrp c.g fun r => { r with merrs := r.merrs.filter fun x => x.seq != m.seq })

/-- MBATCH (R273). -/
def execMbatch (z : Bool) (d : BitVec 7) (s : State) := issue (descMbatch z d) s fun c s => mbatchEffect c s d.toNat
/-- MWAIT (R274). -/
def execMwait (z : Bool) (a : BitVec 7) (s : State) := issue (descMwait z a) s fun c s => mwaitEffect c s a.toNat

/-! ## MBX and MSQ (R189, R147) -/

/-- Posts a message to a mailbox, which holds 64 (R189). -/
def Part.post (p : Part) (box : Nat) (m : Msg) : Part × Bool :=
  if box = 0 then
    if p.mbox0.length < 64 then ({ p with mbox0 := p.mbox0 ++ [m] }, true) else (p, false)
  else if p.mbox1.length < 64 then ({ p with mbox1 := p.mbox1 ++ [m] }, true)
  else (p, false)

/-- MBX (R189). -/
def mbxEffect (c : Ctx) (s : State) (d a b : Nat) : Res :=
  let box := (c.b.getS b).toNat
  if 1 < box then .trap (flt1 .ill box)
  else if box = 0 && !c.grp.priv then .trap (flt1 .priv box)
  else if s.remotePending c.g true then .stay (.remote true) s
  else
    let r := (s.part c.q.part).post box { v := c.b.getS a, die := c.q.die, core := c.q.core, launch := c.l.id }
    outS c d (b01 r.2) (s.modPart c.q.part fun _ => r.1)

/-- The result of MSQ's query 0 (R147). -/
def State.msqWord (s : State) (part pa : Nat) : Nat :=
  let p := s.coopPos part pa
  let x := s.sector p.die p.slot
  let v := x.v && !(s.die p.die).blocked.contains p.slot
  2 ^ 63 + b01 (v && x.tag == p.tag) * 2 ^ 62 + b01 v * 2 ^ 61 + b01 x.d * 2 ^ 60 + x.tag % 2 ^ 12 * 2 ^ 48 +
    p.die % 16 * 2 ^ 44 + p.index % 2 ^ 27

/-- An address lies in a partition's LPDDR tier (R132, R133). -/
def State.inTier (s : State) (part pa : Nat) : Bool :=
  match region pa with
  | .lpddr n _ => (s.part part).dies.contains n
  | _ => false

/-- MSQ (R147): the state of a sector is read between requests for its index, when no fill of it is in progress (R140). -/
def msqEffect (c : Ctx) (s : State) (d a b : Nat) : Res :=
  let q := (c.b.getS b).toNat
  if q = 1 then outS c d ((s.part c.q.part).dies.length * s.shareBytes) s
  else if q ≠ 0 then .trap (flt1 .ill q)
  else
    match s.translateTlb c.q (c.b.getS a).toNat .read with
    | .fault f => .trap f
    | .abort s => .aborted s
    | .wait w => .stay w s
    | .ok pa _ s =>
      if s.inTier c.q.part pa then
        let s := s.coopSettle c.q.part (s.coopPos c.q.part pa)
        outS c d (s.msqWord c.q.part pa) s
      else outS c d 0 s

/-- MBX (R189). -/
def execMbx (z : Bool) (d a b : BitVec 7) (s : State) :=
  issue (descMbx z d a b) s fun c s => mbxEffect c s d.toNat a.toNat b.toNat
/-- MSQ (R147). -/
def execMsq (z : Bool) (d a b : BitVec 7) (s : State) :=
  issue (descMsq z d a b) s fun c s => msqEffect c s d.toNat a.toNat b.toNat

end Sys2Proof.Machine
end

