-- ==== Sys2Proof/Machine/Alphabet.lean ====
section
/-! DEFINITION. Alphabets: the fields of an alphabet register, containers, Code and Pack (R50, R200 to R204). -/

namespace Sys2Proof.Machine

/-- The radix k (R200, R201). -/
def alRadix (v : W64) : Nat := bits v.toNat 48 16 + 1
/-- The group count g. -/
def alGroup (v : W64) : Nat := bits v.toNat 41 7
/-- The container width in bits. -/
def alWidth (v : W64) : Nat := 8 * 2 ^ bits v.toNat 39 2
/-- The substitute policy. -/
def alSubst (v : W64) : Bool := bit v.toNat 38
/-- The substitute symbol. -/
def alSymbol (v : W64) : Int := sext 20 (bits v.toNat 18 20)
/-- The symbol offset. -/
def alOffset (v : W64) : Int := sext 16 (bits v.toNat 0 16)

/-- A value forms a valid alphabet register (R201). -/
def alValid (v : W64) : Bool :=
  bits v.toNat 16 2 == 0 && decide (2 ≤ alRadix v) && decide (1 ≤ alGroup v) && decide (alGroup v ≤ 64) &&
    decide (alRadix v ^ alGroup v ≤ 2 ^ alWidth v) &&
    (!alSubst v || (decide (alOffset v ≤ alSymbol v) && decide (alSymbol v ≤ alOffset v + alRadix v - 1)))

/-- The symbols of a valid code (R50). -/
def symbols (v : W64) (c : Nat) : List Int :=
  (List.range (alGroup v)).map fun i => ((c / alRadix v ^ i % alRadix v : Nat) : Int) + alOffset v

/-- A code is an invalid code word (R202). -/
def badCode (v : W64) (c : Nat) : Bool := decide (alRadix v ^ alGroup v ≤ c)

/-- Code(al, c): the symbols, or none for an invalid code under the fault policy (R50). -/
def codeOf (v : W64) (c : Nat) : Option (List Int) :=
  if badCode v c then if alSubst v then some (List.replicate (alGroup v) (alSymbol v)) else none
  else some (symbols v c)

/-- Pack(al, sym) (R50). -/
def packOf (v : W64) : List Int → Nat
  | [] => 0
  | x :: r => packOf v r * alRadix v + (x - alOffset v).toNat

/-- A symbol may be stored (R210, R214). -/
def symOk (v : W64) (x : Int) : Bool := decide (alOffset v ≤ x) && decide (x < alOffset v + alRadix v)

/-- The CODE fault of a kind (R204, R376). For a container in the scratchpad, which has no virtual address and is no register
operand, the spec does not say what the address part holds: the model's choice is its scratchpad byte offset (log entry
57). -/
def codeFault (kind al lane ca : Nat) : FaultRec :=
  { cls := .code, lane := some lane, detail := BitVec.ofNat 64 (kind * 2 ^ 62 + al * 2 ^ 59 + va57 ca) }

/-- A container with the symbol at a position replaced. -/
def repack (v : W64) (c pos : Nat) (x : Int) : Option Nat :=
  (codeOf v c).map fun ss => packOf v (ss.set pos x)

end Sys2Proof.Machine
end

