-- ==== Sys2Proof/Machine/Memory.lean ====
section
/-! DEFINITION. Loads and stores, global and scratchpad, packed loads and stores, atomics, reductions, compare and swap
(R171 to R175, R207 to R213, R299 to R305). -/

namespace Sys2Proof.Machine

/-! ## Addresses and checks -/

/-- The address of a lane of LD and its kind: a base plus a signed 32-bit offset (R174). -/
def Ctx.laneVa (c : Ctx) (x a l : Nat) : Nat := (c.b.getX x).va (sext 32 (c.b.getV a l).toNat)

/-- The address of LDS, STS and WAITC: a base plus a 64-bit offset (R174, R307). -/
def Ctx.scalarVa (c : Ctx) (x a : Nat) : Nat := (c.b.getX x).va (c.b.getS a).toInt

/-- Memory instructions other than the packed ones raise ILL through a register in scratchpad form (R66). -/
def Ctx.spForm (c : Ctx) (x : Nat) : Bool := (c.b.getX x).sp

/-- Alignment, then Translate, of one address (R174). -/
def checkVa (q : Req) (x n : Nat) (kind : Kind) (lane : Option Nat) (va : Nat) (s : State) : Tr :=
  if va % n ≠ 0 then .fault { cls := .align, lane := lane, detail := BitVec.ofNat 64 va } else s.translate q x va kind

/-- The checks of one lane: alignment, Translate, the commit token (R174, R361). `tok` says whether the token is needed for
every access, for those in the shared range, or never. -/
def checkLane (c : Ctx) (x n : Nat) (kind : Kind) (va : Nat → Nat) (tok : Option Bool) (l : Nat) (s : State) : Tr :=
  (checkVa c.q x n kind (some l) (va l) s).token c tok (some l) (va l)

/-- The checks of a scalar access. -/
def checkScalar (c : Ctx) (x n : Nat) (kind : Kind) (va : Nat) (tok : Option Bool) (s : State) : Tr :=
  (checkVa c.q x n kind none va s).token c tok none va

/-- The checks of a vector access, lane by lane, for run-ahead (R94). -/
def laneTrs (x n : Nat) (kind : Kind) (tok : Option Bool) (va : Ctx → Nat → Nat) (c : Ctx) : List (State → Tr) :=
  if c.spForm x then [fun _ => .fault (flt1 .ill x)] else c.lanes.map (checkLane c x n kind (va c) tok)

/-- The checks of a scalar access for run-ahead. -/
def scalarTrs (x n : Nat) (kind : Kind) (tok : Option Bool) (va : Ctx → Nat) (c : Ctx) : List (State → Tr) :=
  if c.spForm x then [fun _ => .fault (flt1 .ill x)] else [checkScalar c x n kind (va c) tok]

/-- A vector access: the register's form and the checks of every active lane, then what the instruction does with the lanes'
addresses (R174, R301, R361, R370). -/
def vecAccess (c : Ctx) (s : State) (x n : Nat) (kind : Kind) (va : Nat → Nat) (tok : Option Bool)
    (k : List (Nat × Nat × Bool) → State → Res) : Res :=
  if c.spForm x then .trap (flt1 .ill x)
  else
    match lanesTr (checkLane c x n kind va tok) c.lanes s with
    | .fault f => .trap f
    | .abort s => .aborted s
    | .wait w => .stay w s
    | .ok ps t => k ps t

/-- A scalar access. -/
def scalarAccess (c : Ctx) (s : State) (x n : Nat) (kind : Kind) (va : Nat) (tok : Option Bool)
    (k : Nat → Bool → State → Res) : Res :=
  if c.spForm x then .trap (flt1 .ill x)
  else
    match checkScalar c x n kind va tok s with
    | .fault f => .trap f
    | .abort s => .aborted s
    | .wait w => .stay w s
    | .ok pa repl t => k pa repl t

/-- The value of a vector operand: a lane, or a lane of a pair for 8-byte elements (R174). -/
def Bank.getE (b : Bank) (n wb l : Nat) : Nat := if wb = 8 then (b.getV2 n l).toNat else (b.getV n l).toNat

/-- Writes the lanes of a vector result: zero-extended, or in a pair. -/
def Bank.setE (b : Bank) (n wb : Nat) (lanes : List Nat) (f : Nat → Nat) : Bank :=
  if wb = 8 then b.setV2 n lanes fun l => BitVec.ofNat 64 (f l) else b.setV n lanes fun l => BitVec.ofNat 32 (f l)

/-! ## Loads held at a replica (R36, R90, R145) -/

/-- A change of a bank under a window base: destinations are named at issue (R36). -/
def Bank.under (wb : Nat) (f : Bank → Bank) (b : Bank) : Bank :=
  if wb = b.wb then f b else { f { b with wb := wb } with wb := b.wb }

/-- A load that is held at a replica waits there with what it needs, past its checks (R90, R145). -/
def HeldLoad.wait (x : HeldLoad) (w : Wait) : Wait :=
  match w with
  | .replica _ => .load x
  | w => w

/-- The lanes of an access with the addresses that its loads use. -/
def loadLanes (q : Req) (ps : List (Nat × Nat × Bool)) : List (Nat × Nat × Bool) := ps.map fun e => (e.1, loadAddr q e.2.2 e.2.1, e.2.2)

/-! ## LD, ST, LDS, STS (R174, R175) -/

/-- LD (R174). -/
def ldEffect (c : Ctx) (s : State) (d a x w h : Nat) : Res :=
  let n := 2 ^ w
  vecAccess c s x n .read (c.laneVa x a) none fun ps t =>
    match lanesDo (fun s e => s.gLoad c e.2.1 n e.2.2 h) (·.1) ps t with
    | .done vs t => .okEnd (t.modBank c.g fun b => b.setE d n c.lanes (laneVal vs))
    | .aborted _ t => .aborted t
    | .wait w => .stay (HeldLoad.wait { vec := true, d := d, wb := c.b.wb, n := n, h := h, lanes := loadLanes c.q ps } w) s

/-- ST (R174). -/
def stEffect (c : Ctx) (s : State) (d a x w h : Nat) : Res :=
  let n := 2 ^ w
  vecAccess c s x n .write (c.laneVa x a) (some false) fun ps t =>
    roomOk c ((lanesDo (fun s e => s.gStore c e.2.1 n (c.b.getE d n e.1 % 2 ^ (8 * n)) e.2.2 h) (·.1) ps t).finish s
      fun _ t => .okEnd t)

/-- LDS (R174). -/
def ldsEffect (c : Ctx) (s : State) (d a x w h : Nat) : Res :=
  let n := 2 ^ w
  scalarAccess c s x n .read (c.scalarVa x a) none fun pa repl t =>
    match t.gLoad c pa n repl h with
    | .ok v t => .okEnd (t.modBank c.g fun b => b.setS d (BitVec.ofNat 64 v))
    | .abort t => .aborted t
    | .wait w =>
      .stay (HeldLoad.wait { vec := false, d := d, wb := c.b.wb, n := n, h := h, lanes := [(0, loadAddr c.q repl pa, repl)] } w) s

/-- STS (R174). -/
def stsEffect (c : Ctx) (s : State) (d a x w h : Nat) : Res :=
  let n := 2 ^ w
  scalarAccess c s x n .write (c.scalarVa x a) (some false) fun pa repl t =>
    match t.gStore c pa n ((c.b.getS d).toNat % 2 ^ (8 * n)) repl h with
    | .ok _ t => roomOk c (.okEnd t)
    | .abort t => .aborted t
    | .wait w => .stay w s

/-- LD (R174). -/
def execLd (z : Bool) (l : BitVec 4) (d a : BitVec 7) (x : BitVec 3) (w h : BitVec 2) (s : State) :=
  issueMem (descLd z l d a x w h) s (fun c s => ldEffect c s d.toNat a.toNat x.toNat w.toNat h.toNat)
    (laneTrs x.toNat (2 ^ w.toNat) .read none fun c => c.laneVa x.toNat a.toNat)
/-- ST (R174). -/
def execSt (z : Bool) (l : BitVec 4) (d a : BitVec 7) (x : BitVec 3) (w h : BitVec 2) (s : State) :=
  issueMem (descSt z l d a x w h) s (fun c s => stEffect c s d.toNat a.toNat x.toNat w.toNat h.toNat)
    (laneTrs x.toNat (2 ^ w.toNat) .write (some false) fun c => c.laneVa x.toNat a.toNat)
/-- LDS (R174). -/
def execLds (z : Bool) (l : BitVec 4) (d a : BitVec 7) (x : BitVec 3) (w h : BitVec 2) (s : State) :=
  issueMem (descLds z l d a x w h) s (fun c s => ldsEffect c s d.toNat a.toNat x.toNat w.toNat h.toNat)
    (scalarTrs x.toNat (2 ^ w.toNat) .read none fun c => c.scalarVa x.toNat a.toNat)
/-- STS (R174). -/
def execSts (z : Bool) (l : BitVec 4) (d a : BitVec 7) (x : BitVec 3) (w h : BitVec 2) (s : State) :=
  issueMem (descSts z l d a x w h) s (fun c s => stsEffect c s d.toNat a.toNat x.toNat w.toNat h.toNat)
    (scalarTrs x.toNat (2 ^ w.toNat) .write (some false) fun c => c.scalarVa x.toNat a.toNat)

/-! ## LDP, STP (R172, R173) -/

/-- The checks of a scratchpad access of n bytes at an offset (R172, R66). -/
def scCheck (scratch n lane off : Nat) : Option FaultRec :=
  if off % n ≠ 0 then some { cls := .align, lane := some lane, detail := BitVec.ofNat 64 off }
  else if scratch < off + n then some { cls := .limit, lane := some lane, detail := BitVec.ofNat 64 off }
  else none

/-- LDP (R172). -/
def ldpEffect (c : Ctx) (s : State) (d a p w : Nat) : Res :=
  let n := 2 ^ w
  let off (l : Nat) : Nat := (c.b.getV a l).toNat
  match c.lanes.findSome? fun l => scCheck c.scratch n l (off l) with
  | some f => .trap f
  | none => .ok (s.modBank c.g fun b => b.setE d n c.lanes fun l => s.scLoad (c.peer p) (off l) n)

/-- STP (R172). -/
def stpEffect (c : Ctx) (s : State) (d a p w : Nat) : Res :=
  let n := 2 ^ w
  let off (l : Nat) : Nat := (c.b.getV a l).toNat
  match c.lanes.findSome? fun l => scCheck c.scratch n l (off l) with
  | some f => .trap f
  | none => .ok (c.lanes.foldl (fun s l => s.scStore (c.peer p) (off l) n (c.b.getE d n l % 2 ^ (8 * n))) s)

/-- LDP (R172). -/
def execLdp (z : Bool) (l : BitVec 4) (d a : BitVec 7) (p : BitVec 3) (w h : BitVec 2) (s : State) :=
  issue (descLdp z l d a p w h) s fun c s => ldpEffect c s d.toNat a.toNat p.toNat w.toNat
/-- STP (R172). -/
def execStp (z : Bool) (l : BitVec 4) (d a : BitVec 7) (p : BitVec 3) (w h : BitVec 2) (s : State) :=
  issue (descStp z l d a p w h) s fun c s => stpEffect c s d.toNat a.toNat p.toNat w.toNat

/-! ## PKLD, PKST (R207 to R213) -/

/-- The address of the container of an element through a translation register; in scratchpad form an offset
(R203, R66). -/
def Ctx.containerVa (c : Ctx) (x : Nat) (v : W64) (e : Nat) : Nat :=
  let r := c.b.getX x
  let off := e / alGroup v * (alWidth v / 8)
  if r.sp then r.base + off else r.va off

/-- The checks of a lane of a packed access: of the symbol to be stored, where there is one; then the scratchpad check, or
alignment, Translate and the commit token (R208, R210, R361). -/
def packCheck (c : Ctx) (x n : Nat) (kind : Kind) (tok : Option Bool) (ca : Nat → Nat) (sym : Nat → Option FaultRec) (l : Nat)
    (s : State) : Tr :=
  match sym l with
  | some f => .fault f
  | none =>
    if c.spForm x then
      match scCheck c.scratch n l (ca l) with
      | some f => .fault f
      | none => .ok (ca l) false s
    else (checkVa c.q x n kind (some l) (ca l) s).token c tok (some l) (ca l)

/-- The alphabet register that PKLD or PKST decodes under: read once, at issue (R206). -/
def Ctx.alOf (c : Ctx) (s : State) (al : Nat) : W64 := c.slot.al.getD ((s.block c.bid).getAl al)

/-- A packed access that must wait keeps the alphabet register that it has read (R206). -/
def stayPacked (c : Ctx) (v : W64) (w : Wait) (s : State) : Res := .stay w (s.modSlot c.g c.sl fun x => { x with al := some v })

/-- One container read: from memory, or from the scratchpad. -/
def State.packLoad (s : State) (c : Ctx) (sp : Bool) (pa n : Nat) (repl : Bool) (h : Nat) : Acc :=
  if sp then .ok (s.scLoad c.bid pa n) s else s.gLoad c pa n repl h

/-- The outcome of reading and decoding the containers of an access, lane by lane. -/
inductive Coded where
  | done (vals : List (Nat × Nat)) (s : State)
  | fault (f : FaultRec)
  | aborted (s : State)
  | wait (w : Wait)
  deriving DecidableEq, Repr, Inhabited

/-- Reads and decodes the containers in ascending lane order; CODE of kind 0 ends the instruction before a higher lane's access
(R204, R208, R210). The values are the codes. -/
def codeLanes (f : State → Nat × Nat × Bool → Acc) (v : W64) (al : Nat) (ca : Nat → Nat) :
    List (Nat × Nat × Bool) → State → Coded
  | [], s => .done [] s
  | y :: r, s =>
    match f s y with
    | .wait w => .wait w
    | .abort t => .aborted (lanesAfter f r t)
    | .ok x t =>
      if (codeOf v x).isNone then .fault (codeFault 0 al y.1 (ca y.1))
      else
        match codeLanes f v al ca r t with
        | .done vs t => .done ((y.1, x) :: vs) t
        | o => o

/-- Sets the sticky flag of an alphabet when a container read was an invalid code under the substitute policy (R58). -/
def State.flagCodes (s : State) (c : Ctx) (v : W64) (al : Nat) (vs : List (Nat × Nat)) : State :=
  if vs.any fun e => badCode v e.2 then s.modBlock c.bid fun b => b.flagAl al else s

/-- The symbol that a lane of PKLD takes from its container's code (R208). -/
def symbolAt (v : W64) (vs : List (Nat × Nat)) (e : Nat → Nat) (l : Nat) : W32 :=
  BitVec.ofInt 32 (((codeOf v (laneVal vs l)).getD []).getD (e l % alGroup v) 0)

/-- PKLD (R208, R209). -/
def pkldEffect (c : Ctx) (s : State) (d a x al h : Nat) : Res :=
  let v := c.alOf s al
  let n := alWidth v / 8
  let sp := c.spForm x
  let e (l : Nat) : Nat := (c.b.getV a l).toNat
  let ca (l : Nat) : Nat := c.containerVa x v (e l)
  match lanesTr (packCheck c x n .read none ca fun _ => none) c.lanes s with
  | .fault f => .trap f
  | .abort s => .aborted s
  | .wait w => stayPacked c v w s
  | .ok ps t =>
    match codeLanes (fun s y => s.packLoad c sp y.2.1 n y.2.2 h) v al ca ps t with
    | .wait w =>
      if alSubst v then
        .stay (HeldLoad.wait { vec := true, d := d, wb := c.b.wb, n := n, h := h, lanes := loadLanes c.q ps, al := some (v, al),
                               idx := c.lanes.map fun l => (l, e l) } w) s
      else stayPacked c v w s
    | .aborted t => .aborted t
    | .fault f => .trap f
    | .done vs t =>
      let t := (t.flagCodes c v al vs).modBank c.g fun b => b.setV d c.lanes (symbolAt v vs e)
      if alSubst v then .okEnd t else .okNoWin t

/-- The read-modify-write of one container (R210, R211, R213); the value is the code read. -/
def State.packRmw (s : State) (c : Ctx) (sp : Bool) (pa n h : Nat) (f : Nat → Option Nat) : Acc :=
  if sp then
    let old := s.scLoad c.bid pa n
    match f old with
    | none => .ok old s
    | some v => .ok old (s.scStore c.bid pa n v)
  else s.gRmw c pa n h f

/-- PKST (R210 to R213). -/
def pkstEffect (c : Ctx) (s : State) (d a x al h : Nat) : Res :=
  let v := c.alOf s al
  let n := alWidth v / 8
  let sp := c.spForm x
  let e (l : Nat) : Nat := (c.b.getV a l).toNat
  let ca (l : Nat) : Nat := c.containerVa x v (e l)
  let x1 (l : Nat) : Int := (c.b.getV d l).toInt
  let sym (l : Nat) : Option FaultRec := if symOk v (x1 l) then none else some (codeFault 1 al l (ca l))
  match lanesTr (packCheck c x n .rmw (some false) ca sym) c.lanes s with
  | .fault f => .trap f
  | .abort s => .aborted s
  | .wait w => stayPacked c v w s
  | .ok ps t =>
    match codeLanes (fun s y => s.packLoad c sp y.2.1 n y.2.2 h) v al ca ps t with
    | .wait w => stayPacked c v w s
    | .aborted t => .aborted t
    | .fault f => .trap f
    | .done _ t =>
      match lanesDo (fun s y => s.packRmw c sp y.2.1 n h fun old => repack v old (e y.1 % alGroup v) (x1 y.1)) (·.1) ps t with
      | .wait w => stayPacked c v w s
      | .aborted _ t => .aborted t
      | .done vs t => roomOk c (.okEnd (t.flagCodes c v al vs))

/-- PKLD (R208). -/
def execPkld (z : Bool) (l : BitVec 4) (d a : BitVec 7) (x g : BitVec 3) (h : BitVec 1) (s : State) :=
  issueMem (descPkld z l d a x g h) s (fun c s => pkldEffect c s d.toNat a.toNat x.toNat g.toNat h.toNat) fun c =>
    let v := c.alOf s g.toNat
    c.lanes.map (packCheck c x.toNat (alWidth v / 8) .read none
      (fun l => c.containerVa x.toNat v (c.b.getV a.toNat l).toNat) fun _ => none)
/-- PKST (R210). -/
def execPkst (z : Bool) (l : BitVec 4) (d a : BitVec 7) (x g : BitVec 3) (h : BitVec 1) (s : State) :=
  issueMem (descPkst z l d a x g h) s (fun c s => pkstEffect c s d.toNat a.toNat x.toNat g.toNat h.toNat) fun c =>
    let v := c.alOf s g.toNat
    c.lanes.map (packCheck c x.toNat (alWidth v / 8) .rmw (some false)
      (fun l => c.containerVa x.toNat v (c.b.getV a.toNat l).toNat) fun _ => none)

end Sys2Proof.Machine
end

