-- ==== Sys2Proof/Machine/Atomics.lean ====
section
/-! DEFINITION. ATOM, RED, CAS and WAITC (R299 to R308). -/

namespace Sys2Proof.Machine

/-! ## ATOM, RED, CAS (R300 to R305) -/

/-- The element bytes of W64 (R24). -/
def w64Bytes (w : BitVec 1) : Nat := if w = 0 then 4 else 8

/-- ATOM: one point of the order for each lane, the old values returned (R301); in a ticketed launch only after every lower
block's release (R356). -/
def atomEffect (c : Ctx) (s : State) (op : AOp) (n d a x : Nat) : Res :=
  vecAccess c s x n .rmw (c.laneVa x a) (some true) fun ps t =>
    if c.ticketed && !c.lowerReleased t then .stay .lower s
    else
      roomOk c ((lanesDo (fun s e => s.gRmw c e.2.1 n 0 fun old => some (aluOp op (8 * n) old (c.b.getE d n e.1)))
        (·.1) ps t).finish s fun vs t => .okEnd (t.modBank c.g fun b => b.setE d n c.lanes (laneVal vs)))

/-- RED: as ATOM, writing no register (R302). -/
def redEffect (c : Ctx) (s : State) (op : AOp) (n d a x : Nat) : Res :=
  vecAccess c s x n .rmw (c.laneVa x a) (some true) fun ps t =>
    roomOk c ((lanesDo (fun s e => s.gRed c e.2.1 n op (c.b.getE d n e.1)) (·.1) ps t).finish s fun _ t => .okEnd t)

/-- CAS (R303). -/
def casEffect (c : Ctx) (s : State) (n d a x h : Nat) : Res :=
  vecAccess c s x n .rmw (c.laneVa x a) (some true) fun ps t =>
    if c.ticketed && !c.lowerReleased t then .stay .lower s
    else
      roomOk c ((lanesDo (fun s e => s.gRmw c e.2.1 n h fun old =>
          if old = c.b.getE d n e.1 then some (c.b.getE (d + n / 4) n e.1) else none)
        (·.1) ps t).finish s fun vs t => .okEnd (t.modBank c.g fun b => b.setE d n c.lanes (laneVal vs)))

/-- ATOM_ADD (R301). -/
def execAtomAdd (z : Bool) (w : BitVec 1) (l : BitVec 3) (d a : BitVec 7) (x : BitVec 3) (s : State) :=
  issueMem (descAtomAdd z w l d a x) s (fun c s => atomEffect c s .add (w64Bytes w) d.toNat a.toNat x.toNat)
    (laneTrs x.toNat (w64Bytes w) .rmw (some true) fun c => c.laneVa x.toNat a.toNat)
/-- ATOM_AND (R301). -/
def execAtomAnd (z : Bool) (w : BitVec 1) (l : BitVec 3) (d a : BitVec 7) (x : BitVec 3) (s : State) :=
  issueMem (descAtomAnd z w l d a x) s (fun c s => atomEffect c s .and (w64Bytes w) d.toNat a.toNat x.toNat)
    (laneTrs x.toNat (w64Bytes w) .rmw (some true) fun c => c.laneVa x.toNat a.toNat)
/-- ATOM_OR (R301). -/
def execAtomOr (z : Bool) (w : BitVec 1) (l : BitVec 3) (d a : BitVec 7) (x : BitVec 3) (s : State) :=
  issueMem (descAtomOr z w l d a x) s (fun c s => atomEffect c s .or (w64Bytes w) d.toNat a.toNat x.toNat)
    (laneTrs x.toNat (w64Bytes w) .rmw (some true) fun c => c.laneVa x.toNat a.toNat)
/-- ATOM_XOR (R301). -/
def execAtomXor (z : Bool) (w : BitVec 1) (l : BitVec 3) (d a : BitVec 7) (x : BitVec 3) (s : State) :=
  issueMem (descAtomXor z w l d a x) s (fun c s => atomEffect c s .xor (w64Bytes w) d.toNat a.toNat x.toNat)
    (laneTrs x.toNat (w64Bytes w) .rmw (some true) fun c => c.laneVa x.toNat a.toNat)
/-- ATOM_MIN (R301). -/
def execAtomMin (z : Bool) (w : BitVec 1) (l : BitVec 3) (d a : BitVec 7) (x : BitVec 3) (s : State) :=
  issueMem (descAtomMin z w l d a x) s (fun c s => atomEffect c s .min (w64Bytes w) d.toNat a.toNat x.toNat)
    (laneTrs x.toNat (w64Bytes w) .rmw (some true) fun c => c.laneVa x.toNat a.toNat)
/-- ATOM_MAX (R301). -/
def execAtomMax (z : Bool) (w : BitVec 1) (l : BitVec 3) (d a : BitVec 7) (x : BitVec 3) (s : State) :=
  issueMem (descAtomMax z w l d a x) s (fun c s => atomEffect c s .max (w64Bytes w) d.toNat a.toNat x.toNat)
    (laneTrs x.toNat (w64Bytes w) .rmw (some true) fun c => c.laneVa x.toNat a.toNat)
/-- ATOM_MINN (R301). -/
def execAtomMinn (z : Bool) (w : BitVec 1) (l : BitVec 3) (d a : BitVec 7) (x : BitVec 3) (s : State) :=
  issueMem (descAtomMinn z w l d a x) s (fun c s => atomEffect c s .minn (w64Bytes w) d.toNat a.toNat x.toNat)
    (laneTrs x.toNat (w64Bytes w) .rmw (some true) fun c => c.laneVa x.toNat a.toNat)
/-- ATOM_MAXN (R301). -/
def execAtomMaxn (z : Bool) (w : BitVec 1) (l : BitVec 3) (d a : BitVec 7) (x : BitVec 3) (s : State) :=
  issueMem (descAtomMaxn z w l d a x) s (fun c s => atomEffect c s .maxn (w64Bytes w) d.toNat a.toNat x.toNat)
    (laneTrs x.toNat (w64Bytes w) .rmw (some true) fun c => c.laneVa x.toNat a.toNat)
/-- ATOM_XCHG (R301). -/
def execAtomXchg (z : Bool) (w : BitVec 1) (l : BitVec 3) (d a : BitVec 7) (x : BitVec 3) (s : State) :=
  issueMem (descAtomXchg z w l d a x) s (fun c s => atomEffect c s .xchg (w64Bytes w) d.toNat a.toNat x.toNat)
    (laneTrs x.toNat (w64Bytes w) .rmw (some true) fun c => c.laneVa x.toNat a.toNat)
/-- ATOM_INC (R301). -/
def execAtomInc (z : Bool) (w : BitVec 1) (l : BitVec 3) (d a : BitVec 7) (x : BitVec 3) (s : State) :=
  issueMem (descAtomInc z w l d a x) s (fun c s => atomEffect c s .inc (w64Bytes w) d.toNat a.toNat x.toNat)
    (laneTrs x.toNat (w64Bytes w) .rmw (some true) fun c => c.laneVa x.toNat a.toNat)
/-- ATOM_DEC (R301). -/
def execAtomDec (z : Bool) (w : BitVec 1) (l : BitVec 3) (d a : BitVec 7) (x : BitVec 3) (s : State) :=
  issueMem (descAtomDec z w l d a x) s (fun c s => atomEffect c s .dec (w64Bytes w) d.toNat a.toNat x.toNat)
    (laneTrs x.toNat (w64Bytes w) .rmw (some true) fun c => c.laneVa x.toNat a.toNat)
/-- ATOM_FADD (R301). -/
def execAtomFadd (z : Bool) (l : BitVec 3) (d a : BitVec 7) (x : BitVec 3) (s : State) :=
  issueMem (descAtomFadd z l d a x) s (fun c s => atomEffect c s .fadd 4 d.toNat a.toNat x.toNat)
    (laneTrs x.toNat 4 .rmw (some true) fun c => c.laneVa x.toNat a.toNat)
/-- RED_ADD (R302). -/
def execRedAdd (z : Bool) (w : BitVec 1) (l : BitVec 3) (d a : BitVec 7) (x : BitVec 3) (s : State) :=
  issueMem (descRedAdd z w l d a x) s (fun c s => redEffect c s .add (w64Bytes w) d.toNat a.toNat x.toNat)
    (laneTrs x.toNat (w64Bytes w) .rmw (some true) fun c => c.laneVa x.toNat a.toNat)
/-- RED_AND (R302). -/
def execRedAnd (z : Bool) (w : BitVec 1) (l : BitVec 3) (d a : BitVec 7) (x : BitVec 3) (s : State) :=
  issueMem (descRedAnd z w l d a x) s (fun c s => redEffect c s .and (w64Bytes w) d.toNat a.toNat x.toNat)
    (laneTrs x.toNat (w64Bytes w) .rmw (some true) fun c => c.laneVa x.toNat a.toNat)
/-- RED_OR (R302). -/
def execRedOr (z : Bool) (w : BitVec 1) (l : BitVec 3) (d a : BitVec 7) (x : BitVec 3) (s : State) :=
  issueMem (descRedOr z w l d a x) s (fun c s => redEffect c s .or (w64Bytes w) d.toNat a.toNat x.toNat)
    (laneTrs x.toNat (w64Bytes w) .rmw (some true) fun c => c.laneVa x.toNat a.toNat)
/-- RED_XOR (R302). -/
def execRedXor (z : Bool) (w : BitVec 1) (l : BitVec 3) (d a : BitVec 7) (x : BitVec 3) (s : State) :=
  issueMem (descRedXor z w l d a x) s (fun c s => redEffect c s .xor (w64Bytes w) d.toNat a.toNat x.toNat)
    (laneTrs x.toNat (w64Bytes w) .rmw (some true) fun c => c.laneVa x.toNat a.toNat)
/-- RED_MIN (R302). -/
def execRedMin (z : Bool) (w : BitVec 1) (l : BitVec 3) (d a : BitVec 7) (x : BitVec 3) (s : State) :=
  issueMem (descRedMin z w l d a x) s (fun c s => redEffect c s .min (w64Bytes w) d.toNat a.toNat x.toNat)
    (laneTrs x.toNat (w64Bytes w) .rmw (some true) fun c => c.laneVa x.toNat a.toNat)
/-- RED_MAX (R302). -/
def execRedMax (z : Bool) (w : BitVec 1) (l : BitVec 3) (d a : BitVec 7) (x : BitVec 3) (s : State) :=
  issueMem (descRedMax z w l d a x) s (fun c s => redEffect c s .max (w64Bytes w) d.toNat a.toNat x.toNat)
    (laneTrs x.toNat (w64Bytes w) .rmw (some true) fun c => c.laneVa x.toNat a.toNat)
/-- RED_MINN (R302). -/
def execRedMinn (z : Bool) (w : BitVec 1) (l : BitVec 3) (d a : BitVec 7) (x : BitVec 3) (s : State) :=
  issueMem (descRedMinn z w l d a x) s (fun c s => redEffect c s .minn (w64Bytes w) d.toNat a.toNat x.toNat)
    (laneTrs x.toNat (w64Bytes w) .rmw (some true) fun c => c.laneVa x.toNat a.toNat)
/-- RED_MAXN (R302). -/
def execRedMaxn (z : Bool) (w : BitVec 1) (l : BitVec 3) (d a : BitVec 7) (x : BitVec 3) (s : State) :=
  issueMem (descRedMaxn z w l d a x) s (fun c s => redEffect c s .maxn (w64Bytes w) d.toNat a.toNat x.toNat)
    (laneTrs x.toNat (w64Bytes w) .rmw (some true) fun c => c.laneVa x.toNat a.toNat)
/-- RED_XCHG (R302). -/
def execRedXchg (z : Bool) (w : BitVec 1) (l : BitVec 3) (d a : BitVec 7) (x : BitVec 3) (s : State) :=
  issueMem (descRedXchg z w l d a x) s (fun c s => redEffect c s .xchg (w64Bytes w) d.toNat a.toNat x.toNat)
    (laneTrs x.toNat (w64Bytes w) .rmw (some true) fun c => c.laneVa x.toNat a.toNat)
/-- RED_INC (R302). -/
def execRedInc (z : Bool) (w : BitVec 1) (l : BitVec 3) (d a : BitVec 7) (x : BitVec 3) (s : State) :=
  issueMem (descRedInc z w l d a x) s (fun c s => redEffect c s .inc (w64Bytes w) d.toNat a.toNat x.toNat)
    (laneTrs x.toNat (w64Bytes w) .rmw (some true) fun c => c.laneVa x.toNat a.toNat)
/-- RED_DEC (R302). -/
def execRedDec (z : Bool) (w : BitVec 1) (l : BitVec 3) (d a : BitVec 7) (x : BitVec 3) (s : State) :=
  issueMem (descRedDec z w l d a x) s (fun c s => redEffect c s .dec (w64Bytes w) d.toNat a.toNat x.toNat)
    (laneTrs x.toNat (w64Bytes w) .rmw (some true) fun c => c.laneVa x.toNat a.toNat)
/-- RED_FADD (R302). -/
def execRedFadd (z : Bool) (l : BitVec 3) (d a : BitVec 7) (x : BitVec 3) (s : State) :=
  issueMem (descRedFadd z l d a x) s (fun c s => redEffect c s .fadd 4 d.toNat a.toNat x.toNat)
    (laneTrs x.toNat 4 .rmw (some true) fun c => c.laneVa x.toNat a.toNat)
/-- CAS (R303). -/
def execCas (z : Bool) (l : BitVec 4) (d a : BitVec 7) (x : BitVec 3) (w : BitVec 1) (h : BitVec 2) (s : State) :=
  issueMem (descCas z l d a x w h) s (fun c s => casEffect c s (w64Bytes w) d.toNat a.toNat x.toNat h.toNat)
    (laneTrs x.toNat (w64Bytes w) .rmw (some true) fun c => c.laneVa x.toNat a.toNat)

/-! ## WAITC (R306 to R308, R161 to R164) -/

/-- What WAITC returns: s(d) the value, s(d+1) whether it met the condition (R306). -/
def waitcWrite (d : Nat) (v : W64) (met : Bool) (b : Bank) : Bank := (b.setS d v).setS (d + 1) (w01 met)

/-- The monitors of the home slice of an address, whichever partition's they are (R163). -/
def State.sliceMonitors (s : State) (part pa : Nat) : Nat :=
  (s.monitors.filter fun m =>
    s.homeDie (s.ownerOf m.pa) m.pa == s.homeDie part pa && sliceOf m.pa == sliceOf pa).length

/-- The slice of an address has a monitor free (R163). -/
def State.mayArm (s : State) (part pa : Nat) : Bool := decide (s.sliceMonitors part pa < 64)

/-- Arms a monitor when the slice has one free (R161, R163). -/
def State.arm (s : State) (q : Req) (g : GId) (sl : SlotId) (pa : Nat) (k : WCond) (v : W64) : Option State :=
  if s.mayArm q.part pa then some { s with monitors := s.monitors ++ [{ pa := pa, c := k, v := v, g := g, sl := sl }] } else none

/-- Reads the element that a WAITC watches: at the home slice, where arming a monitor takes the line out of every L1 that holds it
exclusive, or at its destination beyond the package (R161, R307). -/
def State.watchRead (s : State) (q : Req) (pa : Nat) : Acc :=
  if isRemote pa then
    if !s.reach q.part pa then .abort s
    else
      let s := s.remoteFlush q.g (remoteDest pa)
      .ok (loadN s.low pa 8) s
  else
    (s.lineAccess q.part pa 0 true).bind fun _ s =>
      let s := if s.mayArm q.part pa then s.l1TakeOut q.part (pa / 256) else s
      .ok (loadN s.mem pa 8) (s.l1Recall q.part (pa / 64) none false)

/-- One evaluation of a WAITC (R307). One that is issued again keeps its deadline (R101, R164; log entry 9). One whose read is
held at a replica polls until it is served (R145). -/
def waitcRead (c : Ctx) (s : State) (k : WCond) (d a x : Nat) (timed : Bool) : Res :=
  scalarAccess c s x 8 .read (c.scalarVa x a) none fun pa0 repl t =>
    let pa := loadAddr c.q repl pa0
    let v := c.b.getS d
    let until_ := c.slot.until_.getD (t.cycle + (c.b.getS (d + 1)).toNat)
    match t.watchRead c.q pa with
    | .abort t => .aborted t
    | .wait _ => .stay (.cond pa k v d (if timed then some until_ else none) t.cycle false false) t
    | .ok e t =>
      let e := BitVec.ofNat 64 e
      if condMet k e v then .okEnd (t.modBank c.g (waitcWrite d e true))
      else if timed && decide (until_ ≤ t.cycle) then .okEnd (t.modBank c.g (waitcWrite d e false))
      else
        let dl := if timed then some until_ else none
        if isRemote pa then .stay (.cond pa k v d dl (t.cycle + 2048) false true) t
        else
          match t.arm c.q c.g c.sl pa k v with
          | some t => .stay (.cond pa k v d dl 0 true false) t
          | none => .stay (.cond pa k v d dl (t.cycle + 2048) false false) t

/-- A fault of an instruction that has cancelled its slot's monitor leaves it cancelled (R165). -/
def Res.keep (r : Res) (s : State) : Res :=
  match r with
  | .trap f => .trapKept f s
  | r => r

/-- WAITC: an evaluation that meets the condition, or one with a timeout of 0, ends it at once; else the slot waits with a
monitor, or polling (R307). A wake that came while it was to be issued again ends it (R162; log entry 9). -/
def waitcEffect (c : Ctx) (s : State) (k : WCond) (d a x : Nat) (timed : Bool) : Res :=
  let t := s.cancelMonitors c.g (some c.sl)
  match s.wakes.find? fun w => w.g == c.g && w.sl == c.sl with
  | some w => .okEnd (t.modBank c.g (waitcWrite d w.v true))
  | none => (waitcRead c t k d a x timed).keep t

/-- WAITC_EQ (R307). -/
def execWaitcEq (z : Bool) (d a : BitVec 7) (x : BitVec 3) (t : BitVec 1) (s : State) :=
  issue (descWaitcEq z d a x t) s fun c s => waitcEffect c s .eq d.toNat a.toNat x.toNat (t == 1)
/-- WAITC_NE (R307). -/
def execWaitcNe (z : Bool) (d a : BitVec 7) (x : BitVec 3) (t : BitVec 1) (s : State) :=
  issue (descWaitcNe z d a x t) s fun c s => waitcEffect c s .ne d.toNat a.toNat x.toNat (t == 1)
/-- WAITC_LT (R307). -/
def execWaitcLt (z : Bool) (d a : BitVec 7) (x : BitVec 3) (t : BitVec 1) (s : State) :=
  issue (descWaitcLt z d a x t) s fun c s => waitcEffect c s .lt d.toNat a.toNat x.toNat (t == 1)
/-- WAITC_GE (R307). -/
def execWaitcGe (z : Bool) (d a : BitVec 7) (x : BitVec 3) (t : BitVec 1) (s : State) :=
  issue (descWaitcGe z d a x t) s fun c s => waitcEffect c s .ge d.toNat a.toNat x.toNat (t == 1)
/-- WAITC_LTN (R307). -/
def execWaitcLtn (z : Bool) (d a : BitVec 7) (x : BitVec 3) (t : BitVec 1) (s : State) :=
  issue (descWaitcLtn z d a x t) s fun c s => waitcEffect c s .ltn d.toNat a.toNat x.toNat (t == 1)
/-- WAITC_GEN (R307). -/
def execWaitcGen (z : Bool) (d a : BitVec 7) (x : BitVec 3) (t : BitVec 1) (s : State) :=
  issue (descWaitcGen z d a x t) s fun c s => waitcEffect c s .gen d.toNat a.toNat x.toNat (t == 1)
/-- WAITC_ANY (R307). -/
def execWaitcAny (z : Bool) (d a : BitVec 7) (x : BitVec 3) (t : BitVec 1) (s : State) :=
  issue (descWaitcAny z d a x t) s fun c s => waitcEffect c s .any d.toNat a.toNat x.toNat (t == 1)

end Sys2Proof.Machine
end

