-- ==== Sys2Proof/Machine/Misc.lean ====
section
/-! DEFINITION. The MISC family: random streams, order-free sums, CRC and clocks (R364 to R368). -/

namespace Sys2Proof.Machine

/-! ## RAND: ChaCha20 (R364) -/

/-- Word i of a ChaCha20 state. -/
def chaGet (x : List W32) (i : Nat) : W32 := x.getD i 0

/-- The quarter round of ChaCha20 on words a, b, c, d. -/
def quarter (x : List W32) (a b c d : Nat) : List W32 :=
  let va := chaGet x a + chaGet x b
  let vd := (chaGet x d ^^^ va).rotateLeft 16
  let vc := chaGet x c + vd
  let vb := (chaGet x b ^^^ vc).rotateLeft 12
  let va := va + vb
  let vd := (vd ^^^ va).rotateLeft 8
  let vc := vc + vd
  let vb := (vb ^^^ vc).rotateLeft 7
  (((x.set a va).set b vb).set c vc).set d vd

/-- A column round and a diagonal round. -/
def doubleRound (x : List W32) : List W32 :=
  let x := quarter (quarter (quarter (quarter x 0 4 8 12) 1 5 9 13) 2 6 10 14) 3 7 11 15
  quarter (quarter (quarter (quarter x 0 5 10 15) 1 6 11 12) 2 7 8 13) 3 4 9 14

/-- n double rounds. -/
def rounds : Nat → List W32 → List W32
  | 0, x => x
  | n + 1, x => rounds n (doubleRound x)

/-- The ChaCha20 block function (R364). -/
def chaBlock (key : List W32) (counter : W32) (nonce : List W32) : List W32 :=
  let x := [0x61707865, 0x3320646e, 0x79622d32, 0x6b206574] ++ key ++ [counter] ++ nonce
  (x.zip (rounds 10 x)).map fun e => e.1 + e.2

/-- RAND (R364). -/
def randEffect (c : Ctx) (s : State) (d a b : Nat) : Res :=
  let key := (List.range 8).map fun i => (c.b.getS (a + i)).setWidth 32
  let stream : W64 := c.l.record.getD 4 0
  let word (l : Nat) : W32 :=
    let L := 64 * s.flatOf c.g + l
    chaGet (chaBlock key (c.b.getV b l) [stream.setWidth 32, BitVec.ofNat 32 L, BitVec.ofNat 32 (L / 2 ^ 32)])
      ((c.b.getV (b + 1) l).toNat % 16)
  .ok (s.modBank c.g fun k => k.setV d c.lanes word)

/-- RAND (R364). -/
def execRand (z : Bool) (d a b : BitVec 7) (s : State) :=
  issue (descRand z d a b) s fun c s => randEffect c s d.toNat a.toNat b.toNat

/-! ## FXSPLIT and FXJOIN (R365, R366) -/

/-- The limb index and contribution of FP32 bits (R365). -/
def fxOf (x : W32) : Nat × Int :=
  let n := x.toNat
  let e := bits n 23 8
  let m := bits n 0 23
  let neg := bit n 31
  if e = 255 then (if m ≠ 0 then (20, 1) else if neg then (19, 1) else (18, 1))
  else if e = 0 && m = 0 then (0, 0)
  else
    let q := e - 1
    let M := if e = 0 then m else 2 ^ 23 + m
    (q / 16, signedM neg (M * 2 ^ (q % 16)))

/-- FXSPLIT (R365). -/
def execFxsplit (z : Bool) (d a : BitVec 7) (s : State) :=
  issueBank (descFxsplit z d a) s fun c k =>
    let x (l : Nat) : Nat × Int := fxOf (c.b.getV a.toNat l)
    ((k.setV2 d.toNat c.lanes fun l => BitVec.ofInt 64 (x l).2).setV (d.toNat + 2) c.lanes fun l => BitVec.ofNat 32 (x l).1).setV
      (d.toNat + 3) c.lanes fun l => BitVec.ofNat 32 (8 * (x l).1)

/-- The exact sum of limbs 0 to n − 1, in units of 2^−149 (R366). -/
def limbSum (f : Nat → W64) : Nat → Int
  | 0 => 0
  | n + 1 => limbSum f n + (f n).toInt * 2 ^ (16 * n)

/-- What FXJOIN joins limbs to (R366). -/
def fxJoin (f : Nat → W64) (mode : RMode) : W32 :=
  if f 20 != 0 || (f 18 != 0 && f 19 != 0) then 0x7FC00000
  else if f 18 != 0 then BitVec.ofNat 32 (roundTo .fp32 mode 0 (.inf false))
  else if f 19 != 0 then BitVec.ofNat 32 (roundTo .fp32 mode 0 (.inf true))
  else
    let t := limbSum f 18
    BitVec.ofNat 32 (roundTo .fp32 mode 0
      (if t = 0 then .fin (mode == .rdn) 0 0 else .fin (decide (t < 0)) t.natAbs (-149)))

/-- FXJOIN (R366). -/
def execFxjoin (z : Bool) (d a o : BitVec 7) (s : State) :=
  issueBank (descFxjoin z d a o) s fun _ k =>
    k.setS d.toNat ((fxJoin (fun l => k.getV2 a.toNat l) (cvtMode o.toNat k.rmode)).setWidth 64)

/-! ## CRC and CLK (R367, R368) -/

/-- n steps of the reflected CRC-32C register. -/
def crcBits : Nat → Nat → Nat
  | 0, r => r
  | n + 1, r => crcBits n (if r % 2 = 1 then r / 2 ^^^ 0x82F63B78 else r / 2)

/-- Folds the low n bytes of a value into the register, lowest first (R367). -/
def crcBytes : Nat → Nat → Nat → Nat
  | 0, _, r => r
  | n + 1, v, r => crcBytes n (v / 256) (crcBits 8 (r ^^^ v % 256))

/-- CRC (R367). -/
def crcEffect (c : Ctx) (s : State) (d a b : Nat) : Res :=
  let n := (c.b.getS b).toNat
  if 8 < n then .trap (flt1 .ill n)
  else if n = 0 then .ok s
  else .ok (s.modBank c.g fun k =>
    k.setS d (BitVec.ofNat 64 (crcBytes n (c.b.getS a).toNat ((c.b.getS d).toNat % 2 ^ 32))))

/-- CRC (R367). -/
def execCrc (z : Bool) (d a b : BitVec 7) (s : State) :=
  issue (descCrc z d a b) s fun c s => crcEffect c s d.toNat a.toNat b.toNat

/-- CLK (R368). -/
def execClk (z : Bool) (d b : BitVec 7) (s : State) :=
  issue (descClk z d b) s fun c s =>
    let v := c.b.getS b.toNat
    if v = 0 then .ok (s.modBank c.g fun k => k.setS d.toNat (BitVec.ofNat 64 s.cycle))
    else if v = 1 then .ok (s.modBank c.g fun k => k.setS d.toNat (BitVec.ofNat 64 s.nanos))
    else .trap (flt1 .ill v.toNat)

end Sys2Proof.Machine
end

