-- ==== Sys2Proof/Machine/Kv.lean ====
section
/-! DEFINITION. The KV space: coordinates, tables, the walk, frames and granted-frame caches, sharing, KVLD and the KVOP family
(R106 to R131). -/

namespace Sys2Proof.Machine

/-! ## Coordinates (R106) -/

/-- The space of a coordinate. -/
def kvSpaceOf (c : W64) : Nat := bits c.toNat 60 4
/-- The sequence. -/
def kvSeqOf (c : W64) : Nat := bits c.toNat 40 20
/-- The layer. -/
def kvLayerOf (c : W64) : Nat := bits c.toNat 32 8
/-- The head. -/
def kvHeadOf (c : W64) : Nat := bits c.toNat 24 8
/-- The position. -/
def kvPosOf (c : W64) : Nat := bits c.toNat 0 24

/-- A KV fault with its coordinate and the table entry at which the walk stopped (R121, R122). -/
def kvFault (cause : Nat) (c : W64) (entry : Nat) : FaultRec := { cls := .kv, sub := cause, kv := some (c, entry) }

/-! ## Reads of the tables (R113) -/

/-- The outcome of a KV walk or of a part of it. -/
inductive KvR (α : Type) where
  | ok (a : α) (s : State)
  | stop (f : FaultRec)
  | abort (s : State)
  | wait (w : Wait)
  deriving Repr

/-- Goes on after a part of a walk. -/
def KvR.bind {α β : Type} (x : KvR α) (f : α → State → KvR β) : KvR β :=
  match x with
  | .ok a s => f a s
  | .stop e => .stop e
  | .abort s => .abort s
  | .wait w => .wait w

/-- How an instruction goes on after its walk. -/
def KvR.res {α : Type} (x : KvR α) (s : State) (k : α → State → Res) : Res :=
  match x with
  | .ok a t => k a t
  | .stop f => .trap f
  | .abort t => .aborted t
  | .wait w => .stay w s

/-- Goes on when a condition holds, else raises a fault. -/
def KvR.check {α : Type} (ok : Bool) (f : FaultRec) (k : KvR α) : KvR α := if ok then k else .stop f

/-- One 8-byte read of a table. -/
def kvRead (s : State) (part pa : Nat) : KvR Nat :=
  match s.homeLoad part pa 8 with
  | .ok v s => .ok v s
  | .abort s => .abort s
  | .wait w => .wait w

/-- A space descriptor (R108). -/
structure KvSpace where
  addr : Nat
  seqtab : Nat
  fmt : Nat
  rowbytes : Nat
  layersm1 : Nat
  headsm1 : Nat
  nseqm1 : Nat
  voff : Nat
  deriving DecidableEq, Repr, Inhabited

/-- Positions of a page (R109). -/
def KvSpace.tpp (d : KvSpace) : Nat := 65536 / d.rowbytes

/-- The descriptor of a coordinate's space; v is tested first (R108, R113). -/
def kvSpace (s : State) (part : Nat) (c : W64) : KvR KvSpace :=
  let at_ := (s.part part).spaces + 32 * kvSpaceOf c
  (kvRead s part at_).bind fun e0 s =>
    .check (bit e0 0) (kvFault 4 c at_) <|
    (kvRead s part (at_ + 8)).bind fun e1 s =>
      (kvRead s part (at_ + 16)).bind fun e2 s =>
        (kvRead s part (at_ + 24)).bind fun e3 s =>
          let d : KvSpace := {
            addr := at_, seqtab := bits e0 16 36 * 65536, fmt := bits e0 8 4, rowbytes := bits e1 48 16
            layersm1 := bits e1 40 8, headsm1 := bits e1 32 8, nseqm1 := bits e1 12 20, voff := bits e2 0 16 }
          let ok := bits e0 52 12 == 0 && bits e0 12 4 == 0 && bits e0 1 7 == 0 && decide (d.fmt ≤ 4) &&
            d.rowbytes % 64 == 0 && decide (64 ≤ d.rowbytes) && decide (d.rowbytes ≤ 16384) && bits e1 0 12 == 0 &&
            bits e2 16 48 == 0 && d.voff % 64 == 0 && decide (d.voff < d.rowbytes) && e3 == 0
          .check ok (kvFault 7 c at_) (.ok d s)

/-- A sequence record (R110). -/
structure KvSeq where
  addr : Nat
  length : Nat
  ldir : Nat
  fk : Bool
  parent : Nat
  deriving DecidableEq, Repr, Inhabited

/-- The record of a coordinate's sequence. `lh` says whether layer and head are used (R113, R130). -/
def kvRec (s : State) (part : Nat) (c : W64) (lh : Bool) : KvR (KvSpace × KvSeq) :=
  (kvSpace s part c).bind fun d s =>
    .check (decide (kvSeqOf c ≤ d.nseqm1) && (!lh || decide (kvLayerOf c ≤ d.layersm1) && decide (kvHeadOf c ≤ d.headsm1)))
      (kvFault 5 c d.addr) <|
    let ea := d.seqtab + 8 * kvSeqOf c
    (kvRead s part ea).bind fun e s =>
      .check (bits e 52 12 == 0 && bits e 1 5 == 0) (kvFault 7 c ea) <|
      .check (bit e 0) (kvFault 6 c ea) <|
      let ra := bits e 6 46 * 64
      (kvRead s part ra).bind fun r0 s =>
        (kvRead s part (ra + 8)).bind fun r1 s =>
          (kvRead s part (ra + 16)).bind fun r2 s =>
            .check (decide (r0 ≤ 2 ^ 24) && bits r1 52 12 == 0 && bits r1 1 11 == 0 && bits r2 21 43 == 0) (kvFault 7 c ra) <|
            .check (bit r1 0) (kvFault 6 c ra) <|
            .ok (d, { addr := ra, length := r0, ldir := bits r1 12 40 * 4096, fk := bit r2 20, parent := bits r2 0 20 }) s

/-- A directory entry: whether its page list exists, its address and cap (R111). -/
structure KvDir where
  addr : Nat
  v : Bool
  plist : Nat
  cap : Nat
  deriving DecidableEq, Repr, Inhabited

/-- Directory entry k of a sequence. -/
def kvDir (s : State) (part : Nat) (c : W64) (r : KvSeq) (k : Nat) : KvR KvDir :=
  let ga := r.ldir + 16 * k
  (kvRead s part ga).bind fun g0 s =>
    (kvRead s part (ga + 8)).bind fun g1 s =>
      .check (bits g0 52 12 == 0 && bits g0 1 7 == 0 && bits g1 23 41 == 0) (kvFault 7 c ga) <|
      .ok { addr := ga, v := bit g0 0, plist := bits g0 8 44 * 256, cap := g1 } s

/-- A page entry exists. -/
def kvV (e : Nat) : Bool := bit e 0
/-- A page entry's loc: 0 HBM, 1 offloaded. -/
def kvLoc (e : Nat) : Nat := bits e 1 2
/-- A page entry's frame. -/
def kvFrame (e : Nat) : Nat := bits e 16 36 * 65536

/-- Reads a page entry; one that names a frame outside the pool is malformed (R111, R113). -/
def kvPage (s : State) (part : Nat) (c : W64) (pe : Nat) : KvR Nat :=
  (kvRead s part pe).bind fun e s =>
    .check (bits e 52 12 == 0 && bits e 3 13 == 0 && decide (kvLoc e < 2) &&
      (!kvV e || kvLoc e == 1 || ((s.part part).frameEntry (kvFrame e)).isSome)) (kvFault 7 c pe) <| .ok e s

/-- The number of a directory entry (R111). -/
def KvSpace.dirIndex (d : KvSpace) (c : W64) : Nat := kvLayerOf c * (d.headsm1 + 1) + kvHeadOf c

/-- The page entry of a coordinate as far as it exists: the address and the entry, or the directory entry that has none. -/
def kvEntry (s : State) (part : Nat) (c : W64) (d : KvSpace) (r : KvSeq) : KvR (Nat × Option Nat) :=
  (kvDir s part c r (d.dirIndex c)).bind fun g s =>
    let i := kvPosOf c / d.tpp
    if !g.v || g.cap ≤ i then .ok (g.addr, none) s
    else (kvPage s part c (g.plist + 8 * i)).bind fun e s => .ok (g.plist + 8 * i, some e) s

/-! ## The walk and the KV translation cache (R113, R114) -/

/-- What a walk finds: the space, the page entry and its address, the row's address. -/
structure KvHit where
  d : KvSpace
  entry : Nat
  entryPa : Nat
  row : Nat
  deriving DecidableEq, Repr, Inhabited

/-- The last tests of a walk: absent, offloaded (R113). -/
def kvLeaf (s : State) (c : W64) (d : KvSpace) (pe e : Nat) : KvR KvHit :=
  .check (kvV e) (kvFault 0 c pe) <|
  .check (kvLoc e == 0) (kvFault 1 c pe) <|
  .ok { d := d, entry := e, entryPa := pe, row := kvFrame e + kvPosOf c % d.tpp * d.rowbytes } s

/-- A cache entry is that of a coordinate's page. -/
def KvEntry.hits (e : KvEntry) (part : Nat) (c : W64) (d : KvSpace) : Bool :=
  e.part == part && e.space == kvSpaceOf c && e.seq == kvSeqOf c && e.layer == kvLayerOf c && e.head == kvHeadOf c &&
    e.page == kvPosOf c / d.tpp

/-- KvWalk (R113), through the die's KV translation cache (R114). `len` replaces the sequence's length (R287). The space
descriptor is read on every walk; the cache's replacement is log entry 9. A BEYOND by a length that the cache gives names the
page entry as the table entry: R122 names none then (log entry 57). -/
def State.kvWalk (s : State) (q : Req) (c : W64) (len : Option Nat) : KvR KvHit :=
  (kvSpace s q.part c).bind fun d s =>
    match (s.die q.die).kv.find? fun e => e.hits q.part c d with
    | some e => .check (decide (kvPosOf c < len.getD e.length)) (kvFault 2 c e.entryPa) (kvLeaf s c d e.entryPa e.entry.toNat)
    | none =>
      (kvRec s q.part c true).bind fun dr s =>
        .check (decide (kvPosOf c < len.getD dr.2.length)) (kvFault 2 c dr.2.addr) <|
        (kvEntry s q.part c d dr.2).bind fun pe s =>
          match pe.2 with
          | none => .stop (kvFault 0 c pe.1)
          | some e =>
            (kvLeaf s c d pe.1 e).bind fun h s =>
              let new : KvEntry := {
                part := q.part, space := kvSpaceOf c, seq := kvSeqOf c, layer := kvLayerOf c, head := kvHeadOf c
                page := kvPosOf c / d.tpp, entry := BitVec.ofNat 64 e, entryPa := pe.1, length := dr.2.length }
              .ok h (s.modDie q.die fun x => { x with kv := (if x.kv.length < 4096 then x.kv else x.kv.drop 1) ++ [new] })

/-- Every die of a partition drops the entries of a sequence (R114). -/
def State.kvDrop (s : State) (part space seq : Nat) : State :=
  { s with dies := s.dies.map fun e =>
      (e.1, { e.2 with kv := e.2.kv.filter fun k => !(k.part == part && k.space == space && k.seq == seq) }) }

/-! ## Frames (R112, R115 to R119) -/

/-- Reads the frame-table entry of a frame: its address and value. -/
def kvFrameEntry (s : State) (part : Nat) (c : W64) (frame pe : Nat) : KvR (Nat × Nat) :=
  match (s.part part).frameEntry frame with
  | none => .stop (kvFault 7 c pe)
  | some fa => (kvRead s part fa).bind fun e s => .check (bits e 0 30 == 0) (kvFault 7 c fa) (.ok (fa, e) s)

/-- A frame is zeroed, line by line at its home slices (R116, R150, R162, R167). -/
def State.zeroFrame (s : State) (part frame : Nat) : State := (s.pagePut part frame []).state s

/-- A core posts a refill message; at a full mailbox it tries again 2,048 cycles later (R116). -/
def State.postRefill (s : State) (die core : Nat) : State :=
  let part := s.partOfDie die
  let k := s.core die core
  let v := BitVec.ofNat 64 (2 ^ 56 + die % 16 * 2 ^ 52 + core % 256 * 2 ^ 44 + k.frames.length)
  let r := (s.part part).post 0 { v := v, die := die, core := core, launch := 0 }
  (s.modPart part fun _ => r.1).modCore die core fun k =>
    { k with refill := true, deferAt := none, retryAt := if r.2 then none else some (s.cycle + 2048) }

/-- Takes the oldest frame of a core's cache; a count that falls to 4 posts a refill (R116, R118). -/
def State.takeFrame (s : State) (die core : Nat) : State × Option Nat :=
  match (s.core die core).frames with
  | [] => (s, none)
  | f :: r =>
    let s := s.modCore die core fun k => { k with frames := r }
    (if r.length = 4 && !(s.core die core).refill then s.postRefill die core else s, some f)

/-- A page entry no longer names a frame: refs falls by 1. The answer says whether the frame entered the core's cache
(R115, R119, R129). -/
def State.derefFrame (s : State) (q : Req) (frame : Nat) : State × Nat :=
  match (s.part q.part).frameEntry frame with
  | none => (s, 0)
  | some fa =>
    let e := loadN s.mem fa 8
    let put (s : State) (refs pins st : Nat) : State := s.unitWrite q.part fa 8 (fEntry refs pins st)
    if 1 < fRefs e then (put s (fRefs e - 1) (fPins e) (fState e), 0)
    else if 0 < fPins e then (put s 0 (fPins e) 2, 0)
    else if (s.core q.die q.core).frames.length < 16 then
      ((put (s.zeroFrame q.part frame) 0 0 3).modCore q.die q.core fun k => { k with frames := k.frames ++ [frame] }, 1)
    else ((put s 0 0 0).reportFree frame, 0)

/-! ## KVLD and KVAPP (R125, R127) -/

/-- The lanes that lie within the row from chunk ch, with their addresses. -/
def rowLanes (c : Ctx) (d : KvSpace) (row ch : Nat) : List (Nat × Nat) :=
  (c.lanes.filter fun l => decide (256 * ch + 4 * l < d.rowbytes)).map fun l => (l, row + 256 * ch + 4 * l)

/-- KVLD (R125). -/
def kvldEffect (c : Ctx) (s : State) (d a b : Nat) : Res :=
  let co := c.b.getS a
  let ctl := (c.b.getS b).toNat
  if 128 ≤ ctl then .trap (flt1 .ill ctl)
  else
    (kvSpace s c.q.part co).res s fun sp t =>
      if sp.rowbytes ≤ 256 * ctl then .trap (kvFault 5 co sp.addr)
      else
        (t.kvWalk c.q co none).res s fun h t =>
          (lanesDo (fun s e => s.homeLoad c.q.part e.2 4) (·.1) (rowLanes c h.d h.row ctl) t).finish s fun vs t =>
            .okEnd (t.modBank c.g fun k => k.setV d c.lanes fun l => BitVec.ofNat 32 (laneVal vs l))

/-- The write of a page's row: its frame, with the state in which the page entry names it; a new page takes a frame, a shared
page is copied first, and one whose copy ends with an abort completion stays as it is (R118, R127, R383). -/
def kvOwnPage (s : State) (q : Req) (pe e refs : Nat) : Acc :=
  match (s.core q.die q.core).frames.head? with
  | some f =>
    if kvV e && refs ≤ 1 then .ok (kvFrame e) s
    else
      (if kvV e then s.copyPage q.part (kvFrame e) f else .ok 0 s).bind fun _ s =>
        let s := (s.takeFrame q.die q.core).1
        let s := match (s.part q.part).frameEntry f with
          | some fa => s.unitWrite q.part fa 8 (fEntry 1 0 1)
          | none => s
        let s := if kvV e then (s.derefFrame q (kvFrame e)).1 else s
        .ok f (s.unitWrite q.part pe 8 (f + 1))
  | none => .ok (kvFrame e) s

/-- KVAPP (R127). -/
def kvappEffect (c : Ctx) (s : State) (d a b : Nat) : Res :=
  let co := c.b.getS a
  let ctl := (c.b.getS b).toNat
  let ch := ctl % 128
  if 512 ≤ ctl ∨ ctl.testBit 7 then .trap (flt1 .ill ctl)
  else
    (kvRec s c.q.part co true).res s fun dr t =>
      (kvEntry t c.q.part co dr.1 dr.2).res s fun pe t =>
        match pe.2 with
        | none => .trap (kvFault 0 co pe.1)
        | some e =>
          if dr.1.rowbytes ≤ 256 * ch then .trap (kvFault 5 co dr.1.addr)
          else if kvV e && kvLoc e == 1 then .trap (kvFault 1 co pe.1)
          else
            (if kvV e then kvFrameEntry t c.q.part co (kvFrame e) pe.1 else .ok (0, 0) t).res s fun fe t =>
              if (!kvV e || 1 < fRefs fe.2) && (t.core c.q.die c.q.core).frames.isEmpty then .trap (kvFault 3 co pe.1)
              else
                match kvOwnPage t c.q pe.1 e (fRefs fe.2) with
                | .abort t => .aborted t
                | .wait w => .stay w s
                | .ok frame t =>
                  let row := frame + kvPosOf co % dr.1.tpp * dr.1.rowbytes
                  (lanesDo (fun s x => s.homeStore c.q.part x.2 4 (c.b.getV d x.1).toNat 0) (·.1) (rowLanes c dr.1 row ch)
                    t).finish s fun _ t =>
                    let t := if ctl.testBit 8 && dr.2.length < kvPosOf co + 1 then
                        t.unitWrite c.q.part dr.2.addr 8 (kvPosOf co + 1)
                      else t
                    .okEnd (t.kvDrop c.q.part (kvSpaceOf co) (kvSeqOf co))

/-- KVLD (R125). -/
def execKvld (z : Bool) (l : BitVec 4) (d a b : BitVec 7) (s : State) :=
  issue (descKvld z l d a b) s fun c s => kvldEffect c s d.toNat a.toNat b.toNat
/-- KVAPP (R127). -/
def execKvapp (z : Bool) (d a b : BitVec 7) (s : State) :=
  issue (descKvapp z d a b) s fun c s => kvappEffect c s d.toNat a.toNat b.toNat

/-! ## KVFORK and KVTRIM (R128, R129) -/

/-- Runs a walk for each element in turn and collects what it finds. -/
def kvAll {α β : Type} (f : State → α → KvR β) : List α → State → KvR (List β)
  | [], s => .ok [] s
  | x :: r, s => (f s x).bind fun y s => (kvAll f r s).bind fun ys s => .ok (y :: ys) s

/-- The directory entries of a sequence, layer and head ascending. -/
def kvDirs (s : State) (part : Nat) (c : W64) (d : KvSpace) (r : KvSeq) : KvR (List KvDir) :=
  kvAll (fun s k => kvDir s part c r k) (List.range ((d.layersm1 + 1) * (d.headsm1 + 1))) s

/-- The page entries of a directory entry in [lo, hi), with their addresses and page numbers. -/
def kvPages (s : State) (part : Nat) (c : W64) (g : KvDir) (lo hi : Nat) : KvR (List (Nat × Nat × Nat)) :=
  if !g.v then .ok [] s
  else
    kvAll (fun s i => (kvPage s part c (g.plist + 8 * i)).bind fun e s => .ok (i, g.plist + 8 * i, e) s)
      (upFrom lo (min g.cap hi - lo)) s

/-- The coordinate of another sequence of the space. -/
def kvWithSeq (c : W64) (q : Nat) : W64 := BitVec.ofNat 64 (kvSpaceOf c * 2 ^ 60 + q % 2 ^ 20 * 2 ^ 40 + kvPosOf c)

/-- Shares a parent's page with the child at an entry address: refs rises by 1 (R128). -/
def State.sharePage (s : State) (part : Nat) (at_ e : Nat) : State :=
  let s := s.unitWrite part at_ 8 e
  match (s.part part).frameEntry (kvFrame e) with
  | none => s
  | some fa =>
    let x := loadN s.mem fa 8
    s.unitWrite part fa 8 (fEntry (fRefs x + 1) (fPins x) (fState x))

/-- KVFORK (R128). Its MISSING and OFFLOADED records give the coordinate that the register holds, layer and head 0 and position
L: R122 names no coordinate for a check over all layers and heads (log entry 57). -/
def kvforkEffect (c : Ctx) (s : State) (d a b : Nat) : Res :=
  let part := c.q.part
  let co := c.b.getS a
  let sq := (c.b.getS b).toNat
  let L := kvPosOf co
  let cc := kvWithSeq co sq
  if 2 ^ 20 ≤ sq then .trap (flt1 .ill sq)
  else if kvLayerOf co ≠ 0 ∨ kvHeadOf co ≠ 0 then .trap (kvFault 5 co 0)
  else
    (kvRec s part co true).res s fun p t =>
    (kvRec t part cc true).res s fun k t =>
      if p.2.length < L then .trap (kvFault 2 co p.2.addr)
      else
        let n := ceilDiv L p.1.tpp
        (kvDirs t part cc k.1 k.2).res s fun kd t =>
        (kvAll (fun s g => kvPages s part cc g 0 g.cap) kd t).res s fun kp t =>
          if k.2.length ≠ 0 ∨ kp.any fun l => l.any fun e => kvV e.2.2 then .trap (kvFault 6 cc k.2.addr)
          else
            match kd.find? fun g => decide (0 < n) && (!g.v || decide (g.cap < n)) with
            | some g => .trap (kvFault 0 cc g.addr)
            | none =>
              (kvDirs t part co p.1 p.2).res s fun pd t =>
              (kvAll (fun s g => kvPages s part co g 0 n) pd t).res s fun pp t =>
                let live := pp.flatMap fun l => l.filter fun e => kvV e.2.2
                match live.find? fun e => kvLoc e.2.2 == 1 with
                | some e => .trap (kvFault 1 co e.2.1)
                | none =>
                  (kvAll (fun s e => kvFrameEntry s part co (kvFrame e.2.2) e.2.1) live t).res s fun fs t =>
                    match fs.find? fun e => decide (65535 ≤ fRefs e.2) with
                    | some e => .trap (kvFault 6 co e.1)
                    | none =>
                      let t := (kd.zip pp).foldl
                        (fun t x => (x.2.filter fun e => kvV e.2.2).foldl
                          (fun t e => t.sharePage part (x.1.plist + 8 * e.1) e.2.2) t)
                        t
                      let t := t.unitWrite part k.2.addr 8 L
                      let t := t.unitWrite part (k.2.addr + 16) 8 (2 ^ 20 + kvSeqOf co)
                      outS c d live.length (t.kvDrop part (kvSpaceOf co) sq)

/-- Clears a page entry; the answer counts the frames that entered the core's cache (R129). -/
def State.trimPage (s : State) (q : Req) (pe e : Nat) : State × Nat :=
  let s := s.unitWrite q.part pe 8 0
  if kvLoc e = 1 then ({ s with outbox := s.outbox ++ [.offloaded (BitVec.ofNat 64 e)] }, 0)
  else s.derefFrame q (kvFrame e)

/-- KVTRIM (R129). -/
def kvtrimEffect (c : Ctx) (s : State) (d a : Nat) : Res :=
  let part := c.q.part
  let co := c.b.getS a
  let L := kvPosOf co
  if kvLayerOf co ≠ 0 ∨ kvHeadOf co ≠ 0 then .trap (kvFault 5 co 0)
  else
    (kvRec s part co true).res s fun r t =>
      if r.2.length ≤ L then outS c d 0 t
      else
        (kvDirs t part co r.1 r.2).res s fun gs t =>
        (kvAll (fun s g => kvPages s part co g (ceilDiv L r.1.tpp) g.cap) gs t).res s fun ps t =>
          let live := ps.flatMap fun l => l.filter fun e => kvV e.2.2
          (kvAll (fun s e => kvFrameEntry s part co (kvFrame e.2.2) e.2.1) (live.filter fun e => kvLoc e.2.2 == 0) t).res s
            fun _ t =>
              let t := t.unitWrite part r.2.addr 8 L
              let o := live.foldl
                (fun (o : State × Nat) e => let x := o.1.trimPage c.q e.2.1 e.2.2; (x.1, o.2 + x.2)) (t, 0)
              outS c d o.2 (o.1.kvDrop part (kvSpaceOf co) (kvSeqOf co))

/-- KVFORK (R128). -/
def execKvfork (z : Bool) (d a b : BitVec 7) (s : State) :=
  issue (descKvfork z d a b) s fun c s => kvforkEffect c s d.toNat a.toNat b.toNat
/-- KVTRIM (R129). -/
def execKvtrim (z : Bool) (d a : BitVec 7) (s : State) :=
  issue (descKvtrim z d a) s fun c s => kvtrimEffect c s d.toNat a.toNat

/-! ## KVQ, KVPIN, KVUNPIN (R130, R131) -/

/-- The value of KVQ's selector 3. -/
def kvRefs (s : State) (part : Nat) (c : W64) : KvR Nat :=
  (kvRec s part c true).bind fun dr s =>
    (kvEntry s part c dr.1 dr.2).bind fun pe s =>
      match pe.2 with
      | none => .ok 0 s
      | some e =>
        if !kvV e then .ok 0 s
        else if kvLoc e = 1 then .ok (2 ^ 63) s
        else (kvFrameEntry s part c (kvFrame e) pe.1).bind fun f s => .ok (fRefs f.2 * 65536 + fPins f.2) s

/-- KVQ (R130). -/
def kvqEffect (c : Ctx) (s : State) (d a b : Nat) : Res :=
  let part := c.q.part
  let co := c.b.getS a
  let v := (c.b.getS b).toNat
  if v = 0 then (kvRec s part co false).res s fun r t => outS c d r.2.length t
  else if v = 1 then (kvSpace s part co).res s fun r t => outS c d r.tpp t
  else if v = 2 then outS c d (s.core c.q.die c.q.core).frames.length s
  else if v = 3 then (kvRefs s part co).res s fun r t => outS c d r t
  else if v = 4 then (kvRec s part co false).res s fun r t => outS c d (b01 r.2.fk * 2 ^ 20 + r.2.parent) t
  else .trap (flt1 .ill v)

/-- KVPIN (R131). -/
def kvpinEffect (c : Ctx) (s : State) (a : Nat) : Res :=
  let part := c.q.part
  let co := c.b.getS a
  (s.kvWalk c.q co none).res s fun h t =>
    let f := kvFrame h.entry
    (kvFrameEntry t part co f h.entryPa).res s fun e t =>
      if 8 ≤ (t.block c.bid).pins.length ∨ 65535 ≤ fPins e.2 then .trap (kvFault 6 co h.entryPa)
      else
        let pin : Pin := {
          space := kvSpaceOf co, seq := kvSeqOf co, layer := kvLayerOf co, head := kvHeadOf co, page := kvPosOf co / h.d.tpp
          frame := f, tpp := h.d.tpp }
        .okEnd ((t.unitWrite part e.1 8 (fEntry (fRefs e.2) (fPins e.2 + 1) (fState e.2))).modBlock c.bid fun k =>
          { k with pins := k.pins ++ [pin] })

/-- A pin-table entry matches a coordinate, by its own tpp (R131). -/
def Pin.matchesCoord (p : Pin) (c : W64) : Bool :=
  p.space == kvSpaceOf c && p.seq == kvSeqOf c && p.layer == kvLayerOf c && p.head == kvHeadOf c &&
    p.page == kvPosOf c / p.tpp

/-- KVUNPIN (R131). -/
def kvunpinEffect (c : Ctx) (s : State) (a : Nat) : Res :=
  let co := c.b.getS a
  match (s.block c.bid).pins.find? fun p => p.matchesCoord co with
  | none => .trap (kvFault 6 co 0)
  | some p => .okEnd ((s.modBlock c.bid fun k => { k with pins := k.pins.erase p }).unpinFrame c.q.part p.frame)

/-- KVQ (R130). -/
def execKvq (z : Bool) (d a b : BitVec 7) (s : State) :=
  issue (descKvq z d a b) s fun c s => kvqEffect c s d.toNat a.toNat b.toNat
/-- KVPIN (R131). -/
def execKvpin (z : Bool) (a : BitVec 7) (s : State) := issue (descKvpin z a) s fun c s => kvpinEffect c s a.toNat
/-- KVUNPIN (R131). -/
def execKvunpin (z : Bool) (a : BitVec 7) (s : State) := issue (descKvunpin z a) s fun c s => kvunpinEffect c s a.toNat

end Sys2Proof.Machine
end

