-- ==== Sys2Proof/Machine/Tile.lean ====
section
/-! DEFINITION. Slices, the issue of matrix instructions, tile settings (R195 to R199, R257 to R261, R267, R273, R275, R276,
R279 to R281, R284). -/

namespace Sys2Proof.Machine

/-! ## Which tiles an instruction names (R198, R267) -/

/-- Bits of a loop's descriptor (R260). -/
def MOp.bitOf (o : MOp) (i : Nat) : Bool :=
  match o with
  | .mloop d _ _ => bit d.toNat i
  | _ => false

/-- A loop in split mode. -/
def MOp.split (o : MOp) : Bool := o.bitOf 13

/-- An instruction that may set the split mark of a tile: a split loop on it, a copy to it, or a drain to it. -/
def MEntry.mayMark (m : MEntry) (t : Nat) : Bool :=
  match m.op with
  | .mloop _ _ _ => m.op.split && (m.d == t || m.d + 1 == t)
  | .tcopy => m.d == t
  | .tdr 3 => m.d == t || m.d + 1 == t
  | _ => false

/-- The tiles that an instruction names, as operand or destination; both tiles of a pair where it may act on one (R267). -/
def State.tilesOf (s : State) (m : MEntry) : List Nat :=
  match m.op with
  | .mloop _ _ _ => if m.op.split then [m.d, m.d + 1] else [m.d]
  | .had _ => [m.d, m.a]
  | .qnt _ => [m.d, m.a]
  | .tcopy => [m.d, m.a]
  | .tzero => [m.d]
  | .tdr k =>
    let b := bidOf m.g
    let pair := ((s.block b).getTs m.a).split || s.matq.any fun e => bidOf e.g == b && decide (e.seq < m.seq) && e.mayMark m.a
    if !pair || m.a % 2 = 1 then [m.d, m.a] else if k = 3 then [m.d, m.d + 1, m.a, m.a + 1] else [m.d, m.a, m.a + 1]

/-- A matrix instruction of the block that names the tile has not completed (R198). -/
def State.tileBusy (s : State) (b : BId) (t : Nat) : Bool :=
  s.matq.any fun m => bidOf m.g == b && (s.tilesOf m).contains t

/-- The entries of the matrix queue of a quadrant, in order. -/
def State.queueOf (s : State) (at_ : Nat × Nat × Nat) : List MEntry :=
  s.matq.filter fun m => (s.block (bidOf m.g)).at?.isSome && s.whereIs m.g == at_

/-! ## TWR and TRD (R196 to R199) -/

/-- TWR (R197). -/
def twrEffect (c : Ctx) (s : State) (t : Nat) (col : Bool) (k v imm : Nat) : Res :=
  let i := ((c.b.getS k).toNat + imm) % 64
  if s.tileBusy c.bid t then .stay (.tile t) s
  else
    .ok (s.modBlock c.bid fun b => c.lanes.foldl
      (fun b l => if col then b.setT t l i (c.b.getV v l) else b.setT t i l (c.b.getV v l)) b)

/-- TRD (R197). -/
def trdEffect (c : Ctx) (s : State) (t : Nat) (col : Bool) (k v imm : Nat) : Res :=
  let i := ((c.b.getS k).toNat + imm) % 64
  let b := s.block c.bid
  if s.tileBusy c.bid t then .stay (.tile t) s
  else .ok (s.modBank c.g fun x => x.setV v c.lanes fun l => if col then b.getT t l i else b.getT t i l)

/-- TWR (R197). -/
def execTwr (z : Bool) (t : BitVec 5) (r : BitVec 1) (k v : BitVec 7) (i : BitVec 5) (s : State) :=
  issue (descTwr z t r k v i) s fun c s => twrEffect c s t.toNat (r == 1) k.toNat v.toNat i.toNat
/-- TRD (R197). -/
def execTrd (z : Bool) (t : BitVec 5) (r : BitVec 1) (k v : BitVec 7) (i : BitVec 5) (s : State) :=
  issue (descTrd z t r k v i) s fun c s => trdEffect c s t.toNat (r == 1) k.toNat v.toNat i.toNat

/-! ## The queue (R267, R273) -/

/-- A matrix instruction enters its quadrant's queue and joins the open batch; at a full queue it waits (R267, R273). -/
def enqueue (c : Ctx) (s : State) (word : Nat) (op : MOp) (d a : Nat) : Res :=
  if 4 ≤ (s.queueOf (s.whereIs c.g)).length then .stay .queueRoom s
  else
    .ok { s with
      seq := s.seq + 1
      matq := s.matq ++
        [{ seq := s.seq, g := c.g, pc := c.pc, batch := c.grp.batch + 1, word := word, op := op, d := d, a := a }] }

/-! ## MLOOP (R258 to R261) -/

/-- Format classes of R261: 0 FP4, 1 FP8, 2 sixteen-bit, 3 integer, 4 alphabet. -/
def fmtClass (f : Nat) : Nat := if f < 2 then 0 else if f < 6 then 1 else if f < 8 then 2 else if f < 10 then 3 else 4

/-- The allowed pairings (R261). -/
def pairingOk (fa fb : Nat) : Bool :=
  match fmtClass fa, fmtClass fb with
  | 0, 0 | 0, 1 | 0, 4 | 1, 0 | 1, 1 | 1, 4 => true
  | 2, 2 => fa == fb
  | 3, 3 | 3, 4 => true
  | _, _ => false

/-- An alphabet register is valid for matrix use (R261). -/
def alMatrix (v : W64) : Bool :=
  alValid v && decide (alRadix v ≤ 16) && decide (-8 ≤ alOffset v) && decide (alOffset v + alRadix v - 1 ≤ 7)

/-- Check 2 of R258: the descriptor. -/
def descOk (desc al : W64) (d : Nat) : Bool :=
  let n := desc.toNat
  let fa := bits n 0 4
  let fb := bits n 4 4
  bits n 18 46 == 0 && decide (fa ≤ 9) && decide (fb ≤ 10) && pairingOk fa fb &&
    (!bit n 13 || (d % 2 == 0 && fmtClass fa != 3)) && (!bit n 12 || fmtClass fa == 3) && (fb != 10 || alMatrix al)

/-- The operand address of a strip: canonical and a multiple of 64 (R259). -/
def stripOk (v : W64) : Bool := canonical v.toNat && v.toNat % 64 == 0

/-- The reserved bits of an increment word (R284). -/
def incOk (v : W64) : Bool := bits v.toNat 50 14 == 0 && bits v.toNat 24 8 == 0

/-- Check 3 of R258: the first parameter that breaks R259 or R284. -/
def paramBad (desc : W64) (p : List W64) : Option W64 :=
  let kva := bit desc.toNat 14
  let kvb := bit desc.toNat 15
  let zp := bit desc.toNat 12
  let v (i : Nat) : W64 := p.getD i 0
  let checks : List (Bool × W64) := [
    (kva || stripOk (v 0), v 0), (kvb || stripOk (v 1), v 1),
    (if kva then incOk (v 2) else (v 2).toNat % 64 == 0, v 2), (if kvb then incOk (v 3) else (v 3).toNat % 64 == 0, v 3),
    (decide ((v 4).toNat < 2 ^ 24), v 4), (bits (v 5).toNat 46 18 == 0 && bits (v 5).toNat 38 2 == 0, v 5),
    (if zp then canonical (v 6).toNat && (v 6).toNat % 128 == 0 else v 6 == 0, v 6)]
  (checks.find? fun e => !e.1).map (·.2)

/-- MLOOP (R258). -/
def mloopEffect (c : Ctx) (s : State) (word d a b : Nat) : Res :=
  let desc := c.b.getS b
  let p := (List.range 8).map fun i => c.b.getS (a + i)
  let al := (s.block c.bid).getAl (bits desc.toNat 8 3)
  if !descOk desc al d then .trap (flt1 .ill desc.toNat)
  else
    match paramBad desc p with
    | some v => .trap (flt1 .ill v.toNat)
    | none =>
      if bit desc.toNat 13 && decide (c.l.tiles ≤ d + 1) then .trap (flt1 .limit (d + 1))
      else if p.getD 4 0 = 0 then .ok s
      else enqueue c s word (.mloop desc p al) d d

/-- MLOOP (R258). -/
def execMloop (z : Bool) (d a b : BitVec 7) (s : State) :=
  issue (descMloop z d a b) s fun c s => mloopEffect c s (descMloop z d a b).word d.toNat a.toNat b.toNat

/-! ## HAD, QNT, TDR, TZERO, TCOPY (R275, R276, R280, R281) -/

/-- The control of HAD is valid (R275). -/
def hadOk (v : W64) : Bool := decide (v.toNat < 8) && bits v.toNat 0 2 != 3

/-- A BF16 band scale is finite, positive and normal (R276). -/
def bandOk (b : Nat) : Bool := decide (0x80 ≤ b) && decide (b < 0x7F80)

/-- The control of QNT is valid (R276). -/
def qntOk (v : W64) : Bool :=
  let n := v.toNat
  let sc := bits n 8 8
  bits n 32 32 == 0 && bits n 2 6 == 0 && bandOk (bits n 16 16) && (!bit n 0 || sc == 0) && !(bit n 1 && sc == 0xFF)

/-- HAD (R275). -/
def execHad (z : Bool) (d a b : BitVec 7) (s : State) :=
  issue (descHad z d a b) s fun c s =>
    let v := c.b.getS b.toNat
    if hadOk v then enqueue c s (descHad z d a b).word (.had v) d.toNat a.toNat else .trap (flt1 .ill v.toNat)
/-- QNT (R276). -/
def execQnt (z : Bool) (d a b : BitVec 7) (s : State) :=
  issue (descQnt z d a b) s fun c s =>
    let v := c.b.getS b.toNat
    if qntOk v then enqueue c s (descQnt z d a b).word (.qnt v) d.toNat a.toNat else .trap (flt1 .ill v.toNat)
/-- TDR_DIFF (R281). -/
def execTdrDiff (z : Bool) (d a : BitVec 7) (s : State) :=
  issue (descTdrDiff z d a) s fun c s => enqueue c s (descTdrDiff z d a).word (.tdr 0) d.toNat a.toNat
/-- TDR_CANC (R281). -/
def execTdrCanc (z : Bool) (d a : BitVec 7) (s : State) :=
  issue (descTdrCanc z d a) s fun c s => enqueue c s (descTdrCanc z d a).word (.tdr 1) d.toNat a.toNat
/-- TDR_AGREE (R281). -/
def execTdrAgree (z : Bool) (d a : BitVec 7) (s : State) :=
  issue (descTdrAgree z d a) s fun c s => enqueue c s (descTdrAgree z d a).word (.tdr 2) d.toNat a.toNat
/-- TDR_RAW (R281). -/
def execTdrRaw (z : Bool) (d a : BitVec 7) (s : State) :=
  issue (descTdrRaw z d a) s fun c s => enqueue c s (descTdrRaw z d a).word (.tdr 3) d.toNat a.toNat
/-- TZERO (R280). -/
def execTzero (z : Bool) (d : BitVec 7) (s : State) :=
  issue (descTzero z d) s fun c s => enqueue c s (descTzero z d).word .tzero d.toNat d.toNat
/-- TCOPY (R280). -/
def execTcopy (z : Bool) (d a : BitVec 7) (s : State) :=
  issue (descTcopy z d a) s fun c s => enqueue c s (descTcopy z d a).word .tcopy d.toNat a.toNat

/-! ## TSTAT and TSETS (R279, R280) -/

/-- A selector of a tile's setting, or of a statistic of the quadrant (R279). -/
def tselOk (v : Nat) : Bool := decide (v ≤ 3) || (decide (8 ≤ v) && decide (v ≤ 12))

/-- The checks of a selector and its tile field, of which the grant comes first (R41, R279, R280), and what the instruction
waits for. -/
def tselCheck (c : Ctx) (s : State) (word t v : Nat) : Option Res :=
  if 8 ≤ v && v ≤ 12 then
    if t ≠ 0 then some (.trap (flt1 .ill word))
    else if s.matq.any fun m => bidOf m.g == c.bid && s.whereIs m.g == s.whereIs c.g &&
        (match m.op with | .qnt _ => true | _ => false) then some (.stay .qnt s)
    else none
  else if c.l.tiles ≤ t then some (.trap (flt1 .limit word))
  else if !tselOk v then some (.trap (flt1 .ill v))
  else if s.tileBusy c.bid t then some (.stay (.tile t) s)
  else none

/-- The selected value (R279). -/
def tsel (b : Block) (q t v : Nat) : W64 :=
  let x := b.getTs t
  let y := b.getQs q
  match v with
  | 0 => x.thr.setWidth 64
  | 1 => x.zcnt.setWidth 64
  | 2 => x.tdst
  | 3 => x.tdctl ||| (if x.split then 8 else 0)
  | 8 => y.clip
  | 9 => y.total
  | 10 => y.under
  | 11 => y.max.setWidth 64
  | _ => w01 y.flags

/-- The write rule of a selector (R279). -/
def tselRule (v : Nat) (x : W64) : Bool :=
  let n := x.toNat
  match v with
  | 0 => decide (n < 2 ^ 32) && !isNaN (x.setWidth 32)
  | 1 => decide (n < 2 ^ 32)
  | 2 => stripOk x
  | 3 => decide (n < 2 ^ 32) && bits n 8 24 % 64 == 0 && bits n 4 4 == 0 && bits n 0 2 != 3
  | 11 => decide (n < 2 ^ 32)
  | 12 => decide (n < 2)
  | _ => true

/-- Writes the selected value. -/
def tselPut (b : Block) (q t v : Nat) (x : W64) : Block :=
  match v with
  | 0 => b.modTs t fun e => { e with thr := x.setWidth 32 }
  | 1 => b.modTs t fun e => { e with zcnt := x.setWidth 32 }
  | 2 => b.modTs t fun e => { e with tdst := x }
  | 3 => b.modTs t fun e => { e with tdctl := x &&& ~~~8, split := bit x.toNat 3 }
  | 8 => b.modQs q fun e => { e with clip := x }
  | 9 => b.modQs q fun e => { e with total := x }
  | 10 => b.modQs q fun e => { e with under := x }
  | 11 => b.modQs q fun e => { e with max := x.setWidth 32 }
  | _ => b.modQs q fun e => { e with flags := bit x.toNat 0 }

/-- TSTAT (R280). -/
def tstatEffect (c : Ctx) (s : State) (word d t b : Nat) : Res :=
  let v := (c.b.getS b).toNat
  match tselCheck c s word t v with
  | some r => r
  | none => .ok (s.modBank c.g fun k => k.setS d (tsel (s.block c.bid) c.grp.quad t v))

/-- TSETS (R280). -/
def tsetsEffect (c : Ctx) (s : State) (word t a b : Nat) : Res :=
  let v := (c.b.getS b).toNat
  let x := c.b.getS a
  match tselCheck c s word t v with
  | some r => r
  | none =>
    if tselRule v x then .ok (s.modBlock c.bid fun k => tselPut k c.grp.quad t v x) else .trap (flt1 .ill x.toNat)

/-- TSTAT (R280). -/
def execTstat (z : Bool) (d a b : BitVec 7) (s : State) :=
  issue (descTstat z d a b) s fun c s => tstatEffect c s (descTstat z d a b).word d.toNat a.toNat b.toNat
/-- TSETS (R280). -/
def execTsets (z : Bool) (d a b : BitVec 7) (s : State) :=
  issue (descTsets z d a b) s fun c s => tsetsEffect c s (descTsets z d a b).word d.toNat a.toNat b.toNat

end Sys2Proof.Machine
end

