-- ==== Sys2Proof/Machine/Matrix.lean ====
section
/-! DEFINITION. The matrix engine: strips, K-steps, split accumulation, HAD, QNT, drains, and its events (R120, R124, R187,
R191, R192, R257 to R288). -/

namespace Sys2Proof.Machine

/-! ## The values of operands (R221 to R223, R261 to R264) -/

/-- A byte of a list, 0 beyond it. -/
def byteAt (l : List Byte) (i : Nat) : Nat := (l.getD i 0).toNat

/-- n bytes of a list as a number, little-endian. -/
def wordAt (l : List Byte) (i : Nat) : Nat → Nat
  | 0 => 0
  | n + 1 => byteAt l i + 256 * wordAt l (i + 1) n

/-- Elements per step of a format (R261). -/
def perStep (f : Nat) : Nat := if f = 6 ∨ f = 7 then 16 else 32

/-- The bytes of a strip (R261). -/
def stripBytes (f : Nat) (al : W64) : Nat :=
  if f = 0 then 1280 else if f = 1 then 1088 else if f = 4 ∨ f = 5 then 2112
  else if f = 10 then 64 * (ceilDiv 32 (alGroup al) * (alWidth al / 8)) else 2048

/-- A band scale that is NaN or infinite makes every product NaN (R262). -/
def bandVal (b : Nat) : Val :=
  match decodeFmt .bf16 0 b with
  | .fin n m e => .fin n m e
  | _ => .nan

/-- Element k of row r of a strip in a floating-point format; xv and band where they apply (R223, R261). -/
def elemF (f : Nat) (l : List Byte) (xv : Int) (band : Nat) (r k : Nat) : Val :=
  let nib := byteAt l (16 * r + k / 2) / 16 ^ (k % 2) % 16
  match f with
  | 0 => ((decodeFmt .e2m1 xv nib).mul (decodeFmt .e3m5 0 (byteAt l (1024 + 4 * r + k / 8)))).mul (bandVal band)
  | 1 => (decodeFmt .e2m1 xv nib).mul (decodeFmt .e8m0 0 (byteAt l (1024 + r)))
  | 2 => decodeFmt .e4m3 0 (byteAt l (32 * r + k))
  | 3 => decodeFmt .e5m2 0 (byteAt l (32 * r + k))
  | 4 => (decodeFmt .e4m3 0 (byteAt l (32 * r + k))).mul (decodeFmt .e8m0 0 (byteAt l (2048 + r)))
  | 5 => (decodeFmt .e5m2 0 (byteAt l (32 * r + k))).mul (decodeFmt .e8m0 0 (byteAt l (2048 + r)))
  | 6 => decodeFmt .bf16 0 (wordAt l (32 * r + 2 * k) 2)
  | _ => decodeFmt .fp16 0 (wordAt l (32 * r + 2 * k) 2)

/-- Element k of row r of an integer strip. -/
def elemI (f : Nat) (l : List Byte) (r k : Nat) : Int :=
  if f = 8 then sext 8 (byteAt l (32 * r + k)) else byteAt l (32 * r + k)

/-- The containers of a row of an alphabet strip. -/
def rowCodes (al : W64) (l : List Byte) (r : Nat) : List Nat :=
  let q := ceilDiv 32 (alGroup al)
  let w := alWidth al / 8
  (List.range q).map fun i => wordAt l (r * q * w + i * w) w

/-- The 32 symbols of a row of an alphabet strip. -/
def rowSymbols (al : W64) (l : List Byte) (r : Nat) : List Int :=
  ((rowCodes al l r).flatMap fun c => (codeOf al c).getD []).take 32

/-- The first invalid container of a strip: its offset. -/
def badContainer (al : W64) (l : List Byte) : Option Nat :=
  let q := ceilDiv 32 (alGroup al)
  let w := alWidth al / 8
  (List.range (64 * q)).findSome? fun i => if badCode al (wordAt l (i * w) w) then some (i * w) else none

/-! ## Steps (R262 to R266) -/

/-- The exact sum of a float step (R262). -/
def sumExact (ps : List Val) : Val := ps.foldl Val.add (.fin false 0 0)

/-- One level of the tree of R254. -/
def treeLevel : List Val → List Val
  | a :: b :: r => f32 (toF32 (a.add b)) :: treeLevel r
  | l => l

/-- The step total of sixteen products (R263): an exact zero root is +0. -/
def sumTree (ps : List Val) : Val :=
  match treeLevel (treeLevel (treeLevel (treeLevel ps))) with
  | .fin n m e :: _ => .fin (n && m != 0) m e
  | v :: _ => v
  | [] => .fin false 0 0

/-- The step total. -/
def stepTotal (f : Nat) (ps : List Val) : Val := if fmtClass f = 2 then sumTree ps else sumExact ps

/-- The accumulator after a float step. -/
def accF (f : Nat) (acc : W32) (ps : List Val) : W32 := toF32 ((f32 acc).add (stepTotal f ps))

/-- A product is above zero. -/
def Val.pos : Val → Bool
  | .fin n m _ => !n && m != 0
  | .inf n => !n
  | .nan => false

/-- A product's part in the positive set, in which an absent one counts as +0 (R266). -/
def Val.posPart : Val → Val
  | .nan => .nan
  | v => if v.pos then v else .fin false 0 0

/-- A count raised and saturated. -/
def satCount (c : BitVec 16) (n : Nat) : BitVec 16 := BitVec.ofNat 16 (if c.toNat + n < 65535 then c.toNat + n else 65535)

/-- The accumulator after an integer step (R264). -/
def accI (sat : Bool) (acc : W32) (t : Int) : W32 :=
  let x := sext 32 acc.toNat + t
  if sat then BitVec.ofInt 32 (if x < -2 ^ 31 then -2 ^ 31 else if 2 ^ 31 - 1 < x then 2 ^ 31 - 1 else x)
  else BitVec.ofInt 32 x

/-- The parameters of a loop. -/
structure LoopP where
  desc : W64
  p : List W64
  al : W64
  deriving DecidableEq, Repr, Inhabited

/-- Bit i of the descriptor. -/
def LoopP.flag (l : LoopP) (i : Nat) : Bool := bit l.desc.toNat i
/-- The format of A. -/
def LoopP.fa (l : LoopP) : Nat := bits l.desc.toNat 0 4
/-- The format of B. -/
def LoopP.fb (l : LoopP) : Nat := bits l.desc.toNat 4 4
/-- Parameter i. -/
def LoopP.par (l : LoopP) (i : Nat) : Nat := (l.p.getD i 0).toNat

/-- The elements of A by row, as values. -/
def LoopP.rowsA (l : LoopP) (strip : List Byte) : List (List Val) :=
  (List.range 64).map fun r => (List.range (perStep l.fa)).map fun k =>
    elemF l.fa strip (sext 6 (bits (l.par 5) 32 6)) (bits (l.par 5) 0 16) r k

/-- The elements of B by row. -/
def LoopP.rowsB (l : LoopP) (strip : List Byte) : List (List Val) :=
  (List.range 64).map fun r =>
    if l.fb = 10 then (rowSymbols l.al strip r).map fun x => (ofInt x).mul (bandVal (bits (l.par 5) 16 16))
    else (List.range (perStep l.fb)).map fun k =>
      elemF l.fb strip (sext 6 (bits (l.par 5) 40 6)) (bits (l.par 5) 16 16) r k

/-- The elements of an integer A by row, less the zero points. -/
def LoopP.intsA (l : LoopP) (strip : List Byte) (zps : List Int) : List (List Int) :=
  (List.range 64).map fun r => (List.range 32).map fun k => elemI l.fa strip r k - zps.getD r 0

/-- The elements of an integer or alphabet B by row. -/
def LoopP.intsB (l : LoopP) (strip : List Byte) : List (List Int) :=
  (List.range 64).map fun r =>
    if l.fb = 10 then rowSymbols l.al strip r else (List.range 32).map fun k => elemI l.fb strip r k

/-- One K-step on the tiles of a block (R265, R266). -/
def kStep (l : LoopP) (d step : Nat) (sa sb : List Byte) (zps : List Int) (b : Block) : Block :=
  let first := l.flag 17 && step == 0
  let on (i : Nat) : Bool := (l.par 7).testBit i
  let acc (t i j : Nat) : W32 := if first then 0 else b.getT t i j
  if fmtClass l.fa = 3 then
    let ra := l.intsA sa zps
    let rb := l.intsB sb
    b.putT d fun i j =>
      if on i then
        accI (l.flag 11) (acc d i j) (((ra.getD i []).zip (rb.getD j [])).foldl (fun t e => t + e.1 * e.2) 0)
      else b.getT d i j
  else
    let ra := l.rowsA sa
    let rb := l.rowsB sb
    let prods (i j : Nat) : List Val := ((ra.getD i []).zip (rb.getD j [])).map fun e => e.1.mul e.2
    if !l.flag 13 then b.putT d fun i j => if on i then accF l.fa (acc d i j) (prods i j) else b.getT d i j
    else
      let cnt (t i j : Nat) : BitVec 16 := if first then 0 else b.getC t i j
      let pos (i j : Nat) : List Val := (prods i j).map Val.posPart
      let neg (i j : Nat) : List Val := (prods i j).map fun v => v.neg.posPart
      let np (i j : Nat) : Nat := ((prods i j).filter Val.pos).length
      let nn (i j : Nat) : Nat := ((prods i j).filter fun v => v.neg.pos).length
      let b1 := b.putT d fun i j => if on i then accF l.fa (acc d i j) (pos i j) else b.getT d i j
      let b2 := b1.putT (d + 1) fun i j => if on i then accF l.fa (acc (d + 1) i j) (neg i j) else b.getT (d + 1) i j
      let b3 := b2.putC d fun i j => if on i then satCount (cnt d i j) (np i j) else b.getC d i j
      b3.putC (d + 1) fun i j => if on i then satCount (cnt (d + 1) i j) (nn i j) else b.getC (d + 1) i j

/-! ## HAD (R275) -/

/-- One butterfly stage of a run: `h` is 2^s. -/
def butterfly (h : Nat) (x : List W32) : List W32 :=
  (List.range x.length).map fun j =>
    if j / h % 2 = 0 then fadd (x.getD j 0) (x.getD (j + h) 0) else fsub (x.getD (j - h) 0) (x.getD j 0)

/-- The transform of a run of n = 2^(4 + m) elements. -/
def hadRun (m : Nat) (x : List W32) : List W32 :=
  let y := (List.range (4 + m)).foldl (fun x s => butterfly (2 ^ s) x) x
  y.map fun v => toF32 ((f32 v).mul (.fin false 1 (if m = 2 then -3 else -2)))

/-- HAD of tile a into tile d. -/
def hadTile (ctl : W64) (d a : Nat) (b : Block) : Block :=
  let m := bits ctl.toNat 0 2
  let n := 2 ^ (4 + m)
  let col := bit ctl.toNat 2
  let lines := (List.range 64).map fun l =>
    (List.range (64 / n)).flatMap fun g =>
      hadRun m ((upFrom (g * n) n).map fun k => if col then b.getT a k l else b.getT a l k)
  ((b.putT d fun i j => if col then (lines.getD j []).getD i 0 else (lines.getD i []).getD j 0).zeroC d).modTs d fun t =>
    { t with split := false }

/-! ## QNT (R276 to R278) -/

/-- What a block of a row is quantised to: its scale code, its codes, and what it adds to the statistics. -/
structure QBlock where
  scale : Nat
  codes : List Nat
  clip : Nat := 0
  under : Nat := 0
  invalid : Bool := false
  deriving DecidableEq, Repr, Inhabited

/-- Clip mode: the codes under a scale code (R277). -/
def qClip (sf : Fmt) (sc : Nat) (band : Val) (xs : List W32) : QBlock :=
  if sc = 0 then { scale := sc, codes := xs.map fun _ => 0 }
  else
    let sb := (decodeFmt sf 0 sc).mul band
    let qs := xs.map fun x => (f32 x).div sb
    let past (q : Val) : Bool :=
      match q with
      | .nan => true
      | .inf _ => true
      | .fin _ m e => magGt m e 6 0
    { scale := sc, codes := qs.map fun q => roundTo .e2m1 .rne 0 q, clip := (qs.filter past).length }

/-- The largest |x| of a block by its bits; a NaN or an infinity is above every finite value. -/
def maxAbs (xs : List W32) : Nat := xs.foldl (fun m x => if m < x.toNat % 2 ^ 31 then x.toNat % 2 ^ 31 else m) 0

/-- Max-abs mode (R277). -/
def qMax (sf : Fmt) (band : Val) (xs : List W32) : QBlock :=
  let mx := maxAbs xs
  if mx = 0 then { scale := 0, codes := xs.map fun _ => 0 }
  else if 0x7F800000 ≤ mx then
    { scale := 0xFF, codes := xs.map (fun x => if x.toNat < 2 ^ 31 then 7 else 15), invalid := true }
  else
    match (f32 (BitVec.ofNat 32 mx)).div ((Val.fin false 6 0).mul band) with
    | .fin _ m e =>
      let lo : Int := if sf = .e3m5 then -7 else -127
      let top : Nat × Int := if sf = .e3m5 then (63, -1) else (1, 127)
      if magGt 1 lo m e then
        { scale := if sf = .e3m5 then 1 else 0, codes := xs.map (fun _ => 0), under := 1 }
      else if magGt m e top.1 top.2 then qClipScale sf (if sf = .e3m5 then 0xFF else 0xFE) band xs
      else qClipScale sf (roundTo sf .rup 0 (.fin false m e)) band xs
    | _ => { scale := 0, codes := xs.map fun _ => 0 }
where
  /-- The codes under a scale chosen by max-abs; code 0 of E8M0 is a scale there. -/
  qClipScale (sf : Fmt) (sc : Nat) (band : Val) (xs : List W32) : QBlock :=
    let sb := (decodeFmt sf 0 sc).mul band
    let qs := xs.map fun x => (f32 x).div sb
    let past (q : Val) : Bool :=
      match q with
      | .fin _ m e => magGt m e 6 0
      | _ => true
    { scale := sc, codes := qs.map fun q => roundTo .e2m1 .rne 0 q, clip := (qs.filter past).length }

/-- The blocks of a row. -/
def qRow (ctl : W64) (xs : List W32) : List QBlock :=
  let n := ctl.toNat
  let e8 := bit n 1
  let sf : Fmt := if e8 then .e8m0 else .e3m5
  let band := decodeFmt .bf16 0 (bits n 16 16)
  let k := if e8 then 32 else 8
  (List.range (64 / k)).map fun g =>
    let ys := (xs.drop (g * k)).take k
    if bit n 0 then qMax sf band ys else qClip sf (bits n 8 8) band ys

/-- Element j of a quantised row (R277). -/
def qElem (bs : List QBlock) (j : Nat) : W32 :=
  let codes := bs.flatMap (·.codes)
  let nibs (l : List Nat) (w : Nat) : Nat := l.foldr (fun x a => x + w * a) 0
  if j < 8 then BitVec.ofNat 32 (nibs ((codes.drop (8 * j)).take 8) 16)
  else if j < 10 then BitVec.ofNat 32 (nibs (((bs.map (·.scale)).drop (4 * (j - 8))).take 4) 256)
  else 0

/-- A 64-bit count raised and saturated (R278). -/
def sat64 (x : W64) (n : Nat) : W64 := BitVec.ofNat 64 (if x.toNat + n < 2 ^ 64 then x.toNat + n else 2 ^ 64 - 1)

/-- qmax raised to a larger |x|; NaNs are ignored (R277). -/
def raiseMax (m : W32) (xs : List W32) : W32 :=
  xs.foldl (fun m x => let y := x &&& 0x7FFFFFFF; if flt m y then y else m) m

/-- QNT of tile a into tile d, on quadrant q. -/
def qntTile (ctl : W64) (d a q : Nat) (b : Block) : Block :=
  let xs := (List.range 64).map fun i => (List.range 64).map fun j => b.getT a i j
  let rows := xs.map (qRow ctl)
  let all := rows.flatMap id
  let b := ((b.putT d fun i j => qElem (rows.getD i []) j).zeroC d).modTs d fun t => { t with split := false }
  b.modQs q fun y =>
    { clip := sat64 y.clip ((all.map (·.clip)).foldl (· + ·) 0), total := sat64 y.total 4096,
      under := sat64 y.under ((all.map (·.under)).foldl (· + ·) 0), max := raiseMax y.max (xs.flatMap id),
      flags := y.flags || all.any (·.invalid) }

/-! ## TDR (R281, R282) -/

/-- The agreement of an element: NaN, or the exact quotient of two magnitudes. -/
inductive Agree where
  | nan
  | quot (n : Nat) (d : Nat)
  deriving DecidableEq, Repr, Inhabited

/-- DIFF and CANC of a pair before rounding, and its agreement (R282). -/
def pairOf (p n : W32) : Val × Val × Agree :=
  let bad : Val × Val × Agree := (.nan, .nan, .nan)
  let zero : Val := .fin false 0 0
  match f32 p, f32 n with
  | .nan, _ => bad
  | _, .nan => bad
  | .inf x, .inf y => if x || y then bad else (.nan, .fin false 1 0, .quot 0 1)
  | .inf x, .fin y m _ => if x || (y && m != 0) then bad else (.inf false, zero, .quot 1 1)
  | .fin x m _, .inf y => if y || (x && m != 0) then bad else (.inf true, zero, .quot 1 1)
  | .fin x m e, .fin y k f =>
    if (x && m != 0) || (y && k != 0) then bad
    else
      let lo := if e ≤ f then e else f
      let P := m * 2 ^ (e - lo).toNat
      let N := k * 2 ^ (f - lo).toNat
      if P + N = 0 then (zero, zero, .quot 0 1)
      else
        let mx := if P < N then N else P
        let mn := if P < N then P else N
        ((Val.fin false P lo).add (.fin true N lo), (Val.fin false mn 0).div (.fin false mx 0), .quot (mx - mn) (P + N))

/-- g ≥ thr, exactly. -/
def agreeMeets (n d : Nat) (thr : W32) : Bool :=
  match f32 thr with
  | .nan => false
  | .inf neg => neg
  | .fin neg m e => neg || m == 0 || !magGt (m * d) e n 0

/-- The result of a mode on an element before rounding, and whether AGREE counts it (R282). -/
def tdrElem (mode : Nat) (thr p n : W32) : Val × Bool :=
  let r := pairOf p n
  match mode with
  | 0 => (r.1, false)
  | 1 => (r.2.1, false)
  | _ =>
    match r.2.2 with
    | .nan => (.nan, false)
    | .quot x d => if agreeMeets x d thr then (r.1, false) else (.fin false 0 0, true)

/-- A drain acts on a pair: the mark of an even tile (R281). -/
def Block.pairAt (b : Block) (a : Nat) : Bool := (b.getTs a).split && a % 2 == 0

/-- The row bytes of a drain to memory (R281, R282). -/
def rowBytes (rawPair : Bool) (fmt : Nat) : Nat := if rawPair then 768 else if fmt = 0 then 256 else 128

/-- The start checks of TDR (R281). -/
def tdrCheck (b : Block) (tiles mode d a word : Nat) : Option FaultRec :=
  let t := b.getTs d
  let rp := mode == 3 && b.pairAt a
  let fmt := bits t.tdctl.toNat 0 2
  let en := bit t.tdctl.toNat 2
  if mode ≠ 3 && !b.pairAt a then some (flt1 .ill word)
  else if b.pairAt a && decide (tiles ≤ a + 1) then some (flt1 .limit word)
  else if en then
    if bits t.tdctl.toNat 8 24 < rowBytes rp fmt || (rp && fmt != 0) then some (flt1 .ill word) else none
  else if rp && d % 2 == 1 then some (flt1 .ill word)
  else if rp && decide (tiles ≤ d + 1) then some (flt1 .limit word)
  else none

/-- The elements of row i of a drain to memory: offset, bytes, value (R282). -/
def drainRow (b : Block) (mode d a i : Nat) : List (Nat × Nat × Nat) :=
  let fmt := bits (b.getTs d).tdctl.toNat 0 2
  let js := List.range 64
  if mode = 3 && b.pairAt a then
    (js.map fun j => (4 * j, 4, (b.getT a i j).toNat)) ++ (js.map fun j => (256 + 4 * j, 4, (b.getT (a + 1) i j).toNat)) ++
      (js.map fun j => (512 + 2 * j, 2, (b.getC a i j).toNat)) ++ js.map fun j => (640 + 2 * j, 2, (b.getC (a + 1) i j).toNat)
  else
    let v (j : Nat) : Val :=
      if mode = 3 then f32 (b.getT a i j) else (tdrElem mode (b.getTs a).thr (b.getT a i j) (b.getT (a + 1) i j)).1
    if fmt = 0 then js.map fun j => (4 * j, 4, if mode = 3 then (b.getT a i j).toNat else (toF32 (v j)).toNat)
    else js.map fun j => (2 * j, 2, roundTo (if fmt = 1 then .bf16 else .fp16) .rne 0 (v j))

/-- The elements of rows from i on that AGREE counts (R282). -/
def zeroedBy (b : Block) (mode a i n : Nat) : Nat :=
  if mode ≠ 2 then 0
  else
    ((upFrom i n).map fun i => ((List.range 64).filter fun j =>
      (tdrElem 2 (b.getTs a).thr (b.getT a i j) (b.getT (a + 1) i j)).2).length).foldl (· + ·) 0

/-- zcnt of a tile raised and saturated (R279). -/
def addZcnt (b : Block) (a n : Nat) : Block :=
  b.modTs a fun t => { t with zcnt := BitVec.ofNat 32 (if t.zcnt.toNat + n < 2 ^ 32 then t.zcnt.toNat + n else 2 ^ 32 - 1) }

/-- A drain to tiles (R282). -/
def tdrTiles (mode d a : Nat) (b : Block) : Block :=
  let mark (b : Block) (t : Nat) (m : Bool) : Block := b.modTs t fun x => { x with split := m }
  if mode = 3 then
    if b.pairAt a then
      let b1 := (b.putT d fun i j => b.getT a i j).putC d fun i j => b.getC a i j
      let b2 := (b1.putT (d + 1) fun i j => b.getT (a + 1) i j).putC (d + 1) fun i j => b.getC (a + 1) i j
      mark (mark b2 d true) (d + 1) true
    else mark ((b.putT d fun i j => b.getT a i j).putC d fun i j => b.getC a i j) d false
  else
    let thr := (b.getTs a).thr
    let b0 := addZcnt b a (zeroedBy b mode a 0 64)
    let b1 := b0.putT d fun i j => toF32 (tdrElem mode thr (b.getT a i j) (b.getT (a + 1) i j)).1
    let b2 := b1.putC d fun i j => satCount (b.getC a i j) (b.getC (a + 1) i j).toNat
    mark b2 d false

/-- TCOPY of tile a into tile d (R280). -/
def tcopyTile (d a : Nat) (b : Block) : Block :=
  ((b.putT d fun i j => b.getT a i j).putC d fun i j => b.getC a i j).modTs d fun t =>
    { t with split := (b.getTs a).split }

/-- TZERO of a tile (R280). -/
def tzeroTile (d : Nat) (b : Block) : Block := ((b.zeroT d).zeroC d).modTs d fun t => { t with split := false }

/-! ## How a matrix instruction ends or is held (R124, R269, R270, R288) -/

/-- Changes an entry of the queues. -/
def State.modM (s : State) (seq : Nat) (f : MEntry → MEntry) : State :=
  { s with matq := s.matq.map fun m => if m.seq = seq then f m else m }

/-- A matrix instruction as its queue holds it. -/
def State.entry (s : State) (m : MEntry) : MEntry := (s.matq.find? fun x => x.seq == m.seq).getD m

/-- An instruction has completed: it leaves its queue and its pins go. -/
def State.matDone (s : State) (part : Nat) (m : MEntry) : State :=
  { s.releasePins part m with matq := s.matq.filter fun x => x.seq != m.seq }

/-- An instruction completes in error; MWAIT raises it (R270, R274). -/
def State.matError (s : State) (part : Nat) (m : MEntry) (cls : FClass) (sub : Nat) (detail : W64)
    (table : Option (Nat × Nat) := none) : State :=
  (s.matDone part m).modGrp m.g fun r =>
    { r with merrs := r.merrs ++
      [{ seq := m.seq, pc := m.pc, batch := m.batch, cls := cls, sub := sub, tile := m.d, progress := m.progress,
         detail := detail, table := table }] }

/-- A fault of the sequencer: XLATE and the replayable KV causes post a record and hold the instruction, every other ends
it (R124, R269, R270, R121, R122). -/
def State.matFault (s : State) (q : Req) (m : MEntry) (f : FaultRec) : State :=
  let hold (s : State) (rid : Nat) (kv : Bool) : State :=
    s.modM m.seq fun m =>
      { m with held := some rid, kv := kv, why := f.cls, sub := f.sub, detail := f.detail, started := false, pins := [], lines := [] }
  let s := s.releasePins q.part m
  match f.cls with
  | .xlate =>
    let r := (s.dropAts q f).enginePage q.part 2 (launchIdOf m.g) (bidOf m.g).flat q.ctxNo q.pasid m.pc f (.engine m.seq)
    hold r.1 r.2 false
  | .kv =>
    if f.sub ≤ 3 then
      let (s, rid) := s.newRid q.part
      let kv := f.kv.getD (0, 0)
      let r : Rec := {
        rid := rid, cls := .kv, kind := .replayable, src := 2, launch := launchIdOf m.g, gflat := (bidOf m.g).flat, epc := m.pc
        cause := causeWord .kv f.sub none
        payload := [BitVec.ofNat 64 (f.sub * 2 ^ 61 + 2 ^ 60 + m.progress % 2 ^ 24 * 2 ^ 32), kv.1, BitVec.ofNat 64 (kv.2 % 2 ^ 52)]
        owner := .engine m.seq }
      hold (if f.sub = 2 then s.postRec q.part r else s.modPart q.part fun p => { p with chandler := p.chandler ++ [r] }) rid true
    else s.matError q.part { m with pins := [], lines := [] } .kv f.sub 0
  | c => s.matError q.part { m with pins := [], lines := [] } c f.sub f.detail f.table

/-! ## Fetching strips (R191, R192, R284 to R289) -/

/-- The bytes of a number, little-endian. -/
def bytesOf (v : Nat) : Nat → List Byte
  | 0 => []
  | n + 1 => BitVec.ofNat 8 v :: bytesOf (v / 256) n

/-- The lines of a set that are pinned (R191). -/
def State.pinnedIn (s : State) (part pa : Nat) : Nat :=
  ((s.die (s.homeDie part pa)).l2.filter fun l =>
    l.pins != 0 && l2Set (256 * l.line) == l2Set pa && sliceOf (256 * l.line) == sliceOf pa).length

/-- A matrix instruction pins the line of an address at its home slice; a set's thirteenth pinned line waits (R191). -/
def State.pinLine (s : State) (part seq pa : Nat) : Option State :=
  let d := s.homeDie part pa
  match (s.die d).l2Find (pa / 256) with
  | none => some s
  | some l =>
    if l.pins = 0 && decide (12 ≤ s.pinnedIn part pa) then none
    else
      some ((s.modDie d fun x => x.l2Mod (pa / 256) fun l => { l with pins := l.pins + 1 }).modM seq fun m =>
        { m with lines := m.lines ++ [pa / 256] })

/-! Several requests served by one read (R14, R192) -/

/-- A matrix instruction performs a K-step. -/
def State.inStep (s : State) (seq step : Nat) : Bool := s.matq.any fun m => m.seq == seq && m.progress == step && m.started

/-- A read can serve more requests: of an A strip while an instruction that it served fetches or performs the step, of a B strip for
256 cycles (R14, R192; log entry 58). `now` is the instruction that fetches. -/
def Cast.alive (x : Cast) (s : State) (now : Nat) : Bool :=
  if x.core.isSome then x.takers.any fun e => e.2.1 == now || s.inStep e.2.1 e.2.2 else decide (s.cycle ≤ x.cycle + 256)

/-- The gang of a group: launch and unit. -/
def State.gangOf (s : State) (g : GId) : Nat × Nat := ((bidOf g).launch, (s.launch (bidOf g).launch).unitOf (bidOf g).flat)

/-- The number of a core. -/
def Req.coreNo (q : Req) : Nat := 256 * q.die + q.core

/-- A read is that of an address for the A strips of a core (`w` 0) or the B strips of a gang. -/
def Cast.of (x : Cast) (s : State) (q : Req) (m : MEntry) (w pa : Nat) : Bool :=
  x.part == q.part && x.pa == pa && if w = 0 then x.core == some q.coreNo else x.core.isNone && x.gang == s.gangOf m.g

/-- A read serves a request: of an A strip, of an instruction that it has not served; of a B strip, of any core of the gang (R14, R192;
log entry 58). -/
def Cast.serves (x : Cast) (s : State) (q : Req) (m : MEntry) (w pa : Nat) : Bool :=
  x.of s q m w pa && x.alive s m.seq && !(w == 0 && x.takers.any fun e => e.2.1 == m.seq)

/-- The reads of 64 bytes of a strip: one that is under way for others, or a new one at the slice or the destination; a line
inside the package is pinned (R14, R191, R192). `w` is 0 for A, 1 for B, 2 for zero points. -/
def fetchLine (s : State) (q : Req) (m : MEntry) (w pa : Nat) : KvR Nat :=
  let me := (q.coreNo, m.seq, m.progress)
  let pin (s : State) (v : Nat) : KvR Nat :=
    if isRemote pa then .ok v s
    else
      match s.pinLine q.part m.seq pa with
      | none => .wait .engineRoom
      | some s => .ok v s
  match s.casts.find? fun x => decide (w < 2) && x.serves s q m w pa with
  | some x => pin { s with casts := s.casts.map fun y => if y = x then { y with takers := y.takers ++ [me] } else y } x.v.toNat
  | none =>
    match s.engineLoad q pa 64 with
    | .abort s => .abort s
    | .wait w => .wait w
    | .ok v s =>
      let new : Cast := {
        part := q.part, pa := pa, core := if w = 0 then some q.coreNo else none, gang := s.gangOf m.g
        cycle := s.cycle, v := BitVec.ofNat 512 v, takers := [me] }
      let s := if isRemote pa then s else s.sendLine q.part (.tile m.seq) pa
      pin (if w < 2 then { s with casts := (s.casts.filter fun x => x.alive s m.seq && !x.of s q m w pa) ++ [new] } else s) v

/-- What a matrix instruction reads of global memory: in a ticketed launch its block's own staged bytes lie over it (R272,
R355). -/
def State.matOverlay (s : State) (q : Req) (repl : Bool) (pa v n : Nat) : Nat :=
  let b := bidOf q.g
  if !isHdl q.g && (s.launch b.launch).grade == 1 then overlay (s.block b).staged (stageKey repl pa) v n else v

/-- Fetches k runs of 64 bytes from a virtual address. -/
def fetchVirt (s : State) (q : Req) (m : MEntry) (w va : Nat) : Nat → List Byte → KvR (List Byte)
  | 0, l => .ok l s
  | k + 1, l =>
    match s.translateTlb q va .read with
    | .fault e => .stop e
    | .abort s => .abort s
    | .wait w => .wait w
    | .ok pa0 repl s =>
      let pa := loadAddr q repl pa0
      (fetchLine s q m w pa).bind fun v s =>
        fetchVirt s q m w ((va + 64) % 2 ^ 64) k (l ++ bytesOf (s.matOverlay q repl pa v 64) 64)

/-- Pins a frame for a matrix instruction (R120); a count at its limit is STATE (R121). -/
def State.pinFrame (s : State) (part seq frame pe : Nat) (c : W64) : KvR Unit :=
  (kvFrameEntry s part c frame pe).bind fun e s =>
    .check (decide (fPins e.2 < 65535)) (kvFault 6 c pe) <|
    .ok () ((s.unitWrite part e.1 8 (fEntry (fRefs e.2) (fPins e.2 + 1) (fState e.2))).modM seq fun m =>
      { m with pins := m.pins ++ [frame] })

/-- A coordinate with another position. -/
def withPos (c : W64) (p : Nat) : W64 := BitVec.ofNat 64 (c.toNat / 2 ^ 24 * 2 ^ 24 + p % 2 ^ 24)

/-- The format that a KV space needs (R286). -/
def kvNeeds (fmt : Nat) : Option Nat :=
  match fmt with
  | 0 => some 6 | 1 => some 7 | 2 => some 2 | 3 => some 3 | _ => none

/-- A KV operand in a step: which operand, its coordinate, space, record and the length read once, its increment word, its
format, whether it reads values, the step (R284, R285, R287). -/
structure KvStream where
  w : Nat
  c : W64
  d : KvSpace
  recPa : Nat
  len : Nat
  inc : Nat
  fmt : Nat
  kvv : Bool
  step : Nat
  deriving DecidableEq, Repr, Inhabited

/-- Elements of a step, and the bytes of one. -/
def KvStream.es (k : KvStream) : Nat := 32 / perStep k.fmt

/-- tr: operand rows are elements (R284). -/
def KvStream.tr (k : KvStream) : Bool := bit k.inc 48

/-- The bytes of the part that is read (R284). -/
def KvStream.part (k : KvStream) : Nat := if k.kvv then k.d.rowbytes - k.d.voff else k.d.voff

/-- The position of element (r, i) (R285). -/
def KvStream.pos (k : KvStream) (r i : Nat) : Int :=
  (kvPosOf k.c : Int) + k.step * sext 24 (bits k.inc 0 24) + (if k.tr then i else r : Nat)

/-- The offset of element (r, i) within the part (R285). -/
def KvStream.off (k : KvStream) (r i : Nat) : Nat :=
  (if k.tr then bits k.inc 32 16 + r else bits k.inc 32 16 + k.step * perStep k.fmt + i) * k.es

/-- The positions of the step, ascending. -/
def KvStream.positions (k : KvStream) : List (Int × KvStream) :=
  (List.range (if k.tr then perStep k.fmt else 64)).map fun i => (k.pos i i, k)

/-- A KV operand at the start of a step (R286, R287). -/
def kvStream (s : State) (q : Req) (l : LoopP) (w step : Nat) : KvR KvStream :=
  let c := BitVec.ofNat 64 (l.par w)
  let f := if w = 0 then l.fa else l.fb
  (kvSpace s q.part c).bind fun d s =>
    .check (kvNeeds d.fmt == some f) (kvFault 5 c d.addr) <|
    (kvRec s q.part c true).bind fun dr s =>
      .ok { w := w, c := c, d := d, recPa := dr.2.addr, len := dr.2.length, inc := l.par (2 + w), fmt := f, kvv := l.flag 16
            step := step } s

/-- Puts a position into an ascending list, after equal ones. -/
def posInsert (x : Int × KvStream) : List (Int × KvStream) → List (Int × KvStream)
  | [] => [x]
  | y :: r => if x.1 < y.1 then x :: y :: r else y :: posInsert x r

/-- The positions of all KV operands of a step in ascending order (R287). -/
def kvOrder (ks : List KvStream) : List (Int × KvStream) :=
  (ks.flatMap KvStream.positions).foldl (fun l x => posInsert x l) []

/-- What the walks of a step have found: the row of a position of an operand, and the frame of a page, which is pinned once. -/
structure KvRows where
  rows : List ((Nat × Int) × Nat) := []
  pages : List ((Nat × Nat) × Nat) := []
  deriving DecidableEq, Repr, Inhabited

/-- Walks the positions of a step in ascending order, each against its sequence's length, pinning each page once (R286,
R287). A position of no row reads as +0. -/
def kvPositions (s : State) (q : Req) (seq : Nat) : List (Int × KvStream) → KvRows → KvR KvRows
  | [], t => .ok t s
  | (p, k) :: r, t =>
    let co := withPos k.c (low 24 p)
    if p < 0 ∨ 0xFFFFFF < p then .stop (kvFault 5 co k.d.addr)
    else if k.part ≤ k.off 0 0 then kvPositions s q seq r t
    else if k.len ≤ p.toNat then
      if bit k.inc 49 then kvPositions s q seq r t else .stop (kvFault 2 co k.recPa)
    else
      let page := (k.c.toNat / 2 ^ 24, p.toNat / k.d.tpp)
      let row (frame : Nat) : (Nat × Int) × Nat := ((k.w, p), frame + p.toNat % k.d.tpp * k.d.rowbytes)
      match alook t.pages page with
      | some f => kvPositions s q seq r { t with rows := t.rows ++ [row f] }
      | none =>
        (s.kvWalk q co (some k.len)).bind fun h s =>
          let f := kvFrame h.entry
          (s.pinFrame q.part seq f h.entryPa co).bind fun _ s =>
            kvPositions s q seq r { rows := t.rows ++ [row f], pages := t.pages ++ [(page, f)] }

/-- The address of element (r, i) of a KV operand, if it has one (R285). -/
def KvStream.addr (k : KvStream) (t : KvRows) (r i : Nat) : Option Nat :=
  if k.part ≤ k.off r i then none
  else (alook t.rows (k.w, k.pos r i)).map fun a => a + (if k.kvv then k.d.voff else 0) + k.off r i

/-- Reads the lines that hold elements, each once. -/
def kvLines (s : State) (q : Req) (m : MEntry) (w : Nat) : List Nat → KvR (List (Nat × Nat))
  | [] => .ok [] s
  | a :: r => (fetchLine s q m w (64 * a)).bind fun v s => (kvLines s q m w r).bind fun l s => .ok ((a, v) :: l) s

/-- Fetches the strip of a KV operand (R285). -/
def fetchKv (s : State) (q : Req) (m : MEntry) (k : KvStream) (t : KvRows) : KvR (List Byte) :=
  let want := (List.range 64).flatMap fun r => (List.range (perStep k.fmt)).map (k.addr t r)
  (kvLines s q m k.w (distinct (want.filterMap fun a => a.map (· / 64)))).bind fun ls s =>
    .ok (want.flatMap fun a => match a with
      | none => bytesOf 0 k.es
      | some a => bytesOf ((alook ls (a / 64)).getD 0 / 256 ^ (a % 64)) k.es) s

/-- Fetches one operand: `w` is 0 for A, 1 for B. -/
def fetchOperand (s : State) (q : Req) (m : MEntry) (l : LoopP) (w : Nat) (ks : List KvStream) (t : KvRows) :
    KvR (List Byte) :=
  match ks.find? fun k => k.w == w with
  | some k => fetchKv s q m k t
  | none =>
    let f := if w = 0 then l.fa else l.fb
    fetchVirt s q m w (low 64 ((l.par w : Int) + m.progress * sext 64 (l.par (2 + w)))) (stripBytes f l.al / 64) []

/-- The parameters of a loop's entry. -/
def MEntry.loop (m : MEntry) : LoopP :=
  match m.op with
  | .mloop desc p al => { desc := desc, p := p, al := al }
  | _ => { desc := 0, p := [], al := 0 }

/-- The KV operands of a loop. -/
def LoopP.kvOps (l : LoopP) : List Nat := (List.range 2).filter fun w => l.flag (14 + w)

/-- A step begins: the pages of its KV operands are walked and pinned, then both strips are fetched and their lines pinned (R191,
R287). What must wait is tried again. -/
def State.beginStep (s : State) (q : Req) (m : MEntry) : State :=
  let l := m.loop
  let fetched := (kvAll (fun s w => kvStream s q l w m.progress) l.kvOps s).bind fun ks s =>
    (kvPositions s q m.seq (kvOrder ks) {}).bind fun t s =>
      (fetchOperand s q m l 0 ks t).bind fun a s => (fetchOperand s q m l 1 ks t).bind fun b s => .ok (a, b) s
  match fetched with
  | .ok r t => t.modM m.seq fun m => { m with started := true, stripA := r.1, stripB := r.2 }
  | .stop f => s.matFault q m f
  | .abort t => t.matError q.part (t.entry m) .abort 0 0
  | .wait w => (s.modM m.seq fun m => { m with started := false }).askAts q w

/-! ## MATRIX_INSTRUCTION_START (R257, R264, R267, R281, R288) -/

/-- An earlier instruction of the block, in any quadrant, names a tile that an entry names (R267). -/
def State.blockers (s : State) (m : MEntry) : List MEntry :=
  let ts := s.tilesOf m
  s.matq.filter fun e => bidOf e.g == bidOf m.g && decide (e.seq < m.seq) && (s.tilesOf e).any ts.contains

/-- The next entry to start, in arrival order: loops held on a KV record and what waits for them are passed over (R267,
R288). -/
def State.nextMatrix (s : State) : List MEntry → List Nat → Option MEntry
  | [], _ => none
  | m :: r, stuck =>
    let by_ := s.blockers m
    if m.kv && m.held.isSome then s.nextMatrix r (m.seq :: stuck)
    else if by_.any fun e => stuck.contains e.seq || (e.kv && e.held.isSome) then s.nextMatrix r (m.seq :: stuck)
    else if m.held.isSome || !by_.isEmpty then none
    else some m

/-- Marks a block's tiles. -/
def State.markTiles (s : State) (b : BId) (ts : List Nat) (m : Bool) : State :=
  s.modBlock b fun k => ts.foldl (fun k t => k.modTs t fun x => { x with split := m }) k

/-- A loop starts: its zero points are read once, its tiles are marked, its first step begins (R257, R264). -/
def State.startLoop (s : State) (q : Req) (m : MEntry) : State :=
  let l := m.loop
  let ts := if l.flag 13 then [m.d, m.d + 1] else [m.d]
  let go (s : State) (m : MEntry) : State := (s.markTiles (bidOf m.g) ts (l.flag 13)).beginStep q m
  if !l.flag 12 || !m.zps.isEmpty then go s m
  else
    match fetchVirt s q m 2 (l.par 6) 2 [] with
    | .stop f => s.matFault q m f
    | .abort t => t.matError q.part (t.entry m) .abort 0 0
    | .wait w => s.askAts q w
    | .ok f t =>
      let t := t.releasePins q.part (t.entry m)
      let z := (List.range 64).map fun i => sext 16 (wordAt f (2 * i) 2)
      go (t.modM m.seq fun m => { m with zps := z, lines := [] }) { m with zps := z }

/-- A drain starts: its checks and the charge to the staging list (R281, R282, R357). -/
def State.startDrain (s : State) (q : Req) (m : MEntry) (mode : Nat) : State :=
  let b := bidOf m.g
  let l := s.launch b.launch
  let k := s.block b
  if m.checked then s.modM m.seq fun m => { m with started := true }
  else
    match tdrCheck k l.tiles mode m.d m.a m.word with
    | some f => s.matError q.part m f.cls 0 f.detail
    | none =>
      let due := if l.grade = 1 && bit (k.getTs m.d).tdctl.toNat 2 then 64 * (drainRow k mode m.d m.a 0).length else 0
      let n := s.stagedCount b + due
      if due ≠ 0 && 65536 < n then s.matError q.part m .limit 0xC0 (BitVec.ofNat 64 n)
      else s.modM m.seq fun m => { m with started := true, checked := true, due := due }

/-- The engine of a quadrant executes an instruction. -/
def State.engineBusy (s : State) (at_ : Nat × Nat × Nat) : Bool := (s.queueOf at_).any fun m => m.started && m.held.isNone

/-- MATRIX_INSTRUCTION_START. -/
def State.matrixStart (s : State) (at_ : Nat × Nat × Nat) : State :=
  if s.engineBusy at_ then s
  else
    match s.nextMatrix (s.queueOf at_) [] with
    | none => s
    | some m =>
      let q := s.reqOf m.g
      match m.op with
      | .mloop _ _ _ => s.startLoop q m
      | .tdr k => s.startDrain q m k
      | _ => s.modM m.seq fun m => { m with started := true }

/-- MATRIX_INSTRUCTION_START (R267). -/
def execMatrixInstructionStart (die core quad : Nat) (s : State) : Host.Outcome State Fault Refusal :=
  .next (s.matrixStart (die, core, quad))

/-! ## MATRIX_K_STEP_COMPLETE (R265, R270, R283) -/

/-- The running instruction of a quadrant. -/
def State.running (s : State) (at_ : Nat × Nat × Nat) : Option MEntry :=
  (s.queueOf at_).find? fun m => m.started && m.held.isNone

/-- A second mismatch of the residue check: the gang is killed for CHECK and the core is fenced (R283, R237). -/
def State.residueCheck (s : State) (m : MEntry) : State :=
  let w := s.whereIs m.g
  (s.killGang m.g 12 true (some (m.word, 0)) m.pc .check (src := 2)).fenceCore w.1 w.2.1

/-- Completes the step in progress of a loop. -/
def State.completeStep (s : State) (m : MEntry) : State :=
  let q := s.reqOf m.g
  let l := m.loop
  let bad := if l.fb = 10 then badContainer l.al m.stripB else none
  match bad, alSubst l.al with
  | some off, false =>
    let va := Machine.low 64 ((l.par 1 : Int) + m.progress * sext 64 (l.par 3)) + off
    s.matError q.part m .code 0 (codeFault 0 (bits l.desc.toNat 8 3) 0 va).detail
  | _, _ =>
    let s := s.releasePins q.part m
    let s := s.modBlock (bidOf m.g) fun k =>
      let k := kStep l m.d m.progress m.stripA m.stripB m.zps k
      if bad.isSome then k.flagAl (bits l.desc.toNat 8 3) else k
    let m' : MEntry := { m with progress := m.progress + 1, pins := [], lines := [], stripA := [], stripB := [] }
    let s := s.modM m.seq fun _ => m'
    if l.par 4 ≤ m'.progress then s.matDone q.part m' else s.beginStep q m'

/-- MATRIX_K_STEP_COMPLETE. -/
def State.matrixStep (s : State) (at_ : Nat × Nat × Nat) : State :=
  match s.running at_ with
  | none => s
  | some m =>
    match m.op with
    | .mloop _ _ _ =>
      match (s.quad at_.1 at_.2.1 at_.2.2).res with
      | .broken => s.residueCheck m
      | .glitch =>
        let s := s.modQuad at_.1 at_.2.1 at_.2.2 fun k => { k with res := .sound }
        (s.modCore at_.1 at_.2.1 fun k => { k with transient := k.transient + 1 }).completeStep m
      | .sound => s.completeStep m
    | _ => s

/-- MATRIX_K_STEP_COMPLETE (R265). -/
def execMatrixKStepComplete (die core quad : Nat) (s : State) : Host.Outcome State Fault Refusal :=
  .next (s.matrixStep (die, core, quad))

/-! ## MATRIX_INSTRUCTION_COMPLETE (R270, R272, R274, R281) -/

/-- The frame that an engine write of a block goes to: a page of an open shadow is redirected (R187, R188). -/
def State.redirect (s : State) (b : BId) (seq va pa : Nat) : Nat × Bool :=
  let hit := (s.block b).shadows.findSome? fun h =>
    if (match h.pub with | none => true | some n => decide (seq < n)) then
      h.pages.find? fun p => p.va == va57 va / 65536 * 65536
    else none
  match hit with
  | some p => (p.shadow + va % 65536, true)
  | none => (pa, false)

/-- Translates the elements of a drained row; each run of 64 bytes lies in one page. -/
def rowAddrs (q : Req) (m : MEntry) (base : Nat) : List (Nat × Nat × Nat) → State → KvR (List (Nat × Bool × Nat × Nat))
  | [], s => .ok [] s
  | (off, n, v) :: r, s =>
    let va := (base + off) % 2 ^ 64
    match s.translateTlb q va .write with
    | .fault f => .stop f
    | .abort s => .abort s
    | .wait w => .wait w
    | .ok pa repl s =>
      let x := s.redirect (bidOf m.g) m.seq va pa
      (rowAddrs q m base r s).bind fun l s => .ok ((x.1, repl && !x.2, n, v) :: l) s

/-- Before a row is written, every line that it lies on takes the write: a row of which one does not is not written at all (R270,
R384). -/
def rowReady (q : Req) : List (Nat × Bool × Nat × Nat) → State → KvR Unit
  | [], s => .ok () s
  | (pa, repl, _, _) :: r, s =>
    let ready : Acc :=
      if repl then accAll (fun d s => s.lineAccess q.part (replicaOf d pa) 0 false) (s.part q.part).dies s
      else if isRemote pa then if s.reach q.part pa then .ok 0 s else .abort s
      else s.lineAccess q.part pa 0 false
    match ready with
    | .ok _ s => rowReady q r s
    | .abort s => .abort s
    | .wait w => .wait w

/-- Writes the elements of a drained row, or stages them. -/
def rowWrite (q : Req) (b : BId) (staged : Bool) : List (Nat × Bool × Nat × Nat) → State → KvR Unit
  | [], s => .ok () s
  | (pa, repl, n, v) :: r, s =>
    if staged then rowWrite q b staged r (s.stage q.part b (.store pa n (BitVec.ofNat 64 v) repl))
    else
      match s.engineStore q pa n v repl with
      | .ok _ s => rowWrite q b staged r s
      | .abort s => .abort s
      | .wait w => .wait w

/-- A row of a drain: its addresses, its lines, its writes. -/
def drainOne (q : Req) (m : MEntry) (staged : Bool) (base : Nat) (row : List (Nat × Nat × Nat)) (s : State) : KvR Unit :=
  (rowAddrs q m base row s).bind fun l s =>
    (if staged then KvR.ok () s else rowReady q l s).bind fun _ s => rowWrite q (bidOf m.g) staged l s

/-- Drains the rows from i on; a fault ends it at the row that faulted, every earlier row stands. AGREE counts the elements of
a row with its writes (R269, R270, R282). -/
def State.drainRows (s : State) (q : Req) (m : MEntry) (mode : Nat) : Nat → Nat → State
  | _, 0 => s.matDone q.part m
  | i, n + 1 =>
    let b := bidOf m.g
    let k := s.block b
    let t := k.getTs m.d
    let base := t.tdst.toNat + i * bits t.tdctl.toNat 8 24
    let staged := (s.launch b.launch).grade == 1
    let row := drainRow k mode m.d m.a i
    match drainOne q m staged base row s with
    | .ok _ s =>
      let m' : MEntry := { m with progress := i + 1, due := m.due - (if staged then row.length else 0) }
      ((s.modM m.seq fun _ => m').modBlock b fun k => addZcnt k m.a (zeroedBy k mode m.a i 1)).drainRows q m' mode (i + 1) n
    | .stop f => s.matFault q m f
    | .abort s => s.matError q.part m .abort 0 0
    | .wait w => s.askAts q w

/-- MATRIX_INSTRUCTION_COMPLETE. -/
def State.matrixComplete (s : State) (at_ : Nat × Nat × Nat) : State :=
  match s.running at_ with
  | none => s
  | some m =>
    let q := s.reqOf m.g
    let onTiles (f : Block → Block) : State := (s.modBlock (bidOf m.g) f).matDone q.part m
    match m.op with
    | .mloop _ _ _ => s
    | .had ctl => onTiles (hadTile ctl m.d m.a)
    | .qnt ctl => onTiles (qntTile ctl m.d m.a at_.2.2)
    | .tzero => onTiles (tzeroTile m.d)
    | .tcopy => onTiles (tcopyTile m.d m.a)
    | .tdr k =>
      if bit ((s.block (bidOf m.g)).getTs m.d).tdctl.toNat 2 then s.drainRows q m k m.progress (64 - m.progress)
      else onTiles (tdrTiles k m.d m.a)

/-- MATRIX_INSTRUCTION_COMPLETE (R274). -/
def execMatrixInstructionComplete (die core quad : Nat) (s : State) : Host.Outcome State Fault Refusal :=
  .next (s.matrixComplete (die, core, quad))

end Sys2Proof.Machine
end

