-- ==== Sys2Proof/Machine/Copy.lean ====
section
/-! DEFINITION. The copy channels at work: COPY_START and COPY_ELEMENT_WRITTEN (R181 to R183, R187, R353). -/

namespace Sys2Proof.Machine

/-- The core whose channels perform the copies of a block: also while its scratchpad is still to be written out (R183). -/
def Block.copyCore (b : Block) : Option (Nat × Nat) :=
  match b.place with
  | .core d c => some (d, c)
  | .leaving d c => some (d, c)
  | _ => none

/-- The copy whose turn it is on a channel of a core: the one that it performs, else the first in issue order (R181). -/
def State.channelHead (s : State) (die core ch : Nat) : Option Copy :=
  let mine := s.copies.filter fun x => x.ch == ch && (s.block x.bid).copyCore == some (die, core)
  match mine.find? (·.active) with
  | some x => some x
  | none => mine.head?

/-- Changes a copy. -/
def State.modCopy (s : State) (seq : Nat) (f : Copy → Copy) : State :=
  { s with copies := s.copies.map fun x => if x.seq = seq then f x else x }

/-- Removes a copy. -/
def State.dropCopy (s : State) (seq : Nat) : State := { s with copies := s.copies.filter fun x => x.seq != seq }

/-- Who asks for the accesses of a copy. -/
def State.copyReq (s : State) (x : Copy) : Req :=
  let at_ := (s.block x.bid).copyCore.getD (0, 0)
  { s.reqOf (.grp x.bid.launch x.bid.flat 0) with die := at_.1, core := at_.2 }

/-- PERM or ABORT: the channel enters the error state at the element that failed, and the block's later copies on it are
discarded. The counters stay: an element that was read counts in rdone (R182, R417; log entry 40). -/
def State.copyError (s : State) (x : Copy) (cls : FClass) (sub : Nat) (table : Option (Nat × Nat) := none) : State :=
  let s := s.modBlock x.bid fun b => b.modCh x.ch fun c => { c with err := some (cls, sub), off := x.done, table := table }
  { s with copies := s.copies.filter fun y => !(y.on x.bid x.ch && decide (x.seq ≤ y.seq)) }

/-- A fault of an element: XLATE posts a record and holds the copy; PERM is an error (R182). -/
def State.copyFault (s : State) (x : Copy) (f : FaultRec) : State :=
  if f.cls = .xlate then
    let l := s.launch x.bid.launch
    let r := (s.dropAts (s.copyReq x) f).enginePage l.part 1 l.id x.bid.flat l.ctxNo l.pasid 0 f (.copy x.seq)
    r.1.modCopy x.seq fun y => { y with held := some r.2 }
  else s.copyError x f.cls f.sub f.table

/-- How a copy goes on after an access of its element (R182). -/
def State.copyOn (s : State) (x : Copy) (a : Acc) (k : Nat → State → State) : State :=
  match a with
  | .ok v s => k v s
  | .abort s => s.copyError x .abort 0
  | .wait w => s.askAts (s.copyReq x) w

/-- How a copy goes on after translating an end of its element: the address, and whether the page is replicated; none for a
scratchpad operand (R179, R182). -/
def State.copyEnd (s : State) (x : Copy) (global : Bool) (va : Nat) (kind : Kind)
    (k : Option (Nat × Bool) → State → State) : State :=
  if !global then k none s
  else
    match s.translateTlb (s.copyReq x) (va % 2 ^ 64) kind with
    | .ok pa repl s => k (some (pa, repl)) s
    | .fault f => s.copyFault x f
    | .abort s => s.copyError x .abort 0
    | .wait w => s.askAts (s.copyReq x) w

/-- The operation of a reduce-add copy (R179). -/
def Copy.aop (x : Copy) : AOp := if x.op = 0 then .fadd else .add

/-- The next element of a copy is read: global, overlaid with what the block has staged, or from the scratchpad
(R181, R355). The home slice sends each line that the copy reads once (R155). -/
def State.copyRead (s : State) (q : Req) (x : Copy) (ticketed : Bool) (src : Option (Nat × Bool)) : Acc :=
  match src with
  | none => .ok (s.scLoad x.bid (x.src.toNat + x.done) x.esize) s
  | some (pa, repl) =>
    (s.engineLoad q (loadAddr q repl pa) x.esize).bind fun v s =>
      let s := if !isRemote pa && (x.done = 0 || pa % 256 < x.esize) then s.sendLine q.part (.copy x.seq) (loadAddr q repl pa) else s
      .ok (if ticketed then overlay (s.block x.bid).staged (stageKey repl pa) v x.esize else v) s

/-- The next element of a copy is written: to the scratchpad, as a store or a RED, into an open shadow of the block, or to
its staging list (R181, R187, R351, R353). -/
def State.copyWrite (s : State) (q : Req) (x : Copy) (grade : Nat) (dst : Option (Nat × Bool)) (v : Nat) : Acc :=
  match dst with
  | none => .ok 0 (s.scStore x.bid (x.dst.toNat + x.done) x.esize v)
  | some (pa, repl) =>
    if x.kind = 2 then
      if grade = 1 then .ok 0 (s.stage q.part x.bid (.red x.aop pa x.esize (BitVec.ofNat 64 v)))
      else s.engineRed q pa x.esize x.aop v (grade == 2 && x.aop == .fadd)
    else
      let r := s.redirect x.bid x.seq ((x.dst.toNat + x.done) % 2 ^ 64) pa
      if grade = 1 then .ok 0 (s.stage q.part x.bid (.store r.1 x.esize (BitVec.ofNat 64 v) (repl && !r.2)))
      else s.engineStore q r.1 x.esize v (repl && !r.2)

/-- The element has been read: rdone grows by it (R181). -/
def State.copyTake (s : State) (x : Copy) (v : Nat) : State :=
  (s.modBlock x.bid fun b => b.modCh x.ch fun c => { c with rdone := c.rdone + x.esize }).modCopy x.seq fun y =>
    { y with val := some (BitVec.ofNat 64 v) }

/-- The element has been written: wptr grows by it, and the copy ends with its last one (R181). -/
def State.copyAdvance (s : State) (x : Copy) : State :=
  let e := x.esize
  let s := s.modBlock x.bid fun b => b.modCh x.ch fun c => { c with wptr := c.wptr + e }
  if x.len ≤ x.done + e then s.dropCopy x.seq else s.modCopy x.seq fun y => { y with done := y.done + e, val := none }

/-- The next element of a copy is read (R181). -/
def State.copySource (s : State) (x : Copy) : State :=
  let grade := (s.launch x.bid.launch).grade
  s.copyEnd x (x.kind == 0 || x.kind == 3) (x.src.toNat + x.done) .read fun src s =>
    s.copyOn x (s.copyRead (s.copyReq x) x (grade == 1) src) fun v s => s.copyTake x v

/-- The element that has been read is written (R181). -/
def State.copyTarget (s : State) (x : Copy) (v : Nat) : State :=
  let grade := (s.launch x.bid.launch).grade
  s.copyEnd x (x.kind != 0) (x.dst.toNat + x.done) (if x.kind = 2 then .rmw else .write) fun dst s =>
    s.copyOn x (s.copyWrite (s.copyReq x) x grade dst v) fun _ s => s.copyAdvance x

/-- Performs the next element of a copy: it is read, counted in rdone, and written; one that has been read is not read again
(R181, R182). -/
def State.copyElement (s : State) (x : Copy) : State :=
  let s := if x.val.isSome then s else s.copySource x
  match s.copies.find? fun y => y.seq == x.seq with
  | some y => match y.val with
    | some v => s.copyTarget y v.toNat
    | none => s
  | none => s

/-- A channel turns to a copy; one of length 0 completes at once (R180). -/
def State.copyBegin (s : State) (x : Copy) : State :=
  if x.len = 0 then s.dropCopy x.seq else s.modCopy x.seq fun y => { y with begun := true, active := true }

/-- One step of a channel: its next copy begins, or the next element of the one it performs is written. -/
def State.copyStep (s : State) (die core ch : Nat) : State :=
  match s.channelHead die core ch with
  | none => s
  | some x => if x.held.isSome then s else if x.active then s.copyElement x else s.copyBegin x

/-- The steps that the copies of a core may still take. -/
def State.copySteps (s : State) (die core : Nat) : Nat :=
  ((s.copies.filter fun x => (s.block x.bid).copyCore == some (die, core)).map fun x => x.len + 1).foldl (· + ·) 0

/-- A channel performs its copies until none is left or one is held. -/
def State.copyRun (s : State) (die core ch : Nat) : Nat → State
  | 0 => s
  | n + 1 =>
    match s.channelHead die core ch with
    | none => s
    | some x => if x.held.isSome then s else (s.copyStep die core ch).copyRun die core ch n

/-- The channels of a core perform their copies, as they do before a scratchpad is written to its image (R183). -/
def State.copiesSettle (s : State) (die core : Nat) : State :=
  (List.range 4).foldl (fun s ch => s.copyRun die core ch (s.copySteps die core)) s

/-- COPY_START: a channel begins the next queued copy of its core (R181). -/
def execCopyStart (die core ch : Nat) (s : State) : Host.Outcome State Fault Refusal :=
  match s.channelHead die core ch with
  | none => .next s
  | some x => .next (if x.active || x.held.isSome then s else s.copyBegin x)

/-- COPY_ELEMENT_WRITTEN: the next element of the running copy is read and written, and the counters grow (R181). -/
def execCopyElementWritten (die core ch : Nat) (s : State) : Host.Outcome State Fault Refusal :=
  match s.channelHead die core ch with
  | none => .next s
  | some x => .next (if x.active && x.held.isNone then s.copyElement x else s)

end Sys2Proof.Machine
end

