-- ==== Sys2Proof/Machine/Release.lean ====
section
/-! DEFINITION. The end of run-ahead, and the trap queue: popping a record, releasing one, and what becomes of the party that
it holds (R96 to R100, R121, R371 to R373, R380). -/

namespace Sys2Proof.Machine

/-- Run-ahead ends, with a cause unless an end event has come before: the group is restored from its checkpoint and parked, and its record is posted (R96). -/
def State.endAhead (s : State) (g : GId) (cause : Nat) : State :=
  match (s.grp g).ahead with
  | none => s
  | some a =>
    let r := s.grp g
    (s.modGrp g fun r => { r with b := a.saved }).postXlate g r.epc r.ecause r.edetail a.pages a.s2 a.count (a.ended.getD cause)

/-! ## The image of a record (R372) -/

/-- The kind code (R372). -/
def RKind.code : RKind → Nat
  | .replayable => 0 | .notice => 1 | .fatal => 2

/-- The 64 doublewords of a record in a slot. -/
def Rec.dws (slot : Nat) (r : Rec) : List W64 :=
  let dw0 := r.code.getD (classCode r.cls) * 2 ^ 56 + r.kind.code * 2 ^ 54 + r.src * 2 ^ 52 + b01 r.hdl * 2 ^ 51 +
    r.payload.length * 2 ^ 40
  let env := [BitVec.ofNat 64 dw0, recId slot r, BitVec.ofNat 64 r.launch, BitVec.ofNat 64 r.gflat, r.epc, r.cause,
    r.detail, 0]
  ((env ++ r.payload) ++ List.replicate 56 0).take 64

/-! ## Popping (R371, R373, R380) -/

/-- The oldest record that nobody has popped. -/
def Part.oldest (p : Part) : Option (Nat × Rec) := p.tq.find? fun e => !e.2.popped

/-- A BRK notice of the default handler stays outstanding until it is released (R373). -/
def Rec.isBrk (r : Rec) : Bool :=
  match r.owner with
  | .brk _ => true
  | _ => false

/-- A popped notice or fatal record frees its slot; a replayable record keeps it (R373). -/
def Part.popped (p : Part) (slot : Nat) (r : Rec) : Part :=
  if r.kind = .replayable then
    { p with tq := p.tq.map fun e => if e.2.rid = r.rid then (e.1, { e.2 with popped := true }) else e }
  else
    { p with
      tq := p.tq.filter fun e => e.2.rid != r.rid
      brks := if r.isBrk then p.brks ++ [(slot, r)] else p.brks }.drain

/-! ## What a release does (R373) -/

/-- The fault of a parked group goes to the on-core handler: an XLATE as PERM, a KV record with its cause (R98, R373). -/
def State.abandonGroup (s : State) (g : GId) (r : Rec) (detail : W64) : State :=
  let x := s.grp g
  if r.cls = .kv then s.takeTrap g x.eslot x.epc r.cause 0
  else s.takeTrap g x.eslot x.epc (r.cause - BitVec.ofNat 64 (classCode .xlate) + BitVec.ofNat 64 (classCode .perm)) detail

/-- A held matrix instruction resumes at its recorded step, a KV-held one from the head of its queue (R269, R288), or ends
with PERM or KV (R270, R373). -/
def State.settleEngine (s : State) (part : Nat) (m : MEntry) (r : Rec) (resume : Bool) : State :=
  if resume then
    let m' := { m with held := none, kv := false, started := false }
    if m.kv then { s with matq := m' :: s.matq.filter fun x => x.seq != m.seq } else s.modM m.seq fun _ => m'
  else if r.cls = .kv then s.matError part { m with held := none, kv := false } .kv m.sub 0
  else s.matError part { m with held := none, kv := false } .perm 0 m.detail

/-- What becomes of the party that a record holds (R373). `detail` is the address of an abandoned XLATE. -/
def State.settleRec (s : State) (part : Nat) (r : Rec) (resume : Bool) (detail : W64) : State :=
  match r.owner with
  | .nobody => s
  | .group g =>
    if (s.grp g).run ≠ .parked r.rid then s
    else if resume then s.modGrp g Grp.resume
    else s.abandonGroup g r detail
  | .engine seq =>
    match s.matq.find? fun m => m.seq == seq && m.held == some r.rid with
    | none => s
    | some m => s.settleEngine part m r resume
  | .copy seq =>
    match s.copies.find? fun x => x.seq == seq && x.held == some r.rid with
    | none => s
    | some x => if resume then s.modCopy seq fun y => { y with held := none } else s.copyError x .perm 0
  | .hub key =>
    let s := s.modLaunch key fun l => { l with hubRec := none }
    if resume then s.writeCompletion key
    else
      let (s, rid) := s.newRid part
      (s.postRec part
        { rid := rid, cls := .xlate, kind := .notice, src := 3, launch := r.launch, gflat := 0
          cause := causeWord .xlate 0 none }).modLaunch key fun l => { l with reported := true }
  | .brk g =>
    if (s.grp g).run ≠ .brk r.rid then s
    else if resume then s.modGrp g fun x => { x with epc := x.epc + 4 }.resume
    else s.killGang g 14 false none (s.grp g).epc .brk

/-- The outstanding record of an identifier: replayable, or a BRK notice of the default handler (R380). -/
def Part.outstanding (p : Part) (id : W64) : Option Rec :=
  ((p.tq ++ p.brks).find? fun e => recId e.1 e.2 == id && (e.2.kind == .replayable || e.2.isBrk)).map (·.2)

/-- Releases the record of an identifier, with resume or abandon; the answer says whether one was outstanding. A resume
before the PRG Response takes effect with the response (R98). -/
def State.release (s : State) (part : Nat) (id : W64) (resume : Bool) : State × Bool :=
  match (s.part part).outstanding id with
  | none => (s, false)
  | some r =>
    let s := s.modQueue part fun p => p.dropRecs fun x => x.rid == r.rid
    if resume && r.prg then (s.modPart part fun p => { p with chandler := p.chandler ++ [{ r with popped := true }] }, true)
    else (s.settleRec part r resume r.detail, true)

/-! ## PRI, the partition manager, the KV allocator (R98, R100, R121) -/

/-- The address of the first host page of an XLATE record; the fault's own address when it lies in that page (R98). -/
def Rec.hostDetail (r : Rec) : W64 :=
  match r.hostPages with
  | [] => r.detail
  | w :: _ =>
    let page := bits w.toNat 16 41
    if bits r.detail.toNat 16 41 = page then r.detail else canon (page * 65536)

/-- PRG_RESPONSE: Success allows the replay; any other response turns the fault into PERM on the first host page and sends
it to the on-core handler (R98). -/
def execPrgResponse (part rid : Nat) (success : Bool) (s : State) : Host.Outcome State Fault Refusal :=
  match (s.part part).findRec rid with
  | none => .next s
  | some r =>
    if !r.prg || !r.asked then .next s
    else if !success then
      .next ((s.modQueue part fun p => p.dropRecs fun x => x.rid == rid).settleRec part r false r.hostDetail)
    else if (s.part part).chandler.any fun x => x.rid == rid then
      .next ((s.modQueue part fun p => p.dropRecs fun x => x.rid == rid).settleRec part r true r.detail)
    else
      let ok (x : Rec) : Rec := if x.rid = rid then { x with prg := false } else x
      .next (s.modPart part fun p => { p with tq := p.tq.map fun e => (e.1, ok e.2), tqWait := p.tqWait.map ok })

/-- STAGE2_FAULT_RESOLVED: the partition manager has resolved the k-th of a record's stage-2 records that are left, and with the
last one the record is released to software; or the batch is abandoned and the fault becomes PERM on that record's page
(R100). -/
def execStage2FaultResolved (part : Nat) (rec : S2Name) (ok : Bool) (s : State) : Host.Outcome State Fault Refusal :=
  let rid := rec.rid
  match (s.part part).chandler.find? fun r => r.rid == rid with
  | none => .next s
  | some r =>
    match r.s2[rec.k]? with
    | none => .next s
    | some x =>
      let drop := s.modQueue part fun p => p.dropRecs fun y => y.rid == rid
      let left : Rec := { r with s2 := r.s2.eraseIdx rec.k }
      .next (if !ok then drop.settleRec part r false (canon x.va)
        else if left.s2.isEmpty then drop.postXrec part left
        else s.modPart part fun p => { p with chandler := p.chandler.map fun y => if y.rid = rid then left else y })

/-- KV_FAULT_RESOLVED: the Chandler's allocator releases a KV record with resume, or forwards it to the trap queue (R121). -/
def execKvFaultResolved (part rid : Nat) (ok : Bool) (s : State) : Host.Outcome State Fault Refusal :=
  match (s.part part).chandler.find? fun r => r.rid == rid && r.cls == .kv with
  | none => .next s
  | some r =>
    let s := s.modQueue part fun p => p.dropRecs fun y => y.rid == rid
    .next (if ok then s.settleRec part r true 0 else s.postRec part r)

end Sys2Proof.Machine
end

