-- ==== Sys2Proof/Machine/Place.lean ====
section
/-! DEFINITION. Where blocks are: room on a core and the scratchpad part P, placing a block or a gang, switching blocks out and
writing their images (R20, R169, R170, R322, R327 to R330, R343 to R345, R375). -/

namespace Sys2Proof.Machine

/-! ## Cores (R20, R21, R397) -/

/-- The cores of a die in use. -/
def coresInUse : Nat := 192

/-- The physical core that stands for core n of a die: itself, or the spare that the record puts in its place (R397). -/
def State.physCore (s : State) (die n : Nat) : Nat :=
  match mget 0 s.cfg.spares (256 * die + n) with
  | 0 => n
  | k => k

/-- The physical cores of a neighbourhood, ascending (R20). -/
def State.nbhd (s : State) (die n : Nat) : List Nat := (List.range 8).map fun j => s.physCore die (8 * n + j)

/-- The blocks resident on a core. -/
def State.residents (s : State) (die core : Nat) : List (BId × Block) :=
  s.blocks.filter fun e => e.2.place == .core die core

/-- The blocks whose scratchpads a core still holds for their images. -/
def State.leaving (s : State) (die core : Nat) : List (BId × Block) :=
  s.blocks.filter fun e => e.2.place == .leaving die core

/-- The groups resident in a quadrant. -/
def State.quadGroups (s : State) (die core q : Nat) : List (GId × Grp) :=
  s.groups.filter fun e => !isHdl e.1 && (s.block (bidOf e.1)).place == .core die core && e.2.quad == q

/-! ## Quadrants for the groups of a block (R328) -/

/-- What a quadrant has in use: resident slots and vector registers; and the groups of the block to be placed. -/
structure QUse where
  slots : List Nat
  regs : Nat
  mine : Nat := 0
  deriving DecidableEq, Repr, Inhabited

/-- A quadrant has a free slot and A registers. -/
def QUse.fits (u : QUse) (A : Nat) : Bool := decide (u.slots.length < 8) && decide (u.regs + A ≤ 512)

/-- The lowest free slot of a quadrant. -/
def QUse.free (u : QUse) : Nat := ((List.range 8).find? fun r => !u.slots.contains r).getD 0

/-- The quadrant that takes the next group: the one with room that holds the fewest groups of the block, the lowest on a
tie (R328). -/
def pickQuad (us : List QUse) (A : Nat) : Option Nat :=
  (List.range us.length).foldl
    (fun o q =>
      let u := us.getD q { slots := [], regs := 0 }
      if !u.fits A then o
      else
        match o with
        | none => some q
        | some p => if u.mine < (us.getD p { slots := [], regs := 0 }).mine then some q else o)
    none

/-- Quadrants and slots for n groups of A registers, in ascending idx1 (R328). -/
def seatGroups (A : Nat) : Nat → List QUse → Option (List (Nat × Nat) × List QUse)
  | 0, us => some ([], us)
  | n + 1, us =>
    match pickQuad us A with
    | none => none
    | some q =>
      let u := us.getD q { slots := [], regs := 0 }
      let us := us.set q { slots := u.free :: u.slots, regs := u.regs + A, mine := u.mine + 1 }
      match seatGroups A n us with
      | none => none
      | some (l, us) => some ((q, u.free) :: l, us)

/-- An empty core's quadrants. -/
def emptyQuads : List QUse := List.replicate 4 { slots := [], regs := 0 }

/-- What the quadrants of a core have in use. -/
def State.quadUse (s : State) (die core : Nat) : List QUse :=
  (List.range 4).map fun q =>
    let gs := s.quadGroups die core q
    { slots := gs.map fun e => e.2.rslot, regs := (gs.map fun e => e.2.valloc).foldl (· + ·) 0 }

/-! ## The scratchpad part P (R169, R170) -/

/-- The pairs of physical tiles that a block takes: name 2k takes an even tile and 2k + 1 the odd one above it (R195). -/
def Launch.tilePairs (l : Launch) : Nat := ceilDiv l.tiles 2

/-- The largest number of a launch's blocks that an empty core holds by its group slots, tile registers and vector
registers, at most `fuel`; `tiles` counts pairs. -/
def Launch.perCore (l : Launch) : Nat → List QUse → Nat → Nat
  | 0, _, _ => 0
  | fuel + 1, us, tiles =>
    if 8 < tiles + l.tilePairs then 0
    else
      match seatGroups l.valloc l.groupsPerBlock (us.map fun u => { u with mine := 0 }) with
      | none => 0
      | some (_, us) => 1 + l.perCore fuel us (tiles + l.tilePairs)

/-- The P that a dispatcher sets for a launch (R169). -/
def Launch.pFor (l : Launch) : Nat :=
  let n := l.perCore 32 emptyQuads 0
  min 720896 (65536 * ceilDiv ((if l.pre then 2 else 1) * l.scratch * n) 65536)

/-- Sums a list. -/
def total (l : List Nat) : Nat := l.foldl (· + ·) 0

/-- A core holds no block and no image, so that its P may change (R13, R169). -/
def State.coreFree (s : State) (die core : Nat) : Bool :=
  (s.residents die core).isEmpty && (s.leaving die core).isEmpty

/-- The P under which a block of a launch would be placed. -/
def State.pOn (s : State) (l : Launch) (die core : Nat) : Nat :=
  if s.coreFree die core then l.pFor else (s.core die core).p

/-- Scratchpad bytes fit (R170): `used` by the resident blocks, `pre` by the pre-emptible ones among them. -/
def Launch.scratchFits (l : Launch) (p used pre : Nat) : Bool :=
  decide (used + l.scratch ≤ p) && (!l.pre || decide (2 * (pre + l.scratch) ≤ p))

/-- A block of a launch fits on an empty core (R319, R327). A pre-emptible record with more than 360,448 bytes of scratchpad does not,
by R170's P / 2: the model's choice is that the lowest number of R319, reason 4, stands for it, and never reason 5 (log entry 33). -/
def Launch.fitsEmpty (l : Launch) (k : Nat) : Bool :=
  decide (k ≤ l.perCore 32 emptyQuads 0) && decide (k * l.scratch ≤ l.pFor) &&
    (!l.pre || decide (2 * (k * l.scratch) ≤ l.pFor))

/-! ## The unit that is placed next -/

/-- Blocks of a gang on one core (R329). -/
def Launch.gangPer (l : Launch) : Nat := l.gangSize / l.gspread

/-- The dispatch units of a unit of the lowest die-bound level, or 0 without such a level (R324). -/
def Launch.dieUnits (l : Launch) : Nat :=
  let lo := if l.hasGang then 3 else 2
  match (upFrom (lo + 1) (l.nlevels - lo - 1)).find? fun n => l.domainOf n == 2 with
  | none => 0
  | some n => ((upFrom lo (n - lo)).map l.ext).foldl (· * ·) 1

/-- The die that a unit must be placed on: its dispatcher's, or that of its neighbours in a die-bound level. -/
def Launch.dieFor (l : Launch) (unit : Nat) : Option Nat :=
  match (l.handed ++ l.held).find? fun e => e.1 == unit with
  | some e => some e.2
  | none =>
    if l.dieUnits = 0 then none
    else ((l.handed ++ l.held).find? fun e => e.1 / l.dieUnits == unit / l.dieUnits).map (·.2)

/-- The unit of a launch that a die's dispatcher places next: one that was pre-empted or killed before one not yet
started, in ascending order (R324, R330). -/
def Launch.nextFor (l : Launch) (die : Nat) : Option Nat :=
  match l.again.find? fun u => (l.dieFor u).getD die == die with
  | some u => some u
  | none => (l.handed.find? fun e => e.2 == die).map (·.1)

/-! ## Placing (R322, R327 to R329) -/

/-- Writes back and drops every L1 line of a core, and sets P (R169). -/
def State.setP (s : State) (die core p : Nat) : State :=
  if (s.core die core).p = p then s
  else
    let part := s.partOfDie die
    let s := (s.core die core).l1.foldl (fun s l => s.l1Merge part l.line l.mask) s
    s.modCore die core fun c => { c with p := p, l1 := [] }

/-- A new block: its alphabet registers take the record's values (R200, R317). -/
def Launch.newBlock (l : Launch) : Block :=
  (List.range 8).foldl
    (fun b n =>
      let v := l.record.getD (14 + n) 0
      if v = 0 then b else b.setAl n v)
    {}

/-- A new group of a block: at entry, all lanes, its stack (R322). -/
def Launch.newGroup (l : Launch) (flat idx : Nat) : Grp :=
  let base := l.record.getD 12 0 + BitVec.ofNat 64 (l.flatG flat idx * l.field 13 0 32)
  { b := { stkbase := base, stklim := base + BitVec.ofNat 64 (l.field 13 0 32),
           slotA := { pc := l.record.getD 1 0, lanes := BitVec.allOnes 64 } }
    valloc := l.valloc, idx1 := idx }

/-- Seats the groups of a block. -/
def State.seat (s : State) (b : BId) (seats : List (Nat × Nat)) : State :=
  (List.range seats.length).foldl
    (fun s i =>
      let x := seats.getD i (0, 0)
      s.modGrp (.grp b.launch b.flat i) fun r => { r with quad := x.1, rslot := x.2 })
    s

/-- The groups of a block that were stopped for the handler, and do not wait for it, go to it again (R375). -/
def State.requeueTraps (s : State) (b : BId) : State :=
  (s.groupsOf b).foldl (fun s e => if e.2.run = .trapped && !s.queued e.1 then s.queueTrap e.1 else s) s

/-- The unit that a core is kept for: it still waits on the die (R330). -/
def State.wanted (s : State) (die core : Nat) : Option (Nat × Nat) :=
  match (s.core die core).want with
  | none => none
  | some u => if (s.launch u.1).ended.isNone && (s.launch u.1).nextFor die == some u.2 then some u else none

/-- A block that is placed again resumes: the wait counts of its groups' slots start anew (R340), and its matrix instructions
stand after those that are in the queues already (R267). -/
def State.resumeBlock (s : State) (b : BId) : State :=
  let mine (m : MEntry) : Bool := bidOf m.g == b
  { s with
    matq := (s.matq.filter fun m => !mine m) ++ s.matq.filter mine
    groups := s.groups.map fun e =>
      (e.1, if !isHdl e.1 && bidOf e.1 == b then { e.2 with b := (e.2.b.modSlot .a Slot.again).modSlot .b Slot.again } else e.2) }

/-- Places a block on a core that has room for it: a new one starts, one with an image resumes (R327, R328, R344). -/
def State.placeBlock (s : State) (b : BId) (die core : Nat) : Option State :=
  let l := s.launch b.launch
  let rs := s.residents die core
  let p := s.pOn l die core
  let used := total (rs.map fun e => (s.launch e.1.launch).scratch)
  let pre := total (rs.map fun e => if (s.launch e.1.launch).pre then (s.launch e.1.launch).scratch else 0)
  let tiles := total (rs.map fun e => (s.launch e.1.launch).tilePairs)
  let ready := s.dieOpen die && !(s.core die core).fenced && s.partOfDie die == l.part &&
    ((s.wanted die core).getD (b.launch, l.unitOf b.flat) == (b.launch, l.unitOf b.flat)) &&
    (match s.block? b with | none => true | some x => x.place == .image)
  if !ready || !l.scratchFits p used pre || 8 < tiles + l.tilePairs then none
  else
    match seatGroups l.valloc l.groupsPerBlock (s.quadUse die core) with
    | none => none
    | some (seats, _) =>
      let s := if s.coreFree die core then s.setP die core p else s
      let s : State :=
        match s.block? b with
        | some _ => s.resumeBlock b
        | none =>
          { s with
            blocks := aput b l.newBlock s.blocks
            groups := (List.range l.groupsPerBlock).foldl
              (fun gs i => aput (.grp b.launch b.flat i) (l.newGroup b.flat i) gs) s.groups }
      let s := { s with seq := s.seq + 1 }.modBlock b fun x => { x with place := .core die core, placedAt := s.seq, image := none }
      some ((s.seat b seats).requeueTraps b)

/-- Places blocks one after another on one core. -/
def State.placeAll (s : State) (die core : Nat) : List BId → Option State
  | [] => some s
  | b :: r =>
    match s.placeBlock b die core with
    | none => none
    | some s => s.placeAll die core r

/-- Places the blocks of a gang, k on each core, on the first cores of a list that have room (R329). -/
def State.placeGang (s : State) (die k : Nat) : Nat → List BId → List Nat → Option State
  | 0, bs, _ => if bs.isEmpty then some s else none
  | fuel + 1, bs, cs =>
    if bs.isEmpty then some s
    else
      match cs with
      | [] => none
      | c :: r =>
        match s.placeAll die c (bs.take k) with
        | some s => s.placeGang die k fuel (bs.drop k) r
        | none => s.placeGang die k fuel bs r

/-! ## Units -/

/-- The blocks of a unit. -/
def Launch.bidsOf (l : Launch) (key unit : Nat) : List BId := (l.blocksOf unit).map fun f => ⟨key, f⟩

/-- Places a unit of blocks: the given core in use, or the given neighbourhood for a gang (R20, R21, R327, R329). -/
def State.placeOn (s : State) (key unit die place : Nat) : Option State :=
  let l := s.launch key
  if l.hasGang then if place < 24 then s.placeGang die l.gangPer 8 (l.bidsOf key unit) (s.nbhd die place) else none
  else if place < coresInUse then s.placeAll die (s.physCore die place) (l.bidsOf key unit)
  else none

/-- A place of a die that has room for a unit: a core, or a neighbourhood. -/
def State.roomFor (s : State) (key unit die : Nat) : Option Nat :=
  (List.range (if (s.launch key).hasGang then 24 else coresInUse)).find? fun n => (s.placeOn key unit die n).isSome

/-! ## Whose turn it is to be placed (R330) -/

/-- A die without the pre-emptible blocks of launches of priority below p. -/
def State.cleared (s : State) (die p : Nat) : State :=
  { s with blocks := s.blocks.map fun e =>
      let l := s.launch e.1.launch
      let on := match e.2.place with | .core d _ => d == die | _ => false
      (e.1, if on && l.pre && decide (l.prio < p) then { e.2 with place := .image } else e.2) }

/-- A unit fits on a die, now or once pre-emptible units of lower priority have given way. -/
def State.couldFit (s : State) (key unit die : Nat) : Bool :=
  ((s.cleared die (s.launch key).prio).roomFor key unit die).isSome

/-- A unit of higher priority waits on the die and fits there, or will when others have given way (R330). -/
def State.outranked (s : State) (key die : Nat) : Bool :=
  s.launches.any fun e =>
    e.2.ended.isNone && decide ((s.launch key).prio < e.2.prio) &&
      match e.2.nextFor die with
      | none => false
      | some u => s.couldFit e.1 u die

/-- A core of the die is kept for a unit (R330). -/
def State.kept (s : State) (key unit die : Nat) : Bool := s.cores.any fun e => e.1 / 256 == die && e.2.want == some (key, unit)

/-- A unit of the same priority that has been pre-empted or killed waits on the die, and this one has not yet started; one for which
a core has been compacted does not wait for it (R330). -/
def State.behind (s : State) (key unit die : Nat) : Bool :=
  let l := s.launch key
  !l.again.contains unit && !s.kept key unit die && s.launches.any fun e =>
    e.2.ended.isNone && e.2.part == l.part && e.2.prio == l.prio && e.2.again.any fun u => (e.2.dieFor u).getD die == die

/-- No core is kept for a unit any longer. -/
def State.unwant (s : State) (key unit : Nat) : State :=
  { s with cores := s.cores.map fun e => (e.1, if e.2.want = some (key, unit) then { e.2 with want := none } else e.2) }

/-- The dispatcher of a die places the unit whose turn it is (R324, R327, R329, R330). -/
def State.placeUnit (s : State) (key unit die place : Nat) : Option State :=
  let l := s.launch key
  if l.ended.isSome || l.nextFor die != some unit || s.outranked key die || s.behind key unit die then none
  else
    (s.placeOn key unit die place).map fun s =>
      (s.unwant key unit).modLaunch key fun l =>
        { l with
          again := l.again.filter (· != unit)
          handed := l.handed.filter fun e => e.1 != unit
          held := (l.held.filter fun e => e.1 != unit) ++ [(unit, die)] }

/-! ## Switching out (R344, R345, R271, R292, R92, R95, R375) -/

/-- A handler is at work on a core (R374). -/
def Core.handled (c : Core) (but : Option Nat) : Bool :=
  (List.range 4).any fun q => some q != but && (c.quad q).active && !(c.quad q).traps.isEmpty

/-- A handler is at work on a core that holds one of the blocks, other than the one that asks (R375). -/
def State.handlerBusy (s : State) (bs : List BId) (but : Option GId := none) : Bool :=
  s.cores.any fun e =>
    (bs.any fun b => (s.block b).place == .core (e.1 / 256) (e.1 % 256)) &&
      e.2.handled (match but with
        | some (.hdl d c q) => if 256 * d + c = e.1 then some q else none
        | _ => none)

/-- What a switch does to the state of the blocks' groups: run-ahead ends, with cause 5 unless an end event has come before, the
matrix step in progress is abandoned and its pins go, waiting barriers, TAKEs and a PUBLISH in its first step are cancelled, tokens
and runs go (R95, R190, R292, R348). -/
def State.quiesce (s : State) (part : Nat) (bs : List BId) : State :=
  let mine := State.inBlocks bs
  let s := s.groups.foldl
    (fun s e =>
      if !mine e.1 then s
      else ((if e.2.ahead.isSome then s.endAhead e.1 5 else s).cancelPublish e.1).modBank e.1 Bank.cancel) s
  let s := (s.matq.filter fun m => mine m.g).foldl (fun s m => s.releasePins part m) s
  let stop (m : MEntry) : MEntry :=
    if mine m.g then { m with started := false, stripA := [], stripB := [], pins := [], lines := [] } else m
  { s with matq := s.matq.map stop }.dropIssue mine

/-- The same, and stopped groups leave the handlers' queues (R375). -/
def State.switchOut (s : State) (part : Nat) (bs : List BId) : State :=
  (s.quiesce part bs).untrap (State.inBlocks bs)

/-- The outgoing blocks of a unit leave their cores' banks (R344). -/
def State.preemptOut (s : State) (key unit : Nat) : State :=
  let l := s.launch key
  let bs := l.bidsOf key unit
  let s := s.switchOut l.part bs
  let s := { s with cur := none, pends := s.pends.filter fun p => !(p.launch == key && p.unit == unit) }
  bs.foldl
    (fun s b => s.modBlock b fun x => match x.place with
      | .core d c => { x with place := .leaving d c }
      | _ => x)
    s

/-- A unit is resident: each of its blocks is on a core (R329). -/
def State.resident (s : State) (key unit : Nat) : Bool :=
  ((s.launch key).bidsOf key unit).all fun b => (s.block b).at?.isSome

/-- The cores of a unit's blocks hold no outgoing context of an earlier switch (R344). -/
def State.bankFree (s : State) (key unit : Nat) : Bool :=
  ((s.launch key).bidsOf key unit).all fun b =>
    match (s.block b).place with
    | .core d c => (s.leaving d c).isEmpty
    | _ => true

/-- A pre-emption waits for the handlers on the unit's cores, a CKPT's for those other than the one that executes it (R375). -/
def State.pend (s : State) (key unit : Nat) (by_ : Option GId := none) : State :=
  if s.pends.any fun p => p.launch == key && p.unit == unit && p.by_ == by_ then s
  else { s with pends := s.pends ++ [{ launch := key, unit := unit, since := s.cycle, by_ := by_ }] }

/-- Pre-empts a unit of a pre-emptible launch: at once, or when the handlers at work on its cores have left (R330, R344, R345,
R375). -/
def State.preemptUnit (s : State) (key unit : Nat) : State :=
  let l := s.launch key
  if !l.pre || l.ended.isSome || !s.resident key unit || !s.bankFree key unit then s
  else if s.handlerBusy (l.bidsOf key unit) then s.pend key unit
  else s.preemptOut key unit

/-- The copies of a block have completed or are held (R183). -/
def State.copiesQuiet (s : State) (b : BId) : Bool := !s.copies.any fun x => x.bid == b && x.held.isNone

end Sys2Proof.Machine
end

