-- ==== Sys2Proof/Machine/Image.lean ====
section
/-! DEFINITION. Pre-emption images and checkpoints (R385, R386). -/

namespace Sys2Proof.Machine

/-- The low n bytes of a number, little-endian. -/
def leBytes (v : Nat) : Nat → List Byte
  | 0 => []
  | n + 1 => BitVec.ofNat 8 v :: leBytes (v / 256) n

/-- Doublewords as bytes. -/
def dwBytes (l : List Nat) : List Byte := l.flatMap fun v => leBytes v 8

/-- n bytes of a section that are the module's own, from byte `off` of an image (R385; log entry 30). -/
def ownBytes (k off n : Nat) : List Byte := (upFrom off n).map (Config.imageByte k)

/-- Zero bytes up to a multiple of 64. -/
def pad64 (l : List Byte) : List Byte := l ++ List.replicate (64 * ceilDiv l.length 64 - l.length) 0

/-- The header of a block's image (R385). The rule names seven values and no offsets: the model's choice is that they stand as
doublewords in its order, and that the last 8 bytes are the module's own (log entry 30). -/
def Launch.imageHeader (l : Launch) (k flat : Nat) : List Byte :=
  dwBytes [l.id, flat, l.groupsPerBlock, l.field 6 32 6, l.tiles, l.scratch, l.relaunchOf (l.unitOf flat)] ++ ownBytes k 56 8

/-- n bytes of a section that holds the given contents in a layout that is not given (R385; log entry 30). -/
def laidOut (sec n : Nat) (vals : List Nat) : List Byte := (List.range n).map (Config.imageLayout sec vals)

/-- The contents of a translation register (R63). -/
def XReg.words (x : XReg) : List Nat := [x.base64, x.frame, x.limit, x.perm]

/-- The contents of the PC slots and special registers. -/
def Grp.specials (r : Grp) : List Nat :=
  let slot (y : Slot) : List Nat := [y.pc.toNat, y.lanes.toNat]
  slot r.b.slotA ++ slot r.b.slotB ++
    [r.b.wb, r.b.rmode, r.b.stkbase.toNat, r.b.stklim.toNat, r.b.spilled, b01 r.priv, r.epc.toNat, r.ecause.toNat, r.edetail.toNat]

/-- The contents of the stack cache (R176). -/
def Grp.stackWords (r : Grp) : List Nat := r.b.stk.flatMap fun e => [b01 e.pending * 2 ^ 62 + va57 e.pc.toNat, e.lanes.toNat]

/-- The section of a group (R385). -/
def Grp.image (r : Grp) (k off : Nat) : List Byte :=
  dwBytes ((List.range 64).map fun n => (r.b.getS n).toNat) ++ dwBytes ((List.range 8).map fun n => (r.b.getM n).toNat) ++
    laidOut 0 256 ((List.range 8).flatMap fun n => (r.b.getX n).words) ++ laidOut 1 256 r.specials ++ laidOut 2 2048 r.stackWords ++
    ownBytes k off 448 ++ (List.range r.valloc).flatMap fun p => (List.range 64).flatMap fun l => leBytes (r.b.getP p l).toNat 4

/-- The contents of the pin table (R120). -/
def Block.pinWords (b : Block) : List Nat := b.pins.flatMap fun p => [p.space, p.seq, p.layer, p.head, p.page, p.frame, p.tpp]

/-- The copy counters and the status of a block's channels (R181, R182). -/
def Block.chanWords (b : Block) : List Nat :=
  (List.range 4).flatMap fun n =>
    let x := b.ch n
    [x.rdone, x.wptr, x.off, match x.err with | none => 0 | some e => classCode e.1 + 256 * e.2]

/-- The settings of a block's tiles and its QNT statistics (R278, R279). -/
def Block.tileWords (b : Block) : List Nat :=
  ((List.range 16).flatMap fun t =>
    let x := b.getTs t
    [x.thr.toNat, x.zcnt.toNat, x.tdst.toNat, x.tdctl.toNat, b01 x.split]) ++
  (List.range 4).flatMap fun q =>
    let y := b.getQs q
    [y.clip.toNat, y.total.toNat, y.under.toNat, y.max.toNat, b01 y.flags]

/-- The block registers (R385). -/
def Block.imageRegs (b : Block) (k off : Nat) : List Byte :=
  dwBytes ((List.range 8).map fun n => (b.getAl n).toNat) ++
    ((List.range 4).flatMap fun n => (List.range 64).map fun l => b.draft n l) ++ laidOut 3 128 b.pinWords ++
    laidOut 4 192 b.chanWords ++ laidOut 5 256 b.tileWords ++ ownBytes k off 128

/-- A tile: values, then counts (R385). -/
def Block.imageTile (b : Block) (t : Nat) : List Byte :=
  ((List.range 4096).flatMap fun e => leBytes (b.getT t (e / 64) (e % 64)).toNat 4) ++
    (List.range 4096).flatMap fun e => leBytes (b.getC t (e / 64) (e % 64)).toNat 2

/-- The image of a block (R385). -/
def State.image (s : State) (k : Nat) (b : BId) : List Byte :=
  let l := s.launch b.launch
  let x := s.block b
  l.imageHeader k b.flat ++
    ((List.range l.groupsPerBlock).flatMap fun i => (s.grp (.grp b.launch b.flat i)).image k (4096 * (i + 1))) ++
    x.imageRegs k 2048 ++ ((List.range l.tiles).flatMap x.imageTile) ++ bytesAt x.scratch 0 l.scratch

/-- A load of a block's groups has not landed yet (R36, R145). -/
def State.loading (s : State) (b : BId) : Bool := (s.groupsOf b).any fun e => e.2.b.loads

/-- The spill engine has written the images of a unit's blocks, once their loads have landed: the channels hold its copies no longer, and it waits to be
placed again, on any die when its own is fenced (R183, R330, R344, R385, R397). -/
def State.spillUnit (s : State) (key unit : Nat) : State :=
  let bs := (s.launch key).bidsOf key unit
  let out (b : BId) : Bool := match (s.block b).place with | .leaving _ _ => true | _ => false
  if !(bs.all fun b => out b && s.copiesQuiet b && !s.loading b) then s
  else
    let k := s.free
    let t := bs.foldl (fun s b => s.modBlock b fun x => { x with place := .image, image := some (k + b.flat) }) s
    let off (x : Copy) : Copy := if bs.contains x.bid then { x with active := false } else x
    State.modLaunch { t with free := k + (s.launch key).blocks, copies := t.copies.map off } key fun l =>
      { l with
        again := if l.again.contains unit then l.again else l.again ++ [unit]
        held := l.held.filter fun e => e.1 != unit || s.dieOpen e.2 }

/-- The CRC-32C of a list of bytes, from all ones and inverted at the end (R367, R386). -/
def crcOf (l : List Byte) : Nat :=
  l.foldl (fun r b => crcBits 8 (r ^^^ b.toNat)) 0xFFFFFFFF ^^^ 0xFFFFFFFF

/-- Addresses that follow one another. -/
def offsetsFrom : Nat → List (List Byte) → List Nat
  | _, [] => []
  | o, x :: r => o :: offsetsFrom (o + x.length) r

/-- The retired-unit bitmap (R325), bit n of the byte string for unit n. -/
def Launch.bitmap (l : Launch) : List Byte :=
  leBytes (total (l.retired.map fun u => 2 ^ u)) (ceilDiv l.units 8)

/-- A checkpoint from byte 8 on (R386). -/
def State.ckptBody (s : State) (k key gen : Nat) (bs : List BId) : List Byte :=
  let l := s.launch key
  -- a block that is out contributes its image as it stands, with the releases and replies that have reached it (R373, R382)
  let images := (bs.mergeSort fun a b => decide (a.flat ≤ b.flat)).map fun b => s.image ((s.block b).image.getD (k + b.flat)) b
  let fixed := 288 + 8 * images.length
  let map := l.bitmap ++ List.replicate (64 * ceilDiv (fixed + l.bitmap.length) 64 - (fixed + l.bitmap.length)) 0
  dwBytes [gen] ++ dwBytes (l.record.map (·.toNat)) ++ dwBytes [l.counter, images.length] ++
    dwBytes (offsetsFrom (fixed + map.length) images) ++ map ++ images.flatten

/-- Part of an area: a physical range within a page, and whether the page is replicated. -/
structure AreaPart where
  pa : Nat
  n : Nat
  repl : Bool
  deriving DecidableEq, Repr, Inhabited

/-- The outcome of translating an area. -/
inductive Area where
  | ok (l : List AreaPart) (s : State)
  /-- A page of it is not writable. -/
  | bad
  | wait (w : Wait)
  deriving DecidableEq, Repr, Inhabited

/-- Translates n bytes from va for write, at most `fuel` pages. -/
def areaOf (q : Req) : Nat → Nat → Nat → State → Area
  | 0, _, _, s => .ok [] s
  | fuel + 1, va, n, s =>
    if n = 0 then .ok [] s
    else
      match s.translateTlb q va .write with
      | .wait w => .wait w
      | .ok pa repl s =>
        let m := min n (65536 - va % 65536)
        match areaOf q fuel ((va + m) % 2 ^ 64) (n - m) s with
        | .ok l s => .ok ({ pa := pa, n := m, repl := repl } :: l) s
        | o => o
      | _ => .bad

/-- A part of an area can be written in full. -/
def State.writable (s : State) (part : Nat) (x : AreaPart) : Bool :=
  (List.range (ceilDiv (x.n + x.pa % 256) 256)).all fun i =>
    let a := x.pa / 256 * 256 + 256 * i
    let ok (a : Nat) : Bool := s.reach part a && !s.withheld.contains (a / 256)
    if x.repl then (s.part part).dies.all fun d => ok (replicaOf d a) else ok a

/-- Stores bytes from an address. -/
def storeEach (s : State) (q : Req) (repl : Bool) : Nat → List Byte → Acc
  | _, [] => .ok 0 s
  | pa, b :: r => (s.engineStore q pa 1 b.toNat repl).bind fun _ s => storeEach s q repl (pa + 1) r

/-- Stores bytes over an area in order. -/
def storeArea (s : State) (q : Req) : List AreaPart → List Byte → Acc
  | [], _ => .ok 0 s
  | x :: r, l => (storeEach s q x.repl x.pa (l.take x.n)).bind fun _ s => storeArea s q r (l.drop x.n)

/-- The blocks of a launch. -/
def State.blocksOf (s : State) (key : Nat) : List BId := (s.blocks.filter fun e => e.1.launch == key).map (·.1)

/-- Every resident block of a launch is pre-empted, its image settled (R386). -/
def State.ckptSettle (s : State) (key : Nat) : State :=
  let bs := s.blocksOf key
  let s := s.quiesce (s.launch key).part bs
  let cores := distinct (bs.filterMap fun b => (s.block b).copyCore)
  cores.foldl (fun s c => s.copiesSettle c.1 c.2) s

/-- What a checkpoint holds of the launch: its blocks as images, with their groups, matrix instructions and copies. -/
def State.ckptOf (s : State) (key : Nat) (bytes : List Byte) : Ckpt :=
  { bytes := bytes, launch := (key, s.launch key)
    blocks := (s.blocks.filter fun e => e.1.launch == key).map fun e => (e.1, { e.2 with place := .image })
    groups := s.groups.filter fun e => !isHdl e.1 && (bidOf e.1).launch == key
    matq := s.matq.filter fun m => !isHdl m.g && (bidOf m.g).launch == key
    copies := s.copies.filter fun x => x.bid.launch == key }

/-- The resident blocks of a launch are placed again, on the same cores: what the pre-emption cancelled executes again, and groups that
were stopped for a handler that was abandoned go to it again (R292, R348, R375, R386; log entry 30). -/
def State.ckptResume (s : State) (key : Nat) : State :=
  ((s.blocksOf key).filter fun b => (s.block b).at?.isSome).foldl (fun s b => (s.resumeBlock b).requeueTraps b) s

/-- Writes the checkpoint of a launch whose blocks are settled over an area from a virtual address: the seal last (R386). The value
is its size, 0 when it could not be written in full. -/
def State.putCkpt (s : State) (q : Req) (key gen va : Nat) : Acc :=
  let k := s.free
  let s := { s with free := k + (s.launch key).blocks }
  let body := s.ckptBody k key gen (s.blocksOf key)
  let n := 8 + body.length
  match areaOf q (n / 65536 + 2) va n s with
  | .wait w => .wait w
  | .bad => .ok 0 s
  | .ok l t =>
    if !(l.all fun x => t.writable q.part x) then .ok 0 s
    else
      let mark := dwBytes [crcOf body]
      match (storeArea t q l (List.replicate 8 0 ++ body)).bind fun _ t => storeArea t q l mark with
      | .ok _ t => .ok n { t with ckpts := t.ckpts ++ [t.ckptOf key (mark ++ body)] }
      | .abort t => .ok 0 t
      | .wait w => .wait w

/-- Pre-empts the launch, writes its checkpoint and places its blocks again (R386). -/
def State.writeCkpt (s : State) (q : Req) (key gen va : Nat) : Acc :=
  match (s.ckptSettle key).putCkpt q key gen va with
  | .ok n t => .ok n (t.ckptResume key)
  | .abort t => .abort (t.ckptResume key)
  | .wait w => .wait w

/-- A slot of a restored launch: an invalidation that it waited for is over, and a WAITC, whose monitor is gone, goes through its
translation and its condition anew (R101, R165; log entry 30). -/
def Slot.restored (x : Slot) : Slot :=
  match x.wait with
  | .inval _ => Slot.goesTo (x.pc + 4) x
  | _ => x.repoll

/-- A group of a restored launch: a record that parked it is gone with the launch that ended, so that it executes its
instruction again (log entry 30). -/
def Grp.restored (r : Grp) : Grp :=
  let r := { r with b := (r.b.modSlot .a Slot.restored).modSlot .b Slot.restored }
  match r.run with
  | .parked _ => r.resume
  | .brk _ => r.resume
  | _ => r

/-- The pins of a restored block's table count on their frames again (R120). -/
def State.repin (s : State) (part : Nat) (p : Pin) : State :=
  match (s.part part).frameEntry p.frame with
  | none => s
  | some pa =>
    let e := loadN s.mem pa 8
    s.unitWrite part pa 8 (fEntry (fRefs e) (fPins e + 1) (fState e))

/-- Puts back what a checkpoint holds: the launch with its identifiers, its blocks as images that wait to be placed, and what their
engines had still to do, which starts again at its recorded point (R386). -/
def State.restore (s : State) (part : Nat) (c : Ckpt) : State :=
  let l := c.launch.2
  let units := distinct (c.blocks.map fun e => l.unitOf e.1.flat)
  let l := { l with again := units ++ l.again.filter (fun u => !units.contains u), handed := [], held := []
                    lost := (l.handed.map (·.1)) ++ l.lost }
  let tags := c.groups.filterMap fun e => match e.2.run with | .syscall t _ => some t | _ => none
  let s : State := { s with
    launches := aput c.launch.1 l s.launches
    blocks := c.blocks.foldl
      (fun m e => aput e.1 { e.2 with shadows := e.2.shadows.filter fun h => h.closing.isNone } m) s.blocks
    groups := c.groups.foldl (fun m e => aput e.1 e.2.restored m) s.groups
    matq := s.matq ++ c.matq.map fun m => { m with held := none, kv := false, started := false }
    copies := s.copies ++ c.copies.map fun x => { x with held := none, active := false } }
  let s := (c.blocks.flatMap fun e => e.2.pins).foldl (fun s p => s.repin part p) s
  s.modPart part fun p => { p with calls := p.calls ++ tags }

/-- The Chandler reads n bytes at their home slices, those of the LPDDR tier through the Cooper (R9, R135); none where a line cannot
be read. -/
def State.readArea (s : State) (part pa n : Nat) : Option (List Byte × State) :=
  if isRemote pa then if s.reach part pa then some (bytesAt s.low pa n, s) else none
  else
    match accAll (fun k s => s.lineAccess part (256 * k) 0 true) (upFrom (pa / 256) (ceilDiv (pa % 256 + n) 256)) s with
    | .ok _ t => some (bytesAt t.mem pa n, t)
    | _ => none

/-- CHECKPOINT_RESTORE: the checkpoint at a physical address is restored when its seal matches, its generation is the one
requested, and its bytes are the module's own (R385, R386). -/
def execCheckpointRestore (part pa gen : Nat) (s : State) : Host.Outcome State Fault Refusal :=
  let ok (c : Ckpt) (b : List Byte) : Bool :=
    b == c.bytes && (b.drop 8).take 8 == dwBytes [gen] && b.take 8 == dwBytes [crcOf (b.drop 8)] &&
      c.launch.2.part == part && match s.launch? c.launch.1 with
        | none => true
        | some l => l.ended.isSome
  let found (c : Ckpt) : Option (Ckpt × State) :=
    match s.readArea part pa c.bytes.length with
    | some (b, t) => if ok c b then some (c, t) else none
    | none => none
  match s.ckpts.reverse.findSome? found with
  | none => .next { s with outbox := s.outbox ++ [.ckptDone false] }
  | some (c, s) => .next { s.restore part c with outbox := s.outbox ++ [.ckptDone true] }

end Sys2Proof.Machine
end

