-- ==== Sys2Proof/Machine/Priv.lean ====
section
/-! DEFINITION. The privileged instructions: ERET, GRD, GWR, GRES, GKILL, TQPOP, XSET, CKPT (R378 to R381, R386). -/

namespace Sys2Proof.Machine

/-! ## ERET -/

/-- ERET: the handler leaves, and the trapping group resumes (R378). Outside the handler there is none to leave. -/
def eretEffect (c : Ctx) (s : State) : Res :=
  match c.g with
  | .hdl d k q => .raw (s.returnTrap d k q)
  | .grp _ _ _ => .okEnd s

/-- ERET (R378). -/
def execEret (z : Bool) (s : State) := issue (descEret z) s eretEffect

/-! ## GRD and GWR (R379) -/

/-- A group is stopped: trapped, parked, or stopped by GRES (R379). -/
def Grp.stopped (r : Grp) : Bool :=
  match r.run with
  | .trapped => true
  | .parked _ => true
  | .brk _ => true
  | .syscall _ _ => true
  | .stopped => true
  | _ => false

/-- The fields of a selector (R379). -/
structure GSel where
  cls : Nat
  lane : Nat
  n : Nat
  deriving DecidableEq, Repr, Inhabited

/-- A valid selector of a target. -/
def gselOf (r : Grp) (v : Nat) : Option GSel :=
  let x : GSel := { cls := bits v 20 4, lane := bits v 12 6, n := bits v 0 12 }
  let limit := match x.cls with | 0 => 64 | 1 => r.valloc | 2 => 8 | 3 => 4 | _ => 0
  if 2 ^ 24 ≤ v || bits v 18 2 ≠ 0 || limit ≤ x.n || (x.cls ≠ 1 && x.lane ≠ 0) then none else some x

/-- The stopped target and the register that a selector names, or ILL with the selector (R379). -/
def gTarget (c : Ctx) (s : State) (v : W64) (k : GId → Grp → GSel → Res) : Res :=
  let bad : Res := .trap (flt1 .ill v.toNat)
  match s.grp? (s.target c) with
  | none => bad
  | some r =>
    if !r.stopped then bad
    else
      match gselOf r v.toNat with
      | none => bad
      | some x => k (s.target c) r x

/-- The slot of an index of class 3. -/
def gslot (n : Nat) : SlotId := if n < 2 then .a else .b

/-- What GRD reads (R379). -/
def Grp.gread (r : Grp) (x : GSel) : W64 :=
  match x.cls with
  | 0 => r.b.getS x.n
  | 1 => (r.b.getP x.n x.lane).setWidth 64
  | 2 => r.b.getM x.n
  | _ =>
    let y := r.b.slot (gslot x.n)
    if y.empty then 0 else if x.n % 2 = 0 then y.pc else y.lanes

/-- A slot given a pc: an empty one keeps it (R379). -/
def Slot.putPc (y : Slot) (v : W64) : Slot := { Slot.goesTo v y with gpc := v, waited := 0 }

/-- A slot given lanes: a nonzero mask occupies an empty slot at the pc last written for it; mask 0 empties it (R379). -/
def Slot.putLanes (y : Slot) (v : W64) : Slot :=
  if v = 0 then y.emptied
  else if y.empty then { Slot.goesTo y.gpc y with lanes := v, waited := 0 }
  else { y with lanes := v }

/-- What GWR writes; none for a pc that is not a canonical multiple of 4, or lanes shared with the other slot (R379). -/
def Bank.gwrite (b : Bank) (x : GSel) (v : W64) : Option Bank :=
  match x.cls with
  | 0 => some (b.setS x.n v)
  | 1 => some (b.setP x.n x.lane (v.setWidth 32))
  | 2 => some (b.setM x.n v)
  | _ =>
    let sl := gslot x.n
    if x.n % 2 = 0 then if jumpOk v then some (b.modSlot sl (·.putPc v)) else none
    else if v &&& (b.slot (otherSlot sl)).lanes = 0 then
      some { b.modSlot sl (·.putLanes v) with wins := if v = 0 then b.wins.filter (fun w => w.sl != sl) else b.wins }
    else none

/-- GRD (R379). -/
def grdEffect (c : Ctx) (s : State) (d : Nat) (v : W64) : Res :=
  gTarget c s v fun _ r x => .ok (s.modBank c.g fun b => b.setS d (r.gread x))

/-- GWR (R379). A slot whose pc is written, or which is emptied, no longer waits, and its monitors are cancelled; an emptied one no
longer keeps its group from arriving at a barrier (R347). -/
def gwrEffect (c : Ctx) (s : State) (v w : W64) : Res :=
  gTarget c s v fun t r x =>
    match r.b.gwrite x w with
    | none => .trap (flt1 .ill v.toNat)
    | some b =>
      let s := s.modBank t fun _ => b
      let s := if x.cls = 3 && (x.n % 2 == 0 || w == 0) then s.cancelMonitors t (some (gslot x.n)) else s
      .ok (if x.cls = 3 && x.n % 2 == 1 && w == 0 then s.barAfterExit t (gslot x.n) else s)

/-- GRD (R379). -/
def execGrd (z : Bool) (d a : BitVec 7) (s : State) :=
  issue (descGrd z d a) s fun c s => grdEffect c s d.toNat (c.b.getS a.toNat)
/-- GWR (R379). -/
def execGwr (z : Bool) (a b : BitVec 7) (s : State) :=
  issue (descGwr z a b) s fun c s => gwrEffect c s (c.b.getS a.toNat) (c.b.getS b.toNat)

/-! ## GRES and GKILL (R378) -/

/-- A group has a run in progress, perhaps stalled by an interlock. -/
def State.inRun (s : State) (g : GId) : Bool :=
  let w := s.whereIs g
  let q := s.quad w.1 w.2.1 w.2.2
  [q.cur, q.held].any fun r => match r with | some x => x.1 == g | none => false

/-- GRES 1: a running target stops at its next run boundary, with epc at its next instruction. A run-ahead ends as trap
entry ends it, and the group is parked (R95). -/
def State.gstop (s : State) (t : GId) : State :=
  let r := s.grp t
  if r.run ≠ .running then s
  else if r.ahead.isSome then s.endAhead t 5
  else if s.inRun t then s.modGrp t fun r => { r with run := .stopping }
  else
    let sl : SlotId := if r.b.slotA.empty then .b else .a
    s.modGrp t fun r => { r with run := .stopped, epc := (r.b.slot sl).pc, eslot := sl }

/-- GRES 0: a stopped target resumes at its epc; one that waits for the handler leaves its queue. -/
def State.gresume (s : State) (t : GId) : State :=
  let w := s.whereIs t
  let s := s.modQuad w.1 w.2.1 w.2.2 fun q =>
    { q with traps := match q.traps with
      | [] => []
      | h :: r => h :: r.filter (· != t) }
  s.modGrp t Grp.resume

/-- GRES (R378, R379). -/
def gresEffect (c : Ctx) (s : State) (v : W64) : Res :=
  let bad : Res := .trap (flt1 .ill v.toNat)
  let t := s.target c
  match s.grp? t with
  | none => bad
  | some r =>
    if v = 0 then if r.stopped then .ok (s.gresume t) else bad
    else if v = 1 then .ok (s.gstop t)
    else bad

/-- GKILL: kills the target's gang, and relaunches it in mode 0 (R331, R372, R378). -/
def gkillEffect (c : Ctx) (s : State) (v w : W64) : Res :=
  let t := s.target c
  if 1 < v.toNat then .trap (flt1 .ill v.toNat)
  else .raw (s.killGang t (w.toNat % 256) (v == 0) none (s.grp t).epc .abort)

/-- GRES (R378). -/
def execGres (z : Bool) (a : BitVec 7) (s : State) :=
  issue (descGres z a) s fun c s => gresEffect c s (c.b.getS a.toNat)
/-- GKILL (R378). -/
def execGkill (z : Bool) (a b : BitVec 7) (s : State) :=
  issue (descGkill z a b) s fun c s => gkillEffect c s (c.b.getS a.toNat) (c.b.getS b.toNat)

/-! ## TQPOP (R380) -/

/-- Stores doublewords of a group in ascending order. -/
def storeG (c : Ctx) (repl : Bool) : Nat → List W64 → State → Acc
  | _, [], s => .ok 0 s
  | pa, v :: r, s => (s.gStore c pa 8 v.toNat repl 0).bind fun _ s => storeG c repl (pa + 8) r s

/-- TQPOP function 0: copies the oldest unpopped record to memory and pops it. -/
def tqpopCopy (c : Ctx) (s : State) (d : Nat) (va : W64) : Res :=
  if va.toNat % 512 ≠ 0 then .trap (flt1 .align va.toNat)
  else
    match s.translateTlb c.q va.toNat .write with
    | .fault f => .trap f
    | .abort s => .aborted s
    | .wait w => .stay w s
    | .ok pa repl s =>
      match (s.part c.q.part).oldest with
      | none => outS c d 0 s
      | some e =>
        match storeG c repl pa (e.2.dws e.1) s with
        | .abort s => .aborted s
        | .wait w => .stay w s
        | .ok _ s => outS c d (recId e.1 e.2).toNat (s.modQueue c.q.part fun p => p.popped e.1 e.2)

/-- TQPOP (R380). -/
def tqpopEffect (c : Ctx) (s : State) (d : Nat) (va fn : W64) : Res :=
  if fn = 0 then tqpopCopy c s d va
  else if fn = 1 then
    let r := s.release c.q.part va true
    outS c d (b01 r.2) r.1
  else if fn = 2 then
    let r := s.release c.q.part va false
    outS c d (b01 r.2) r.1
  else .trap (flt1 .ill fn.toNat)

/-- TQPOP (R380). -/
def execTqpop (z : Bool) (d a b : BitVec 7) (s : State) :=
  issue (descTqpop z d a b) s fun c s => tqpopEffect c s d.toNat (c.b.getS a.toNat) (c.b.getS b.toNat)

/-! ## XSET (R381) -/

/-- What XSET and INVCTL name: kind 0 a virtual range, 1 a context, 2 an intermediate range, 3 the partition (R381). -/
def extentOf (kind asid pasid start len : Nat) : Extent :=
  match kind with
  | 0 => .virt asid pasid (va57 start) len
  | 1 => .ctx asid pasid
  | 2 => .ipa start len
  | _ => .all

/-- XSET: fetch is suspended until the invalidation completes (R381). -/
def xsetEffect (c : Ctx) (s : State) (start len k : W64) : Res :=
  if 4 ≤ k.toNat then .trap (flt1 .ill k.toNat)
  else if k.toNat % 2 = 0 && len.toNat % 65536 ≠ 0 then .trap (flt1 .ill len.toNat)
  else
    let q := s.reqOf (s.target c)
    let r := s.invalStart c.q.part (extentOf k.toNat q.asid q.pasid start.toNat len.toNat) (.group c.g c.sl)
    .stay (.inval r.2) r.1

/-- XSET (R381). -/
def execXset (z : Bool) (a b : BitVec 7) (s : State) :=
  issue (descXset z a b) s fun c s =>
    xsetEffect c s (c.b.getS a.toNat) (c.b.getS b.toNat) (c.b.getS (b.toNat + 1))

/-! ## CKPT (R386) -/

/-- The pre-emptions of a CKPT of a launch must wait: for a handler at work on its cores, or for a load of its groups (R36, R375). -/
def State.ckptBusy (s : State) (key : Nat) (g : GId) : Bool :=
  s.handlerBusy (s.blocksOf key) (some g) || (s.blocksOf key).any s.loading

/-- The units of a launch that are on cores. -/
def State.unitsOf (s : State) (key : Nat) : List Nat :=
  distinct ((s.blocksOf key).filterMap fun b => if (s.block b).at?.isSome then some ((s.launch key).unitOf b.flat) else none)

/-- What CKPT waits for: the Translation Request of a page of its area, or that it can go on (R83, R386). -/
def Wait.inCkpt (key d : Nat) : Wait → Wait
  | .ats page => .ckpt key d (some page)
  | _ => .ckpt key d Option.none

/-- CKPT (R386): ILL for a launch that is not pre-emptible; the area must start at a multiple of 64 KiB. Its pre-emptions wait for
the handlers at work on the launch's cores, but for the one that executes it, and for the groups' loads to land (R36, R375; log
entry 30). -/
def ckptEffect (c : Ctx) (s : State) (word d : Nat) (va gen : W64) : Res :=
  let key := c.bid.launch
  if !(s.launch key).pre then .trap (flt1 .ill word)
  else if va.toNat % 65536 ≠ 0 then .trap (flt1 .align va.toNat)
  else if s.ckptBusy key c.g then
    let busy (u : Nat) : Bool := s.handlerBusy ((s.launch key).bidsOf key u) (some c.g)
    .stay (.ckpt key d none) (((s.unitsOf key).filter busy).foldl (fun s u => s.pend key u (some c.g)) s)
  else
    match State.writeCkpt { s with pends := s.pends.filter fun p => p.launch != key } c.q key gen.toNat va.toNat with
    | .ok n s => outS c d n s
    | .abort s => .aborted s
    | .wait w => .stay (w.inCkpt key d) s

/-- CKPT (R386). -/
def execCkpt (z : Bool) (d a b : BitVec 7) (s : State) :=
  issue (descCkpt z d a b) s fun c s =>
    ckptEffect c s (descCkpt z d a b).word d.toNat (c.b.getS a.toNat) (c.b.getS b.toNat)

end Sys2Proof.Machine
end

