-- ==== Sys2Proof/Machine/Waits.lean ====
section
/-! DEFINITION. The events of translation, of waits and of the stack cache: walks that end, run-ahead that ends, ATS,
invalidations, frames and refills, condition monitors and polling, spills and fills, abort completions (R83, R90, R95,
R101 to R104, R114 to R116, R161 to R165, R177, R178, R307, R383, R387). -/

namespace Sys2Proof.Machine

/-! ## Translation -/

/-- A Translation Request for a page is on its way. -/
def State.asked (s : State) (q : Req) (page : Nat) : Bool := s.atsOut.contains (q.part, q.pasid, page)

/-- WALK_COMPLETE: the Translation Request that a slot waits for is no longer on its way, and its instruction goes on: it finds the
completion, or asks anew where another walk has used it or an invalidation has dropped it. Fetch of the group stays suspended
until its checks have passed (R83, R90). -/
def execWalkComplete (g : GId) (sl : SlotId) (s : State) : Host.Outcome State Fault Refusal :=
  let go (page : Nat) (w : Wait) : State :=
    if s.asked (s.reqOf g) page then s else s.modSlot g sl fun x => { x with wait := w, waited := 0 }
  match ((s.grp g).b.slot sl).wait with
  | .ats page => .next (go page .walked)
  | .fetch page => .next (go page .none)
  | _ => .next s

/-- RUN_AHEAD_END: run-ahead has met its first end event; the checkpoint is restored and the record posted (R95, R96). -/
def execRunAheadEnd (g : GId) (s : State) : Host.Outcome State Fault Refusal :=
  match (s.grp g).ahead with
  | none => .next s
  | some a =>
    match a.ended with
    | none => .next s
    | some c => .next (s.endAhead g c)

/-- Whether two translations of host pages meet: the page of 64 KiB of one lies in the other. -/
def Ats.on (a : Ats) (part pasid page : Nat) : Bool :=
  a.part == part && a.pasid == pasid && pageBase (65536 * page) a.size == pageBase a.va a.size

/-- ATS_TRANSLATION_COMPLETION: the translation of a host page arrives and answers the requests for it; it takes the place of an
earlier one that no walk has used. While an invalidation that covers it is in progress it is not kept, and what waited for it asks
anew (R83, R85, R101, R103). -/
def execAtsTranslationCompletion (part pasid va : Nat) (present rd w : Bool) (hpa : Nat) (size : PSize) (s : State) :
    Host.Outcome State Fault Refusal :=
  let a : Ats := { part := part, pasid := pasid, va := va57 va, present := present, rd := rd, w := w, hpa := hpa, size := size }
  let late := (s.part part).invs.any fun i => i.ext.coversAts a
  .next <| if !s.power then s else { s with
    ats := (s.ats.filter fun b => !(a.on b.part b.pasid (b.va / 65536) || b.on part pasid (va57 va / 65536))) ++
      if late then [] else [a]
    atsOut := s.atsOut.filter fun o => !a.on o.1 o.2.1 o.2.2 }

/-- The Invalidate Queue Depth that the module reports (R103). -/
def invalidateQueueDepth : Nat := 32

/-- The Invalidate Requests of the host's IOMMU that have not been answered. -/
def State.invalidateQueue (s : State) : Nat :=
  total (s.parts.map fun e => (e.2.invs.filter fun i => i.asker == .iommu).length)

/-- ATS_INVALIDATE_REQUEST: an invalidation over a pasid and a range starts; the module holds no more of them than it reports
(R103, R104). -/
def execAtsInvalidateRequest (part pasid start len : Nat) (s : State) : Host.Outcome State Fault Refusal :=
  .next (if invalidateQueueDepth ≤ s.invalidateQueue then s else (s.invalStart part (.ats pasid (va57 start) len) .iommu).1)

/-- Accesses of a partition beyond the package are on their way. -/
def State.partRemote (s : State) (part : Nat) : Bool := s.remote.any fun r => (s.reqOf r.g).part == part

/-- A block of a partition holds a staged write to which a covered translation led: an access that is still to be performed
(R101, R353). -/
def State.stagedUnder (s : State) (part : Nat) (x : Extent) : Bool :=
  s.blocks.any fun b =>
    (s.launch b.1.launch).part == part && !b.2.staged.isEmpty && b.2.stagedBy.any fun e => x.covers e.tag e.tr

/-- The frames that a published shadow has replaced go back to the pool, and the shadow closes (R188). -/
def State.closePublished (s : State) (part : Nat) (i : Inval) : State :=
  let s := s.modPart part fun p => { p with shadowPool := p.shadowPool ++ i.frames }
  match i.asker with
  | .group g _ =>
    if isHdl g then s
    else s.modBlock (bidOf g) fun b => { b with shadows := b.shadows.filter fun h => h.closing != some i.id }
  | _ => s

/-- The requester of an invalidation is answered (R101, R104, R381, R391). -/
def State.answerInval (s : State) (part : Nat) (i : Inval) : State :=
  match i.asker with
  | .chandler => s
  | .host => if (s.part part).invs.any fun x => x.asker == .host then s else s.modPart part fun p => { p with invctl := BitVec.ofNat 64 (p.invctl.toNat % 2 ^ 63) }
  | .iommu => { s with outbox := s.outbox ++ [.invalidated part] }
  | .group g sl => if ((s.grp g).b.slot sl).wait = .inval i.id then s.settle g sl id else s

/-- A WAITC that an invalidation has made go through its translation anew has not done so yet: its slot is ready to issue, and its
monitor still watches the old address. -/
def State.repolling (s : State) (m : Mon) : Bool :=
  let r := s.grp m.g
  r.run == .running && (isHdl m.g || (s.block (bidOf m.g)).at?.isSome) && (r.b.slot m.sl).wait == .none

/-- The monitors of WAITCs that will go through their translation anew when their group goes on are cancelled (R101). -/
def State.dropRepolled (s : State) (part : Nat) : State :=
  { s with monitors := s.monitors.filter fun m => !(s.groupPart m.g == part && ((s.grp m.g).b.slot m.sl).wait == .none) }

/-- An access that used a covered translation may still be to be performed: beyond the package, staged, a load held at a replica, or
a WAITC that still watches the old address (R101). -/
def State.invalBusy (s : State) (part : Nat) (x : Extent) : Bool :=
  s.partRemote part || s.stagedUnder part x || (s.groups.any fun e => s.groupPart e.1 == part && e.2.b.loads) ||
    s.monitors.any fun m => s.groupPart m.g == part && s.repolling m

/-- INVALIDATION_COMPLETE: every access that used a covered translation has been performed (R101), and what a PUBLISH has
replaced is given back (R188). -/
def execInvalidationComplete (part iid : Nat) (s : State) : Host.Outcome State Fault Refusal :=
  match (s.part part).invs.find? fun i => i.id == iid with
  | none => .next s
  | some i =>
    .next (if s.invalBusy part i.ext then s
      else
        (((s.dropRepolled part).modPart part fun p => { p with invs := p.invs.filter fun x => x.id != iid }).closePublished part i).answerInval
          part i)

/-- KV_INVALIDATION: the caches drop the entries of a sequence whose tables the Chandler has changed (R114). -/
def execKvInvalidation (part space seq : Nat) (s : State) : Host.Outcome State Fault Refusal :=
  .next (s.kvDrop part space seq)

/-! ## Frames (R115, R116) -/

/-- The Chandler may grant a frame: it lies in the pool and is free. -/
def State.grantable (s : State) (part frame : Nat) : Bool :=
  match (s.part part).frameEntry frame with
  | none => false
  | some pa => fState (loadN s.mem pa 8) == 0 && frame % 65536 == 0

/-- A granted frame: zeroed, and its entry says granted (R112, R116). -/
def State.grantFrame (s : State) (part frame : Nat) : State :=
  match (s.part part).frameEntry frame with
  | none => s
  | some pa => (s.zeroFrame part frame).unitWrite part pa 8 (fEntry 0 0 3)

/-- FRAME_GRANT: the frames enter the core's cache, and the refill is no longer outstanding (R116). -/
def execFrameGrant (die core : Nat) (frames : List Nat) (s : State) : Host.Outcome State Fault Refusal :=
  let part := s.partOfDie die
  let n := (s.core die core).frames.length
  if !(frames.all (s.grantable part)) || distinct frames ≠ frames || 16 < n + frames.length then .next s
  else
    let s := frames.foldl (fun s f => s.grantFrame part f) s
    let s := s.modCore die core fun k => { k with frames := k.frames ++ frames, refill := false, retryAt := none }
    .next (if 4 < n + frames.length then s
      else if frames.isEmpty then s.modCore die core fun k => { k with deferAt := some (s.cycle + 65536) }
      else s.postRefill die core)

/-- REFILL_RETRY: a core tries again to post its refill to a mailbox that was full (R116). -/
def execRefillRetry (die core : Nat) (s : State) : Host.Outcome State Fault Refusal :=
  match (s.core die core).retryAt with
  | none => .next s
  | some t => .next (if t ≤ s.cycle then s.postRefill die core else s)

/-- REFILL_DEFERRED: after an empty grant the core posts a new refill (R116). -/
def execRefillDeferred (die core : Nat) (s : State) : Host.Outcome State Fault Refusal :=
  match (s.core die core).deferAt with
  | none => .next s
  | some t => .next (if t ≤ s.cycle && !(s.core die core).refill then s.postRefill die core else s)

/-! ## Abort completions (R383, R387) -/

/-- The address at which a group stands. -/
def Grp.here (r : Grp) : W64 := if r.b.slotA.empty then r.b.slotB.pc else r.b.slotA.pc

/-- A group consumes an abort completion; inside the handler it is a fault of the handler (R375, R383). -/
def State.consumeAbort (s : State) (g : GId) : State :=
  match s.grp? g with
  | none => s
  | some r =>
    if r.run = .exited then s
    else if isHdl g then s.handlerFault g r.here .abort (causeWord .abort 0 none) 0
    else s.abortGroup g r.here

/-- The core of a group reports an error of its SRAM, register files, tiles or stack cache (R383, R387). -/
def State.sramError (s : State) (g : GId) : State :=
  let p := s.whereIs g
  s.interrupt (.sramError p.1 p.2.1)

/-- ABORT_COMPLETION: the group consumes it (R383, R387). -/
def execAbortCompletion (a : AbortOf) (s : State) : Host.Outcome State Fault Refusal :=
  .next ((if a.sram then s.sramError a.g else s).consumeAbort a.g)

/-- PEER_LINK_FAILURE: the group's oldest access to a peer ends with an abort completion, and a port that is down loses its
READY bit (R387, R392, R395). -/
def execPeerLinkFailure (f : LinkFailure) (s : State) : Host.Outcome State Fault Refusal :=
  let s : State := if f.down && decide (f.port < 24) then { s with ready := s.ready &&& ~~~BitVec.ofNat 64 (2 ^ (35 + f.port)) } else s
  match s.remote.find? fun r => r.g == f.g && r.dest != 0 with
  | none => .next s
  | some r => .next ({ s with remote := s.remote.erase r }.consumeAbort f.g)

/-- CXL_LINK_ERROR: the requests outstanding at the host link end with abort completions (R388, R387). -/
def execCxlLinkError (part : Nat) (s : State) : Host.Outcome State Fault Refusal :=
  let lost (r : Remote) : Bool := r.dest == 0 && (s.reqOf r.g).part == part
  let gs := distinct ((s.remote.filter lost).map (·.g))
  -- the host's own requests that are held are answered one by one, and one more stands for those on the link
  let mine (x : OutAcc) : Bool := x.host && x.part == part
  let s' : State := { s with
    remote := s.remote.filter fun r => !lost r
    outHeld := s.outHeld.filter fun x => !mine x
    outbox := s.outbox ++ (s.outHeld.filter mine).map (fun _ => .abort) ++ [.abort] }
  .next (gs.foldl (fun s g => s.consumeAbort g) s')

/-- REMOTE_ACCESS_RESPONSE: the group's oldest access beyond the package has been performed (R297, R309). -/
def execRemoteAccessResponse (g : GId) (s : State) : Host.Outcome State Fault Refusal :=
  match s.remote.find? fun r => r.g == g with
  | none => .next s
  | some r => .next ({ s with remote := s.remote.erase r }.remotePerform r)

/-! ## Loads held at a replica (R145) -/

/-- The context in which a load that has passed its checks lands: that of its slot, on the core that holds or is giving up the
group's block (R36, R344). -/
def State.landCtx (s : State) (g : GId) (sl : SlotId) : Ctx :=
  let c := s.ctx g sl
  match g with
  | .grp _ _ _ =>
    let at_ := (s.block c.bid).copyCore.getD (c.q.die, c.q.core)
    { c with q := { c.q with die := at_.1, core := at_.2 } }
  | .hdl _ _ _ => c

/-- One read of a held load, at the address that it was issued with. -/
def State.heldRead (s : State) (c : Ctx) (x : HeldLoad) (y : Nat × Nat × Bool) : Acc :=
  (s.load c.q y.2.1 x.n x.h).bind fun v s =>
    .ok (if c.ticketed then overlay (s.block c.bid).staged (stageKey y.2.2 y.2.1) v x.n else v) s

/-- What a held load writes, under the window base of its issue (R36, R174, R208). -/
def HeldLoad.write (x : HeldLoad) (vs : List (Nat × Nat)) : Bank → Bank :=
  Bank.under x.wb fun b =>
    if !x.vec then b.setS x.d (BitVec.ofNat 64 (laneVal vs 0))
    else
      let ls := x.lanes.map (·.1)
      match x.al with
      | none => b.setE x.d x.n ls (laneVal vs)
      | some (v, _) => b.setV x.d ls (symbolAt v vs (laneVal x.idx))

/-- A held load is served once no replica of its lines is held any more: its result is written whether or not its group executes
(R36, R145). -/
def State.landLoad (s : State) (g : GId) (sl : SlotId) (x : HeldLoad) : State :=
  let c := s.landCtx g sl
  match lanesDo (fun s y => s.heldRead c x y) (·.1) x.lanes s with
  | .wait _ => s
  | .aborted _ t => t.consumeAbort g
  | .done vs t =>
    let t := match x.al with
      | some (v, al) => t.flagCodes c v al vs
      | none => t
    t.settle g sl (x.write vs)

/-- The held load of a slot, if it has one, is served. -/
def State.landSlot (s : State) (g : GId) (sl : SlotId) : State :=
  match ((s.grp g).b.slot sl).wait with
  | .load x => s.landLoad g sl x
  | _ => s

/-! ## Condition monitors and polling (R161 to R165, R307) -/

/-- MONITOR_WAKE: a satisfied monitor's wake reaches its slot; one for a slot that no longer waits is dropped. A WAITC that is
to be issued again finds it then (R162, R165; log entry 9). -/
def execMonitorWake (g : GId) (sl : SlotId) (s : State) : Host.Outcome State Fault Refusal :=
  match s.wakes.find? fun w => w.g == g && w.sl == sl with
  | none => .next s
  | some w =>
    let x := (s.grp g).b.slot sl
    let t : State := { s with wakes := s.wakes.erase w }
    match x.wait with
    | .cond _ _ _ d _ _ _ _ => .next (t.settle g sl (waitcWrite d w.v true))
    | .none => .next (if x.pend.isEmpty then t else s)
    | _ => .next t

/-- A re-check of a waiter without a monitor: it ends with a value that meets the condition, or waits on, with a monitor
when `arm` allows one and one is free (R163, R307). -/
def State.recheck (s : State) (g : GId) (sl : SlotId) (pa : Nat) (k : WCond) (v : W64) (d : Nat) (dl : Option Nat)
    (remote : Bool) : State :=
  let q := s.reqOf g
  match s.watchRead q pa with
  | .abort s => s.consumeAbort g
  | .wait _ => s
  | .ok e s =>
    let e := BitVec.ofNat 64 e
    let on (s : State) (armed : Bool) : State :=
      s.modSlot g sl fun x => { x with wait := .cond pa k v d dl (s.cycle + 2048) armed remote }
    if condMet k e v then s.settle g sl (waitcWrite d e true)
    else if remote then on s false
    else
      match s.arm q g sl pa k v with
      | some s => on s true
      | none => on s false

/-- WAITC_POLL (R163). -/
def execWaitcPoll (g : GId) (sl : SlotId) (s : State) : Host.Outcome State Fault Refusal :=
  match ((s.grp g).b.slot sl).wait with
  | .cond pa k v d dl next false false => .next (if next ≤ s.cycle then s.recheck g sl pa k v d dl false else s)
  | _ => .next s

/-- WAITC_REMOTE_POLL (R307). -/
def execWaitcRemotePoll (g : GId) (sl : SlotId) (s : State) : Host.Outcome State Fault Refusal :=
  match ((s.grp g).b.slot sl).wait with
  | .cond pa k v d dl next false true => .next (if next ≤ s.cycle then s.recheck g sl pa k v d dl true else s)
  | _ => .next s

/-- WAITC_TIMEOUT: met when a satisfying write came first, else expired with the element read at the cancel (R164, R307). A
WAITC without a monitor returns expired even when that element meets the condition: R164 speaks of writes at a monitor only, and
this is the model's choice (log entry 57). -/
def execWaitcTimeout (g : GId) (sl : SlotId) (s : State) : Host.Outcome State Fault Refusal :=
  match ((s.grp g).b.slot sl).wait with
  | .cond pa _ _ d (some t) _ _ _ =>
    if s.cycle < t then .next s
    else
      match s.wakes.find? fun w => w.g == g && w.sl == sl with
      | some w => .next ((s.cancelMonitors g (some sl)).settle g sl (waitcWrite d w.v true))
      | none =>
        let s := s.cancelMonitors g (some sl)
        match s.watchRead (s.reqOf g) pa with
        | .abort s => .next (s.consumeAbort g)
        | .wait _ => .next s
        | .ok e s => .next (s.settle g sl (waitcWrite d (BitVec.ofNat 64 e) false))
  | _ => .next s

/-! ## The stack cache (R177, R178) -/

/-- A slot waits for a fill of the stack cache. -/
def Wait.isFill : Wait → Bool
  | .fill _ => true
  | _ => false

/-- A slot of a bank waits for a spill, or for a fill. -/
def Bank.waitsSpill (b : Bank) : Bool := b.slotA.wait == .spill || b.slotB.wait == .spill
def Bank.waitsFill (b : Bank) : Bool := b.slotA.wait.isFill || b.slotB.wait.isFill

/-- Spills entries until 64 remain; a fault stops the work and stays pending (R177, R178). -/
def State.spillMany (s : State) (g : GId) : Nat → State
  | 0 => s
  | n + 1 =>
    match s.spillOne g with
    | .ok s => s.spillMany g n
    | .fault f => s.modGrp g fun r => { r with stkFault := some f }
    | .abort s => s.consumeAbort g
    | .wait w => s.askAts (s.reqOf g) w

/-- Fills entries until the cache holds 48 or none are left (R177, R178). -/
def State.fillMany (s : State) (g : GId) : Nat → State
  | 0 => s
  | n + 1 =>
    match s.fillOne g with
    | .ok s => s.fillMany g n
    | .fault f => s.modGrp g fun r => { r with stkFault := some f }
    | .abort s => s.consumeAbort g
    | .wait w => s.askAts (s.reqOf g) w

/-- Background work on a group's stack is under way: the group executes, is on a core and in no run-ahead, and no fault is pending.
While it is stopped the work rests, so that a fault that a push or a pop has raised is not met again before the group goes on (R178;
log entry 12). -/
def State.stackLive (s : State) (g : GId) : Bool :=
  let r := s.grp g
  r.ahead.isNone && r.stkFault.isNone && (r.run == .running || r.run == .stopping) && (isHdl g || (s.block (bidOf g)).at?.isSome)

/-- A group's stack cache has entries to spill; while an EXIT that has discarded entries waits for a fill none is spilled (R177,
R335). -/
def State.spillDue (s : State) (g : GId) : Bool :=
  let b := (s.grp g).b
  s.stackLive g && !b.waitsFill && (decide (96 < b.stk.length) || (b.waitsSpill && decide (64 < b.stk.length)))

/-- A group's stack cache has entries to fill (R177). -/
def State.fillDue (s : State) (g : GId) : Bool :=
  let b := (s.grp g).b
  s.stackLive g && decide (0 < b.spilled) && (decide (b.stk.length < 16) || b.waitsFill)

/-- STACK_SPILL (R177). -/
def execStackSpill (g : GId) (s : State) : Host.Outcome State Fault Refusal :=
  .next (if s.spillDue g then s.spillMany g ((s.grp g).b.stk.length - 64) else s)

/-- STACK_FILL: until the cache holds 48; an EXIT that waits has discarded what it holds (R177, R335). -/
def execStackFill (g : GId) (s : State) : Host.Outcome State Fault Refusal :=
  .next (if s.fillDue g then s.fillMany g (if (s.grp g).b.waitsFill then 48 else 48 - (s.grp g).b.stk.length) else s)

end Sys2Proof.Machine
end

