-- ==== Sys2Proof/Machine/Fabric.lean ====
section
/-! DEFINITION. The receipt of a transfer over the fabric (R156, R160). -/

namespace Sys2Proof.Machine

/-- The unit that asked for a transfer receives an abort completion (R156, R383, R384): a group takes ABORT, a matrix instruction
and a copy end with it. -/
def State.abortTaker (s : State) (taker : Taker) : State :=
  match taker with
  | .l1 g => s.consumeAbort g
  | .tile n =>
    match s.matq.find? fun m => m.seq == n with
    | some m => s.matError (s.reqOf m.g).part m .abort 0 0
    | none => s
  | .copy n =>
    match s.copies.find? fun x => x.seq == n with
    | some x => s.copyError x .abort 0
    | none => s
  | .slice _ => s.answerAbort

/-- FLIT_TRANSFER_RECEIVE: a transfer in which one of the groups of 8 bytes fails its parity, or that is malformed, writes nothing,
is reported to the Chandler and ends its request with an abort completion; another delivers its block (R156, R160). -/
def execFlitTransferReceive (slice : Nat) (taker : Taker) (hdr : BitVec 16) (payload : List Byte) (badParity : List Nat)
    (s : State) : Host.Outcome State Fault Refusal :=
  match if badParity.isEmpty then receiveBlock hdr.toNat payload else none with
  | some b => .next { s with outbox := s.outbox ++ [.block b] }
  | none => .next ((s.interrupt (.fabricError slice taker)).abortTaker taker)

end Sys2Proof.Machine
end

