-- ==== Sys2Proof/Machine/Caches.lean ====
section
/-! DEFINITION. The events of the memory side: the Cooper, L2 and L1 lines, update-only copies, replicas, and the accesses of
peers and of the host (R133, R138 to R146, R150, R151, R166, R167, R304, R388, R390, R392, R398). -/

namespace Sys2Proof.Machine

/-! ## The Cooper (R139 to R143) -/

/-- A request reaches the Cooper: it is served at once, or waits behind the fill of its index (R139, R140, R142). -/
def State.coopRequest (s : State) (part pa sym : Nat) (wb : Bool) : State :=
  let p := s.coopPos part pa
  let r : CoopReq := { slot := p.slot, pa := pa, wb := wb, sym := sym }
  if s.coopBusy p then s.modDie p.die fun d => { d with coopReqs := d.coopReqs ++ [r] } else s.coopWaited part r false

/-- COOPER_FILL_REQUEST: an L2 fill reaches the Cooper: a hit, a miss whose fill starts, or an abort completion; behind a
fill of its index it waits (R138 to R140, R142). -/
def execCooperFillRequest (pa sym : Nat) (s : State) : Host.Outcome State Fault Refusal :=
  match region pa with
  | .lpddr _ _ =>
    let part := s.ownerOf pa
    .next (if s.reach part pa then s.coopRequest part pa sym false else s.answerAbort)
  | _ => .next s

/-- COOPER_WRITEBACK_REQUEST: a dirty sector of an L2 line is written back; behind a fill of its index it waits (R139, R140,
R151). -/
def execCooperWritebackRequest (pa : Nat) (s : State) : Host.Outcome State Fault Refusal :=
  match region pa with
  | .lpddr _ _ =>
    let part := s.ownerOf pa
    match (s.die (s.coopPos part pa).die).l2Find (pa / 256) with
    | none => .next s
    | some l => .next (if l.dirty.testBit (pa / 64 % 4) then s.coopRequest part pa 0 true else s)
  | _ => .next s

/-- COOPER_LPDDR_FILL_DONE: a sector's fill completes, and the requests that waited for the index are served (R140). -/
def execCooperLpddrFillDone (die slot : Nat) (s : State) : Host.Outcome State Fault Refusal :=
  match (s.die die).coopFills.find? fun f => f.slot == slot with
  | none => .next s
  | some f =>
    let part := s.partOfDie die
    let r := (s.coopFillDone part die slot f.sector).coopTake die slot
    .next (r.1.coopServeWaited part die slot r.2)

/-- COOPER_LPDDR_WRITE_DONE: the writes of a slot to LPDDR are performed (R140). -/
def execCooperLpddrWriteDone (die slot : Nat) (s : State) : Host.Outcome State Fault Refusal :=
  .next (s.coopWritesDone die fun w => w.slot == slot)

/-- The number of the LPDDR sector that a slot holds under a tag (R137). -/
def State.sectorOf (s : State) (part die slot tag : Nat) : Nat :=
  let ds := (s.part part).dies
  tag * s.coopSectors part + slot * ds.length + (ds.findIdx? (· == die)).getD 0

/-- A slot drops its sector: what LPDDR holds is what its lines read below the L2 (R139, R142). -/
def State.sectorDrop (s : State) (die slot : Nat) : State :=
  let part := s.partOfDie die
  let a := sectorAddr (s.sectorOf part die slot (s.sector die slot).tag)
  let s := s.coopWritesDone die fun w => w.slot == slot
  let s := { s with low := mcopy s.lpd s.low a 2048 }.setSector die slot {}
  (List.range 8).foldl (fun s k => s.lineFromBelow part (a / 256 + k)) s

/-- COOPER_INDEX_RELEASE: the Chandler releases a blocked index, with the sector in its reset state (R142, R143). -/
def execCooperIndexRelease (die slot : Nat) (s : State) : Host.Outcome State Fault Refusal :=
  if (s.die die).blocked.contains slot then
    .next ((s.sectorDrop die slot).modDie die fun d =>
      { d with blocked := d.blocked.filter (· != slot), coopDamage := d.coopDamage.filter fun e => e.1 / 32 != slot })
  else .next s

/-- COOPER_READY: every carve-out sector has been written with reset state, and the ready bit is posted, once (R143, R395). -/
def execCooperReady (s : State) : Host.Outcome State Fault Refusal :=
  if !s.readyBit 0 || s.readyBit 34 then .next s
  else
    .next { s with
      dies := s.dies.map fun e =>
        (e.1, { e.2 with cooper := [], blocked := [], coopWrites := [], coopFills := [], coopReqs := [], coopDamage := [] })
      ready := s.ready ||| BitVec.ofNat 64 (2 ^ 34) }

/-! ## L2 and L1 lines (R150, R151, R153) -/

/-- L2_FILL_REQUEST: a unit's request reaches the home slice: a hit, whose line is sent, or a whole-line fill for which it waits
(R150, R155, R167, R383). -/
def execL2FillRequest (req : FillReq) (h : BitVec 2) (s : State) : Host.Outcome State Fault Refusal :=
  let pa := req.pa
  let part := s.ownerOf pa
  let line := pa / 256
  if isRemote pa then .next s
  else if !s.reach part pa || s.withheld.contains line then .next (s.abortTaker req.taker)
  else
    let s := s.recallUpdates part line
    let die := s.homeDie part pa
    .next (if ((s.die die).l2Find line).isSome then (s.modDie die fun d => d.l2Touch line h.toNat).sendLine part req.taker pa
      else s.modDie die fun d =>
        { d with l2Fills := d.l2Fills ++ [{ line := line, hint := h.toNat, taker := req.taker, pa := pa }] })

/-- A request that waited for the fill of its line is served (R150, R383). -/
def State.serveFill (s : State) (part : Nat) (f : L2Fill) : State :=
  match s.l2Ensure part f.pa f.hint with
  | .ok _ s => s.sendLine part f.taker f.pa
  | .abort s => s.abortTaker f.taker
  | .wait _ => s

/-- The fill of a line reads its burst at an address with a number of wrong symbols: an error that cannot be corrected withholds
the line (R138, R383). -/
def State.fillSym (s : State) (part pa sym : Nat) : State :=
  match region pa with
  | .hbm d _ =>
    let r := s.burstRead false part d pa sym
    if r.2 then State.interrupt { r.1 with withheld := r.1.withheld ++ [pa / 256] } (.memoryError (pa / 256)) else r.1
  | _ => s

/-- L2_FILL_DONE: a line arrives at its home slice, and the requests that waited for it are served; an uncorrectable error
withholds it, and they end with abort completions (R138, R150, R383). -/
def execL2FillDone (pa sym : Nat) (s : State) : Host.Outcome State Fault Refusal :=
  let part := s.ownerOf pa
  let die := s.homeDie part pa
  let line := pa / 256
  let fs := (s.die die).l2Fills.filter fun f => f.line == line
  if fs.isEmpty then .next s
  else
    let s := s.modDie die fun d => { d with l2Fills := d.l2Fills.filter fun f => f.line != line }
    let s := if ((s.die die).l2Find line).isSome then s else s.fillSym part pa sym
    .next (fs.foldl (fun s f => s.serveFill part f) s)

/-- L1_WRITEBACK: the dirty bytes of an L1 line are merged into the home slice's line; a write-back without any is not
sent (R151). -/
def execL1Writeback (die core line : Nat) (s : State) : Host.Outcome State Fault Refusal :=
  match (s.core die core).l1Find line with
  | none => .next s
  | some l =>
    .next ((s.l1Merge (s.partOfDie die) line l.mask).modCore die core fun c =>
      c.l1Mod line fun l => some { l with mask := 0 })

/-- UPDATE_COPY_RECALL: the home combines the copies of a line in ascending die order (R167). -/
def execUpdateCopyRecall (line : Nat) (s : State) : Host.Outcome State Fault Refusal :=
  .next (s.recallUpdates (s.ownerOf (256 * line)) line)

/-- The Chandler reads the damaged lines of a row: what can be corrected is copied, and a line that cannot is withheld and reported
(R138, R383, R398). -/
def State.readRow (s : State) (pa n : Nat) : State :=
  let ls := match region pa with
    | .hbm d off => distinct (((s.die d).damage.filter fun (e : Nat × Nat) => meets (64 * e.1) 64 off n).map fun (e : Nat × Nat) => e.1 / 4)
    | _ => []
  let base := 256 * (pa / 2 ^ 38 * 2 ^ 30)
  ls.foldl
    (fun s l => if s.withheld.contains ((base + 256 * l) / 256) then s else (s.fillCheck (s.ownerOf pa) (base + 256 * l)).state s) s

/-- HBM_ROW_SPARE: a row's readable data is copied; its withheld lines are rewritten, 256 bytes each in ascending order, as far as
bytes are given, and are withheld no longer; the spare's bursts are sound (R383, R398). -/
def execHbmRowSpare (pa n : Nat) (fix : List Byte) (s : State) : Host.Outcome State Fault Refusal :=
  let s := s.readRow pa n
  let ls := ((s.withheld.filter fun l => meets (256 * l) 256 pa n).mergeSort fun a b => decide (a ≤ b)).take (ceilDiv fix.length 256)
  let put (s : State) (i : Nat) : State :=
    let a := 256 * ls.getD i 0
    let b := (List.range 256).map fun j => fix.getD (256 * i + j) 0
    let s := s.dropCopies a 256
    { s with mem := storeBytes s.mem a b, l2m := storeBytes s.l2m a b, low := storeBytes s.low a b }.mend a 256
  let s := ((List.range ls.length).foldl put s).mend pa n
  .next { s with withheld := s.withheld.filter fun l => !ls.contains l }

/-! ## Replicated pages (R144 to R146) -/

/-- An access size of 1, 2, 4 or 8 bytes, aligned (R389, R22). -/
def sizeOk (pa n : Nat) : Bool := (n == 1 || n == 2 || n == 4 || n == 8) && pa % n == 0

/-- REPLICATED_STORE: a store takes its place in the sequencer's order and is sent to every replica (R145). -/
def execReplicatedStore (part pa n : Nat) (v : BitVec 64) (s : State) : Host.Outcome State Fault Refusal :=
  if !sizeOk pa n then .next s
  else if !(s.part part).dies.all fun d => s.reach part (replicaOf d pa) then .next s.answerAbort
  else
    .next (State.modPart { s with seq := s.seq + 1 } part fun p =>
      { p with repl := p.repl ++ [{ rid := s.seq, off := pa % 2 ^ 38, n := n, v := v.setWidth 512 }] })

/-- A die has acknowledged the stores that the sequencer has placed before one. -/
def ackedBefore (rid die : Nat) : List RStore → Bool
  | [] => true
  | r :: l => if r.rid = rid then true else r.acks.contains die && ackedBefore rid die l

/-- REPLICA_ACK: a replica's home slice acknowledges an update, in the sequencer's order; the last acknowledgement brings
the commit (R145). -/
def execReplicaAck (part rid die : Nat) (s : State) : Host.Outcome State Fault Refusal :=
  match (s.part part).repl.find? fun r => r.rid == rid with
  | none => .next s
  | some r =>
    if !(s.part part).dies.contains die || r.acks.contains die || !ackedBefore rid die (s.part part).repl then .next s
    else
      let r := { r with acks := r.acks ++ [die] }
      if (s.part part).dies.all r.acks.contains then .next (s.replicaEnd part r)
      else .next (s.modPart part fun p => { p with repl := p.repl.map fun x => if x.rid = rid then r else x })

/-- The nonzero entries of a table of a number of bytes. -/
def State.entriesIn (s : State) (table n : Nat) : List Nat :=
  let ks := distinct ((s.mem.filter fun e => decide (table ≤ e.1 ∧ e.1 < table + n)).map fun e => (e.1 - table) / 8)
  ks.map fun k => loadN s.mem (table + 8 * k) 8

/-- The replicated leaves of stage 2 from a table at a level down: frame and size (R80, R81). -/
def State.replLeaves (s : State) : Nat → Nat → List (Nat × Nat)
  | level, table =>
    (s.entriesIn table (tableBytes level)).flatMap fun e =>
      if !bit e 0 || malformed 2 level false e then []
      else if bit e 1 then if bits e 6 2 = 1 then [(entryAddr e, PSizeBytes (leafSize level))] else []
      else
        match level with
        | 0 => []
        | l + 1 => s.replLeaves l (entryAddr e)

/-- A physical address lies in a frame of a replicated page: one in the HBM window of a die of the partition (R133, R144). -/
def State.replicated (s : State) (part pa : Nat) : Bool :=
  s.replFrame part pa && (s.replLeaves 3 (s.part part).s2root).any fun f =>
    s.replFrame part f.1 && decide (f.1 % 2 ^ 38 ≤ pa % 2 ^ 38) && decide (pa % 2 ^ 38 < f.1 % 2 ^ 38 + f.2)

/-! ## Peers and the host (R304, R388, R390, R392) -/

/-- A load of n bytes of a line at its home slice by a peer, in parts of 64 bytes (R150, R294, R298). -/
def State.lineLoad (s : State) (part pa n : Nat) : Acc :=
  (accAll (fun k s => s.homeLoad part (64 * k) 1) (upFrom (pa / 64) (ceilDiv (pa % 64 + n) 64)) s).bind fun _ s =>
    .ok (loadN s.mem pa n) s

/-- A read-modify-write at the home slice (R301, R303). -/
def State.homeRmw (s : State) (part pa n : Nat) (f : Nat → Option Nat) : Acc :=
  (s.homeLoad part pa n).bind fun old s =>
    match f old with
    | none => .ok old s
    | some v => .ok old (s.homeWrite part pa n v)

/-- An access from outside at the home slice of its address: a store to a replicated frame passes through the sequencer
(R146, R294, R301 to R304). -/
def State.outPerform (s : State) (x : OutAcc) : Acc :=
  let v := x.v.toNat
  match x.op with
  | .load => if x.n ≤ 64 then s.homeLoad x.part x.pa x.n else s.lineLoad x.part x.pa x.n
  | .store => if s.replicated x.part x.pa then s.replicaStore x.part x.pa x.n v else s.homeStore x.part x.pa x.n v 0
  | .atom o => s.homeRmw x.part x.pa x.n fun old => some (aluOp o (8 * x.n) old v)
  | .red o => s.homeRed x.part x.pa x.n o v
  | .cas => s.homeRmw x.part x.pa x.n fun old => if old = v then some x.v2.toNat else none

/-- What answers an access from outside: its value, as bytes for accesses wider than a register. -/
def OutAcc.answer (x : OutAcc) (v : Nat) : Answer :=
  if x.wide then .data (leBytes v x.n) else .value x.n (BitVec.ofNat 64 v)

/-- Answers an access from outside with its value, or with an abort completion; none while it must wait (R145). -/
def OutAcc.finish (x : OutAcc) (a : Acc) : Option State :=
  match a with
  | .ok v s => some { s with outbox := s.outbox ++ [x.answer v] }
  | .abort s => some s.answerAbort
  | .wait _ => none

/-- An access from outside is performed, or is held at a replica until the commit of a store (R145). -/
def State.outAccess (s : State) (x : OutAcc) : State :=
  (x.finish (s.outPerform x)).getD { s with outHeld := s.outHeld ++ [x] }

/-- A held access from outside is performed once the store is committed (R145). -/
def State.outRetry (s : State) (x : OutAcc) : State :=
  (x.finish (s.outPerform x)).elim s fun t => { t with outHeld := t.outHeld.erase x }

/-- A peer's access has a size that its operation can have: a load any bytes of one line, as for a read-only copy of the line, a store
of 1 to 8 bytes of one 64-byte line, an atomic or a reduction an element (R22, R150, R298, R304). -/
def peerSize (op : PeerOp) (pa n : Nat) : Bool :=
  match op with
  | .load => decide (n ≠ 0) && decide (pa % (if n ≤ 64 then 64 else 256) + n ≤ if n ≤ 64 then 64 else 256)
  | .store => decide (n ≠ 0) && decide (n ≤ 8) && decide (pa % 64 + n ≤ 64)
  | _ => sizeOk pa n

/-- PEER_ACCESS_ARRIVAL: a peer's access is performed at the home slice: for CAS v is the comparand and v2 the new value. It may
load this module's registers (R132, R304, R392; log entry 21). -/
def execPeerAccessArrival (op : PeerOp) (pa n : Nat) (v v2 : BitVec 64) (s : State) : Host.Outcome State Fault Refusal :=
  let x : OutAcc := { op := op, part := s.ownerOf pa, pa := pa, n := n, v := v.setWidth 512, v2 := v2, wide := decide (8 < n) }
  if isReg pa then .next ((x.finish (if op = .load then s.regLoad .peer pa n else .abort s)).getD s)
  else if isRemote pa || !peerSize op pa n then .next s.answerAbort
  else .next (s.outAccess x)

/-- CXL_MEM_ACCESS: the host loads or stores bytes of a 64-byte line of a partition's HBM at the home slice; a store to a replicated
frame passes through the sequencer (R146, R388). Bytes that lie in no one line are no access of CXL.mem (log entry 21). -/
def execCxlMemAccess (part : Nat) (store : Bool) (pa n : Nat) (v : BitVec 512) (s : State) :
    Host.Outcome State Fault Refusal :=
  let hbm := match region pa with | .hbm _ _ => true | _ => false
  if n = 0 || decide (64 < pa % 64 + n) then .next s
  else if !s.readyBit 1 || !hbm then .next s.answerAbort
  else .next (s.outAccess { op := if store then .store else .load, part := part, pa := pa, n := n, v := v, v2 := 0, host := true, wide := true })

/-- The slots that watch the line of an address in the flag window: group, slot. -/
def State.watchers (s : State) (part pa : Nat) : List (GId × SlotId) :=
  let hit (w : Wait) : Bool :=
    match w with
    | .cond p _ _ _ _ _ _ true => p / 64 == pa / 64
    | _ => false
  s.groups.flatMap fun e =>
    if (s.reqOf e.1).part ≠ part then []
    else (if hit e.2.b.slotA.wait then [(e.1, SlotId.a)] else []) ++ if hit e.2.b.slotB.wait then [(e.1, SlotId.b)] else []

/-- A watcher re-reads its element and ends its wait when the condition is met (R390). -/
def State.reread (s : State) (g : GId) (sl : SlotId) : State :=
  match ((s.grp g).b.slot sl).wait with
  | .cond pa k v d _ _ _ true =>
    let e := BitVec.ofNat 64 (loadN s.low pa 8)
    if condMet k e v then s.settle g sl (waitcWrite d e true) else s
  | _ => s

/-- CXL_CACHE_INVALIDATION: a host write to the flag window invalidates the module's copy and wakes the WAITCs on it, which
re-read the line (R390). -/
def execCxlCacheInvalidation (part pa n : Nat) (v : BitVec 64) (s : State) : Host.Outcome State Fault Refusal :=
  if !s.inFlagWindow part pa || !sizeOk pa n then .next s
  else
    let s := State.l2Drop { s with low := storeN s.low pa v.toNat n } (s.homeDie part pa) (pa / 256)
    .next ((s.watchers part pa).foldl (fun s w => s.reread w.1 w.2) s)

end Sys2Proof.Machine
end

