-- ==== Sys2Proof/Machine/Illegal.lean ====
section
/-! DEFINITION. A fetched word that is no instruction (R38, R39, R26, R41). -/

namespace Sys2Proof.Machine

/-- ILLEGAL_INSTRUCTION_WORD: ILL at the word's address, with the word as detail (R41); in run-ahead a fault other than
XLATE, which ends it (R95). -/
def execIllegalInstructionWord (word : BitVec 32) (s : State) : Host.Outcome State Fault Refusal :=
  match s.issuing with
  | none => .next s
  | some c => .next (if c.grp.ahead.isSome then s.aheadEnd c 4 else s.fail c (flt1 .ill word.toNat))

end Sys2Proof.Machine
end

