-- ==== Sys2Proof/Machine/Lane.lean ====
section
/-! DEFINITION. The LANE family: the Weaver, reductions over lanes, symbols in registers, alphabet registers (R205, R214 to R216,
R253 to R255). -/

namespace Sys2Proof.Machine

/-! ## The Weaver (R215 to R217) -/

/-- What output lane l receives under a draft (R216). -/
def weaveLane (b : Bank) (k : Block) (n a l : Nat) : W32 :=
  let e := (k.draft n l).toNat
  if bit e 7 then 0 else b.getV (a + bits e 6 1) (bits e 0 6)

/-- WEAVE (R216): every source is read before any write. -/
def execWeave (z : Bool) (d a : BitVec 7) (n : BitVec 2) (s : State) :=
  issue (descWeave z d a n) s fun c s =>
    .ok (s.modBank c.g fun b => b.setV d.toNat c.lanes fun l => weaveLane c.b (s.block c.bid) n.toNat a.toNat l)

/-- WDRAFT (R216). -/
def wdraftEffect (c : Ctx) (s : State) (n a : Nat) : Res :=
  match (List.range 64).find? fun l => decide (256 ≤ (c.b.getV a l).toNat) with
  | some l => .trap { cls := .ill, lane := some l, detail := BitVec.ofNat 64 (l * 2 ^ 32 + (c.b.getV a l).toNat) }
  | none =>
    .ok (s.modBlock c.bid fun k => (List.range 64).foldl (fun k l => k.setDraft n l ((c.b.getV a l).setWidth 8)) k)

/-- WDRAFT (R216). -/
def execWdraft (z : Bool) (n : BitVec 2) (a : BitVec 7) (s : State) :=
  issue (descWdraft z n a) s fun c s => wdraftEffect c s n.toNat a.toNat

/-- SHFL (R216). -/
def execShfl (z : Bool) (d a b : BitVec 7) (s : State) :=
  issueBank (descShfl z d a b) s fun c k =>
    k.setV d.toNat c.lanes fun l =>
      let i := (k.getV b.toNat l).toNat
      if i < 64 then k.getV a.toNat i else 0

/-! ## Reductions (R253 to R255) -/

/-- Leaf l of the tree: an inactive lane contributes the identity (R254). -/
def leaf (int : Bool) (c : Ctx) (a l : Nat) : W32 :=
  if c.slot.lanes.toNat.testBit l then c.b.getV a l else if int then 0 else 0x80000000

/-- One addition of a node. -/
def nodeAdd (int : Bool) (x y : W32) : W32 := if int then x + y else fadd x y

/-- Node N(k, j) of the fixed tree (R254). -/
def node (int : Bool) (f : Nat → W32) : Nat → Nat → W32
  | 0, j => f j
  | k + 1, j => nodeAdd int (node int f k (2 * j)) (node int f k (2 * j + 1))

/-- RSUM, RMIN and RMAX write zero-extended, sign-extended for i32 (R253). -/
def widen (t : Nat) (x : W32) : W64 := if t = 1 then x.signExtend 64 else x.setWidth 64

/-- RSUM (R254). -/
def execRsum (z : Bool) (d a : BitVec 7) (t : BitVec 1) (s : State) :=
  issueBank (descRsum z d a t) s fun c k =>
    k.setS d.toNat (widen t.toNat (node (t == 1) (leaf (t == 1) c a.toNat) 6 0))

/-- The sum of lanes base to l from the nodes of the set bits of n, from bit k down (R255). -/
def scanFrom (int : Bool) (f : Nat → W32) (n : Nat) : Nat → Nat → Option W32 → W32
  | 0, _, acc => acc.getD 0
  | k + 1, base, acc =>
    if n.testBit k then
      let x := node int f k (base / 2 ^ k)
      scanFrom int f n k (base + 2 ^ k) (some (match acc with | none => x | some y => nodeAdd int y x))
    else scanFrom int f n k base acc

/-- The NaN that SCAN of f32 writes is canonical in lane 0 too (R230). -/
def scanNan (int : Bool) (x : W32) : W32 := if !int && isNaN x then 0x7FC00000 else x

/-- SCAN (R255). -/
def execScan (z : Bool) (d a : BitVec 7) (t : BitVec 1) (s : State) :=
  issueBank (descScan z d a t) s fun c k =>
    k.setV d.toNat c.lanes fun l => scanNan (t == 1) (scanFrom (t == 1) (leaf (t == 1) c a.toNat) (l + 1) 7 0 none)

/-- x lies strictly before y in the order of a type: 0 f32 by the min-max order, 1 i32, 2 n32 (R232, R253). -/
def before (t : Nat) (max : Bool) (x y : W32) : Bool :=
  let lt (p q : W32) : Bool := match t with
    | 0 => mmLt p q
    | 1 => p.slt q
    | _ => p.ult q
  if max then lt y x else lt x y

/-- The index and value of the smallest or largest active element; of a NaN its first index and the canonical NaN (R232,
R253). -/
def extreme (t : Nat) (max : Bool) (c : Ctx) (a : Nat) : Nat × W32 :=
  let v (l : Nat) : W32 := c.b.getV a l
  match if t = 0 then c.lanes.find? fun l => isNaN (v l) else none with
  | some l => (l, 0x7FC00000)
  | none =>
    match c.lanes with
    | [] => (0, 0)
    | l :: r => r.foldl (fun m l => if before t max (v l) m.2 then (l, v l) else m) (l, v l)

/-- RMIN and RMAX. -/
def execRmin (z : Bool) (d a : BitVec 7) (t : BitVec 2) (s : State) :=
  issueBank (descRmin z d a t) s fun c k => k.setS d.toNat (widen t.toNat (extreme t.toNat false c a.toNat).2)
/-- RMAX (R253). -/
def execRmax (z : Bool) (d a : BitVec 7) (t : BitVec 2) (s : State) :=
  issueBank (descRmax z d a t) s fun c k => k.setS d.toNat (widen t.toNat (extreme t.toNat true c a.toNat).2)

/-- Index × 2^32 + value (R253). -/
def argWord (x : Nat × W32) : W64 := BitVec.ofNat 64 (x.1 * 2 ^ 32 + x.2.toNat)

/-- ARGMIN (R253). -/
def execArgmin (z : Bool) (d a : BitVec 7) (t : BitVec 2) (s : State) :=
  issueBank (descArgmin z d a t) s fun c k => k.setS d.toNat (argWord (extreme t.toNat false c a.toNat))
/-- ARGMAX (R253). -/
def execArgmax (z : Bool) (d a : BitVec 7) (t : BitVec 2) (s : State) :=
  issueBank (descArgmax z d a t) s fun c k => k.setS d.toNat (argWord (extreme t.toNat true c a.toNat))

/-! ## PKX and PKI (R214)

A 64-bit container in an odd register is found by the checks of R41 (`Desc.resolve`). -/

/-- The container of a lane: a lane, or a lane of a pair for 64 bits, low width bits (R214). -/
def regCode (b : Bank) (al : W64) (n l : Nat) : Nat :=
  if alWidth al = 64 then (b.getV2 n l).toNat else (b.getV n l).toNat % 2 ^ alWidth al

/-- The first fault of PKX and PKI over the active lanes (R214). -/
def pkCheck (c : Ctx) (al : W64) (g cn pn : Nat) (sym : Option Nat) : Option FaultRec :=
  c.lanes.findSome? fun l =>
    let p := (c.b.getV pn l).toNat
    let bad := match sym with
      | some n => !symOk al (sext 32 (c.b.getV n l).toNat)
      | none => false
    if alGroup al ≤ p then some (codeFault 2 g l 0)
    else if bad then some (codeFault 1 g l 0)
    else if badCode al (regCode c.b al cn l) && !alSubst al then some (codeFault 0 g l 0)
    else none

/-- An invalid code of an active lane sets the alphabet's sticky flag (R50, R58). -/
def pkFlag (c : Ctx) (s : State) (al : W64) (g cn : Nat) : State :=
  if c.lanes.any fun l => badCode al (regCode c.b al cn l) then s.modBlock c.bid fun k => k.flagAl g else s

/-- PKX (R214). -/
def pkxEffect (c : Ctx) (s : State) (d a g : Nat) : Res :=
  let al := (s.block c.bid).getAl g
  match pkCheck c al g a d none with
  | some f => .trap f
  | none =>
    .ok ((pkFlag c s al g a).modBank c.g fun k => k.setV d c.lanes fun l =>
      BitVec.ofInt 32 (((codeOf al (regCode c.b al a l)).getD []).getD (c.b.getV d l).toNat 0))

/-- PKI (R214). -/
def pkiEffect (c : Ctx) (s : State) (d a g : Nat) : Res :=
  let al := (s.block c.bid).getAl g
  match pkCheck c al g d (a + 1) (some a) with
  | some f => .trap f
  | none =>
    let v (l : Nat) : Nat :=
      (repack al (regCode c.b al d l) (c.b.getV (a + 1) l).toNat (sext 32 (c.b.getV a l).toNat)).getD 0
    .ok ((pkFlag c s al g d).modBank c.g fun k =>
      if alWidth al = 64 then k.setV2 d c.lanes fun l => BitVec.ofNat 64 (v l)
      else k.setV d c.lanes fun l => BitVec.ofNat 32 (v l))

/-- PKX (R214). -/
def execPkx (z : Bool) (d a : BitVec 7) (g : BitVec 3) (s : State) :=
  issue (descPkx z d a g) s fun c s => pkxEffect c s d.toNat a.toNat g.toNat
/-- PKI (R214). -/
def execPki (z : Bool) (d a : BitVec 7) (g : BitVec 3) (s : State) :=
  issue (descPki z d a g) s fun c s => pkiEffect c s d.toNat a.toNat g.toNat

/-! ## ALSET and ALGET (R205, R206) -/

/-- ALSET (R205): it waits for the packed accesses of the block that have issued and not completed. -/
def alsetEffect (c : Ctx) (s : State) (g : Nat) (v : W64) : Res :=
  if !alValid v then .trap (flt1 .ill v.toNat)
  else if s.packedBusy c.bid c.g c.sl then .stay .packed s
  else .ok (s.modBlock c.bid fun k => k.setAl g v)

/-- ALSET (R205). -/
def execAlset (z : Bool) (g : BitVec 3) (a : BitVec 7) (s : State) :=
  issue (descAlset z g a) s fun c s => alsetEffect c s g.toNat (c.b.getS a.toNat)

/-- ALGET (R205). -/
def execAlget (z : Bool) (d : BitVec 7) (g : BitVec 3) (s : State) :=
  issue (descAlget z d g) s fun c s => .ok (s.modBank c.g fun k => k.setS d.toNat ((s.block c.bid).getAl g.toNat))

end Sys2Proof.Machine
end

