-- ==== Sys2Proof/Machine/Launches.lean ====
section
/-! DEFINITION. The events of launches: records that start or are refused, ranges of units, placing, pre-empting, retiring,
the Miller's releases, the next run of a quadrant, the entry of the on-core handler (R317 to R331, R340 to R344, R353 to
R358, R374, R375, R377, R422). -/

namespace Sys2Proof.Machine

/-! ## The tests of a record (R317 to R319) -/

/-- A canonical address that is a multiple of n. -/
def addrOk (v : W64) (n : Nat) : Bool := canonical v.toNat && v.toNat % n == 0

/-- A byte of bind, for level n from 2. -/
def Launch.bindOf (l : Launch) (n : Nat) : Nat := l.field 7 (8 * (n - 2)) 8

/-- The bound levels. -/
def Launch.bound (l : Launch) : List Nat := upFrom 2 (l.nlevels - 2)

/-- R317: reserved fields, the grade, ranges (reason 1). -/
def Launch.fieldsOk (l : Launch) : Bool :=
  let dw (n : Nat) : W64 := l.record.getD n 0
  let zero (n lo k : Nat) : Bool := l.field n lo k == 0
  addrOk (dw 0) 256 && addrOk (dw 1) 4 && (dw 3).toNat % 64 == 0 && zero 5 52 12 && zero 5 36 4 && zero 5 24 6 &&
    zero 5 4 12 && l.grade != 3 && decide (2 ≤ l.nlevels) && decide (l.nlevels ≤ 8) && zero 6 45 19 && zero 6 38 2 &&
    zero 6 28 4 && zero 6 20 4 && decide (l.tiles ≤ 16) && decide (1 ≤ l.field 6 32 6) && decide (l.field 6 32 6 ≤ 32) &&
    l.scratch % 256 == 0 && decide (l.scratch ≤ 720896) && zero 7 48 16 &&
    (if l.bound.any fun n => l.domainOf n == 1 then decide (1 ≤ l.gspread) && decide (l.gspread ≤ 8) else l.gspread == 0) &&
    ((upFrom 2 6).all fun n =>
      if n < l.nlevels then bits (l.bindOf n) 2 3 == 0 && decide (1 ≤ l.scopeOf n) && decide (l.scopeOf n ≤ 6)
      else l.bindOf n == 0) &&
    zero 11 32 32 && addrOk (dw 12) 64 && zero 13 32 32 && l.field 13 0 32 % 64 == 0 &&
    ((upFrom 14 8).all fun n => dw n == 0 || alValid (dw n)) && (upFrom 22 10).all fun n => dw n == 0

/-- R318: the levels (reason 3). -/
def Launch.levelsOk (l : Launch) : Bool :=
  let d := l.domainOf
  let count (k : Nat) : Nat := (l.bound.filter fun n => d n == k).length
  let used := upFrom 1 (l.nlevels - 1)
  (l.nlevels == 2 || (d 2 == 0 && decide (1 ≤ l.ext 1) && decide (l.ext 1 ≤ 16))) &&
    ((l.bound.zip l.bound.tail).all fun p => decide (d p.1 ≤ d p.2)) && decide (count 0 ≤ 1) && decide (count 1 ≤ 1) &&
    ((l.bound.filter fun n => d n == 1).all fun n =>
      n == 3 && decide (1 ≤ l.ext 2) && decide (l.ext 2 ≤ 8) && l.ext 2 % l.gspread == 0) &&
    (l.bound.all fun n => decide (d n + 1 ≤ l.scopeOf n) && decide (l.scopeOf n ≤ 6)) &&
    (used.all fun n => decide (1 ≤ l.ext n)) && decide (64 * (used.map l.ext).foldl (· * ·) 1 ≤ 2 ^ 40)

/-- A context descriptor is usable (R79). -/
def ctxOk (d : List Nat) : Bool :=
  bit (d.getD 0 0) 0 && bits (d.getD 0 0) 52 12 == 0 && bits (d.getD 0 0) 1 7 == 0 && bits (d.getD 1 0) 60 4 == 0 &&
    bits (d.getD 1 0) 16 23 == 0 && d.getD 2 0 == 0 && d.getD 3 0 == 0

/-- Reads n doublewords at the home slices. -/
def State.hubRead (s : State) (part pa : Nat) : Nat → Option (List Nat × State)
  | 0 => some ([], s)
  | n + 1 =>
    match s.engineLoad { g := .grp 0 0 0, die := 8, core := 0, part := part } pa 8 with
    | .ok v s =>
      match s.hubRead part (pa + 8) n with
      | some (l, s) => some (v :: l, s)
      | none => none
    | _ => none

/-- The context descriptor of a launch (R78, R79). -/
def State.ctxRead (s : State) (l : Launch) : Option (List Nat × State) :=
  s.hubRead l.part ((s.part l.part).ctxTable + 32 * l.ctxNo) 4

/-- The launch with what its descriptor gives. -/
def Launch.withCtx (l : Launch) (d : List Nat) : Launch :=
  { l with root := bits (d.getD 0 0) 8 44 * 256, pasid := bits (d.getD 1 0) 40 20, hosten := bit (d.getD 1 0) 39
           asid := bits (d.getD 1 0) 0 16 }

/-- What the read of the shared range of a launch answers. -/
inductive Shared where
  | ok (base len : Nat) (s : State)
  /-- It cannot be read, or is no range of whole pages. -/
  | bad
  /-- It waits for a Translation Completion. -/
  | wait (w : Wait)
  deriving DecidableEq, Repr, Inhabited

/-- Reads a doubleword of a launch's memory by the hub and goes on. -/
def State.hubDw (s : State) (q : Req) (va : Nat) (k : Nat → State → Shared) : Shared :=
  match s.hubTranslate q (va % 2 ^ 64) .read with
  | .ok pa repl s =>
    match s.engineLoad q (loadAddr q repl pa) 8 with
    | .ok v s => k v s
    | .abort _ => .bad
    | .wait w => .wait w
  | .wait w => .wait w
  | _ => .bad

/-- The shared range of a token launch, read from its parameter block (R359). -/
def State.sharedRange (s : State) (l : Launch) (key : Nat) : Shared :=
  let va := (l.record.getD 2 0).toNat
  s.hubDw (l.req key) va fun b s => s.hubDw (l.req key) (va + 8) fun n s =>
    if b % 65536 = 0 && n % 65536 = 0 then .ok b n s else .bad

/-- A unit fits on empty cores (R319): the blocks of a gang on each of its cores, or one block. -/
def Launch.fitsSomewhere (l : Launch) : Bool := l.fitsEmpty (if l.hasGang then l.gangPer else 1)

/-- The reason for which a record is refused, the lowest that holds, and the launch with its descriptor and shared range
(R319); or what the read of the shared range waits for. `prio` is the priority of the launch that posted it. -/
def State.admitLaunch (s : State) (l : Launch) (key : Nat) (prio : Option Nat) : Except Wait (Option Nat × Launch × State) :=
  let ctx := match s.ctxRead l with
    | some (d, t) => if ctxOk d then some (l.withCtx d, t) else none
    | none => none
  let l1 := match ctx with | some x => x.1 | none => { l with noctx := true }
  let s := match ctx with | some x => x.2 | none => s
  let reason (bad : Bool) (l : Launch) : Option Nat :=
    if !l.fieldsOk || bad then some 1
    else if ctx.isNone then some 2
    else if !l.levelsOk then some 3
    else if !l.fitsSomewhere then some 4
    else if l.pre && decide (360448 < l.scratch) then some 5
    else
      match prio with
      | some p => if p < l.prio then some 6 else none
      | none => none
  match if l.grade = 2 && ctx.isSome then s.sharedRange l1 key else .ok 0 0 s with
  | .wait w => .error w
  | .bad => .ok (reason true l1, l1, s)
  | .ok b n s => .ok (reason false l1, { l1 with shBase := b, shLen := n }, s)

/-! ## LAUNCH_RECORD_START (R321) -/

/-- A record at the head of a queue: queue number, doublewords. -/
structure Head where
  q : Nat
  record : List W64
  deriving DecidableEq, Repr, Inhabited

/-- The head of a host queue; one that cannot be read blocks its queue (log entry 36). -/
def State.hostHead (s : State) (part q : Nat) : Option Head :=
  let x := mget {} (s.part part).lq q
  let n := x.size.toNat
  if n = 0 || x.head = x.tail then none
  else
    match s.hubRead part (x.base.toNat + 256 * (x.head.toNat % n)) 32 with
    | some (l, _) => some { q := q, record := l.map (BitVec.ofNat 64) }
    | none => none

/-- The heads of a partition's queues, the device queue as number 16. -/
def State.heads (s : State) (part : Nat) : List Head :=
  ((List.range 16).filterMap (s.hostHead part)) ++
    match (s.part part).devq with
    | [] => []
    | d :: _ => [{ q := 16, record := d.record }]

/-- The priority of a head. -/
def Head.prio (h : Head) : Nat := bits (h.record.getD 5 0).toNat 34 2

/-- The head that starts first: the highest priority, then round-robin after the queue that started last (R321). -/
def firstHead (rr : Nat) (hs : List Head) : Option Head :=
  let p := hs.foldl (fun m h => max m h.prio) 0
  (List.range 17).findSome? fun i => hs.find? fun h => h.q == (rr + 1 + i) % 17 && h.prio == p

/-- The partition may start a record: its hub and every die are ready, no machine check stands, and fewer than 256 launches
run (R321, R395, R422). -/
def State.mayStart (s : State) (part : Nat) : Bool :=
  let p := s.part part
  !p.halted && s.readyBit 1 && !p.dies.isEmpty && (p.dies.all s.dieReady) &&
    decide ((s.launches.filter fun e => e.2.part == part && e.2.ended.isNone).length < 256)

/-- Takes the head from its queue. -/
def Part.takeHead (p : Part) (q : Nat) : Part :=
  if q = 16 then { p with devq := p.devq.drop 1, rr := 16 }
  else
    let x := mget {} p.lq q
    { p with lq := mset {} p.lq q { x with head := BitVec.ofNat 64 ((x.head.toNat + 1) % x.size.toNat) }, rr := q }

/-- A record that the tests have passed on or refused leaves its queue: its launch starts, or ends as refused with a completion
record (R319 to R321). -/
def State.startRecord (s : State) (part : Nat) (h : Head) (dev : Option DevRec) (id : Nat) (reason : Option Nat)
    (l : Launch) : State :=
  let s := s.modPart part fun p => p.takeHead h.q
  match reason with
  | some reason =>
    -- a refused record from a host queue has launchid 0 and takes none (R320)
    let key := if dev.isSome then launchKey part id else launchKey part (2 ^ 64 + s.seq)
    let l := { l with id := if dev.isSome then id else 0, ended := some { status := 2, reason := reason } }
    { s with seq := s.seq + 1, launches := aput key l s.launches }.writeCompletion key
  | none =>
    let l := { l with
      leader := ((s.part part).dies.find? s.dieReady).getD 0
      everHeld := if l.grade = 2 then [0] else [] }
    let s := if dev.isSome then s else s.modPart part fun p => { p with nextLaunch := id + 1 }
    { s with launches := aput (launchKey part id) l s.launches }

/-- LAUNCH_RECORD_START: the queue engine starts the first record, or refuses it with a completion record; one whose parameter
block lies in a host page waits for its translation (R319 to R321). -/
def execLaunchRecordStart (part : Nat) (s : State) : Host.Outcome State Fault Refusal :=
  let p := s.part part
  match if s.mayStart part then firstHead p.rr (s.heads part) else none with
  | none => .next s
  | some h =>
    let dev := if h.q = 16 then p.devq.head? else none
    let id := match dev with | some d => d.id | none => p.nextLaunch
    let l : Launch := { part := part, id := id, record := h.record }
    let key := launchKey part id
    match s.admitLaunch l key (dev.map (·.prio)) with
    | .error w => .next (s.askAts { l.req key with pasid := match s.ctxRead l with
        | some (d, _) => (l.withCtx d).pasid
        | none => 0 } w)
    | .ok (reason, l, t) => .next (t.startRecord part h dev id reason l)

/-- LAUNCH_CANCEL: the launch ends with status 4 (R320). -/
def execLaunchCancel (launch : Nat) (s : State) : Host.Outcome State Fault Refusal :=
  .next (s.endLaunch launch { status := 4, reason := 0 })

/-- MACHINE_CHECK_CLEAR: the partition's queues start records again (R422). -/
def execMachineCheckClear (part : Nat) (s : State) : Host.Outcome State Fault Refusal :=
  .next (s.modPart part fun p => { p with halted := false })

/-! ## Ranges (R324, R326) -/

/-- The units that the leader hands out next: those that a lost die had, then those beyond the counter; a whole unit of
the lowest die-bound level where one exists (R324, R326). -/
def Launch.range (l : Launch) : List Nat :=
  let n := if l.dieUnits = 0 then 16 else l.dieUnits
  match l.lost with
  | [] => upFrom l.counter (min n (l.units - l.counter))
  | u :: _ => (l.lost.filter fun v => l.dieUnits == 0 || v / l.dieUnits == u / l.dieUnits).take n

/-- DISPATCH_RANGE_HANDOUT: the leader hands a dispatcher that has room a range (R324). -/
def execDispatchRangeHandout (launch die : Nat) (s : State) : Host.Outcome State Fault Refusal :=
  let l := s.launch launch
  let us := l.range
  match us with
  | [] => .next s
  | u :: _ =>
    if l.ended.isSome || (s.launch? launch).isNone || !(s.part l.part).dies.contains die || !s.dieOpen die ||
        (l.dieFor u).getD die != die || (s.roomFor launch u die).isNone then .next s
    else
      .next (s.modLaunch launch fun l =>
        { l with
          counter := if l.lost.isEmpty then l.counter + us.length else l.counter
          lost := l.lost.filter fun v => !us.contains v
          handed := l.handed ++ us.map fun v => (v, die) })

/-- DISPATCH_RANGE_SPLIT: the leader takes back the last n units that a die has not begun to place and hands them to
another that has room; a unit of a die-bound level stays whole (R324). -/
def execDispatchRangeSplit (launch die dst n : Nat) (s : State) : Host.Outcome State Fault Refusal :=
  let l := s.launch launch
  let mine := (l.handed.filter fun e => e.2 == die).map (·.1)
  let us := mine.drop (mine.length - n)
  let kept := (mine.take (mine.length - n)) ++ (l.held.filter fun e => e.2 == die).map (·.1)
  let whole := l.dieUnits == 0 || us.all fun u => kept.all fun v => u / l.dieUnits != v / l.dieUnits
  let room := match us with | [] => false | u :: _ => (s.roomFor launch u dst).isSome
  if l.ended.isSome || dst = die || !(s.part l.part).dies.contains dst || !s.dieOpen dst || !whole || !room then .next s
  else
    .next (s.modLaunch launch fun l =>
      { l with handed := (l.handed.filter fun e => !us.contains e.1) ++ us.map fun u => (u, dst) })

/-- The units that a new leader hands out, in ascending order (R326). -/
def Launch.lose (l : Launch) (us : List Nat) : Launch :=
  { l with
    again := l.again.filter fun u => !us.contains u
    lost := (distinct (l.lost ++ us)).mergeSort fun a b => decide (a ≤ b) }

/-- A die is lost to a launch: the units on it are killed and relaunched, and handed out again in ascending order with those that it
had not begun to place (R326, R331). -/
def State.dieLost (s : State) (key die : Nat) : State :=
  let l := s.launch key
  if l.ended.isSome then s
  else
    let back := (l.handed.filter fun e => e.2 == die).map (·.1)
    let dead := (l.held.filter fun e => e.2 == die).map (·.1)
    let s := s.modLaunch key fun l => { l with handed := l.handed.filter fun e => e.2 != die }
    let s := dead.foldl
      (fun s u =>
        if (s.launch key).ended.isSome then s
        else s.killGang (.grp key (u * l.gangSize) 0) 11 true none 0 .abort (src := 3)) s
    if (s.launch key).ended.isSome then s else s.modLaunch key fun l => l.lose (back ++ dead)

/-- The lowest unit that has not retired. -/
def Launch.lowestUnit (l : Launch) : Option Nat := (List.range l.units).find? fun u => !l.retired.contains u

/-- A new leader: its Miller serves the lowest unit that has not retired (R326, R358). -/
def Launch.newLeader (l : Launch) (die : Nat) : Launch :=
  { l with leader := die, miller := match l.lowestUnit with | some u => u * l.gangSize | none => l.miller }

/-- LEADER_ELECTION: the leader's die is lost; the ready die of lowest number leads (R324, R326). -/
def execLeaderElection (launch lost : Nat) (s : State) : Host.Outcome State Fault Refusal :=
  let l := s.launch launch
  if (s.launch? launch).isNone || l.ended.isSome || s.dieReady lost then .next s
  else
    let s := s.dieLost launch lost
    match (s.part l.part).dies.find? s.dieReady with
    | none => .next s
    | some d => .next (if l.leader = lost then s.modLaunch launch fun l => l.newLeader d else s)

/-! ## Placing, pre-empting, retiring -/

/-- BLOCK_PLACE: a dispatcher places a block on a core (R327, R330). -/
def execBlockPlace (launch unit die core : Nat) (s : State) : Host.Outcome State Fault Refusal :=
  if (s.launch launch).hasGang then .next s else .next ((s.placeUnit launch unit die core).getD s)

/-- GANG_PLACE: a dispatcher places a gang in a neighbourhood (R329, R330). -/
def execGangPlace (launch unit die nbhd : Nat) (s : State) : Host.Outcome State Fault Refusal :=
  if (s.launch launch).hasGang then .next ((s.placeUnit launch unit die nbhd).getD s) else .next s

/-- PREEMPT: the blocks of a unit are switched out (R330, R344, R345). -/
def execPreempt (launch unit : Nat) (s : State) : Host.Outcome State Fault Refusal := .next (s.preemptUnit launch unit)

/-- PREEMPT_SPILL: the outgoing blocks' images are written (R183, R344). -/
def execPreemptSpill (launch unit : Nat) (s : State) : Host.Outcome State Fault Refusal := .next (s.spillUnit launch unit)

/-- The units that have a block on a core: launch, unit. -/
def State.unitsOn (s : State) (die core : Nat) : List (Nat × Nat) :=
  distinct ((s.residents die core).map fun e => (e.1.launch, (s.launch e.1.launch).unitOf e.1.flat))

/-- The blocks of a unit that go to one core, and the cores that it takes (R329). -/
def Launch.onCore (l : Launch) : Nat := if l.hasGang then l.gangPer else 1
def Launch.coresOf (l : Launch) : Nat := if l.hasGang then l.gspread else 1

/-- A core may be kept for a unit: fewer cores than it takes are kept for it, all in the neighbourhood of this one. -/
def State.mayKeep (s : State) (key unit die core : Nat) : Bool :=
  let kept := (s.cores.filter fun e => e.1 / 256 == die && e.2.want == some (key, unit)).map fun e => e.1 % 256
  decide (kept.length < (s.launch key).coresOf) &&
    kept.all fun k => k != core && (List.range 24).any fun n => (s.nbhd die n).contains k && (s.nbhd die n).contains core

/-- The unit that waits on the die, could not be placed on the core with its P even if the core held nothing, and for which another
core is not kept already (R169, R330). -/
def State.compactFor (s : State) (die core : Nat) : Option (Nat × Nat) :=
  s.launches.findSome? fun e =>
    match if e.2.ended.isSome then none else e.2.nextFor die with
    | none => none
    | some u =>
      let k := e.2.onCore * e.2.scratch
      let suits := decide ((if e.2.pre then 2 * k else k) ≤ (s.core die core).p)
      if !suits && e.2.part == s.partOfDie die && (s.roomFor e.1 u die).isNone && s.mayKeep e.1 u die core then some (e.1, u) else none

/-- COMPACT_CORE: a core that holds only pre-emptible blocks, and whose P does not suit a waiting block, is emptied and kept for that
block, with whose placing its P is set anew (R169, R330; log entry 33). -/
def execCompactCore (die core : Nat) (s : State) : Host.Outcome State Fault Refusal :=
  let us := s.unitsOn die core
  if us.isEmpty || !(us.all fun u => (s.launch u.1).pre) then .next s
  else
    match s.compactFor die core with
    | none => .next s
    | some w => .next ((us.foldl (fun s u => s.preemptUnit u.1 u.2) s).modCore die core fun k => { k with want := some w })

/-- Every block of a unit has exited, every access of its groups has been performed, and its staged lists are released
(R325, R354). -/
def State.unitDone (s : State) (key unit : Nat) : Bool :=
  let l := s.launch key
  (l.held.any fun e => e.1 == unit) && (l.bidsOf key unit).all fun b =>
    (s.block? b).isSome && (s.block b).exited && (s.copiesQuiet b) &&
      (s.groupsOf b).all (fun e => !s.remotePending e.1 true && !s.matq.any fun m => m.g == e.1) &&
      (l.grade != 1 || decide (b.flat < l.miller))

/-- UNIT_RETIRE: the unit's bit is set, its cores are released, and the launch ends with its last unit (R325, R320). -/
def execUnitRetire (launch unit : Nat) (s : State) : Host.Outcome State Fault Refusal :=
  if !s.unitDone launch unit then .next s
  else
    let l := s.launch launch
    let s := s.discardBlocks l.part (l.bidsOf launch unit)
    let s := s.modLaunch launch fun l =>
      { l with retired := l.retired ++ [unit], held := l.held.filter fun e => e.1 != unit }
    .next (if (s.launch launch).retired.length = l.units then s.endLaunch launch { status := 1, reason := 0 } else s)

/-! ## The Miller (R353, R354, R358, R349) -/

/-- How the release of a list goes. -/
inductive Released where
  | done (s : State)
  | waits (l : List Staged) (s : State)
  | aborted (s : State)
  deriving DecidableEq, Repr, Inhabited

/-- Performs a staging list in order at the home slices; a posting waits while the device queue is full (R349, R354). -/
def releaseList (q : Req) (prio : Nat) : List Staged → State → Released
  | [], s => .done s
  | x :: r, s =>
    match x with
    | .store pa n v repl =>
      match s.engineStore q pa n v.toNat repl with
      | .ok _ s => releaseList q prio r s
      | .abort s => .aborted s
      | .wait _ => .waits (x :: r) s
    | .red op pa n v =>
      match s.engineRed q pa n op v.toNat true with
      | .ok _ s => releaseList q prio r s
      | .abort s => .aborted s
      | .wait _ => .waits (x :: r) s
    | .launch lid rec_ =>
      if s.devqFull q.part then .waits (x :: r) s
      else releaseList q prio r
        (s.modPart q.part fun p => { p with devq := p.devq ++ [{ id := lid, prio := prio, record := rec_ }] })

/-- The Miller may release the list of the lowest block that has not released (R354). -/
def State.releaseDue (s : State) (key : Nat) : Bool :=
  let l := s.launch key
  l.grade == 1 && l.ended.isNone && decide (l.miller < l.blocks) &&
    (l.bidsOf key (l.unitOf l.miller)).all fun b => (s.block? b).isSome && (s.block b).exited

/-- STAGED_LIST_RELEASE: the list of the lowest block not yet released is performed, and the Miller goes on to the next block whose
unit has not retired; an abort completion aborts the launch (R354, R358). -/
def execStagedListRelease (launch : Nat) (s : State) : Host.Outcome State Fault Refusal :=
  if !s.releaseDue launch then .next s
  else
    let l := s.launch launch
    let b : BId := ⟨launch, l.miller⟩
    let put (s : State) (r : List Staged) : State := s.modBlock b fun k => { k with staged := r }
    match releaseList (l.req launch) l.prio (s.block b).staged s with
    | .done s =>
      .next ((s.modBlock b fun k => { k with staged := [], stagedBy := [] }).modLaunch launch fun l =>
        { l with miller := l.toRelease (l.miller + 1) })
    | .waits r s => .next (put s r)
    | .aborted s =>
      .next ((s.modLaunch launch fun l => { l with disc := true }).endLaunch launch { status := 3, reason := 11 })

/-! ## The next run of a quadrant (R340 to R342) -/

/-- The barrier that a selector names is past a generation. -/
def State.genPast (s : State) (g : GId) (sel : W64) (gen : Nat) : Bool := (s.barrier (bidOf g) sel).1 != gen

/-- A waiting slot may issue its instruction again. -/
def State.waitOver (s : State) (g : GId) (sl : SlotId) (w : Wait) : Bool :=
  let r := s.grp g
  let b := bidOf g
  let l := s.launch b.launch
  let part := (s.reqOf g).part
  match w with
  | .none => true
  | .join => false
  | .barrier _ _ _ => false
  | .cond _ _ _ _ _ _ _ _ => false
  | .inval _ => false
  | .prio _ => false
  | .gen sel gen => s.genPast g sel gen
  | .copy ch wptr need => decide (need ≤ ((s.block b).ch ch).counter wptr) || ((s.block b).ch ch).err.isSome
  | .copyRoom ch => decide (s.queuedCopies b ch < 8)
  | .batches n => !s.matq.any fun m => m.g == g && decide (m.batch ≤ n)
  | .tile t => !s.tileBusy b t
  | .qnt => !s.matq.any fun m => bidOf m.g == b && (s.grp m.g).quad == r.quad && match m.op with | .qnt _ => true | _ => false
  | .queueRoom => decide ((s.queueOf (s.whereIs g)).length < 4)
  | .remote host => !s.remotePending g host
  | .drain => !s.matq.any fun m => m.g == g
  | .token => s.holdsToken g
  | .lower => decide (b.flat ≤ l.miller)
  | .engine seq => match (s.block b).shadows.find? fun h => h.pub == some seq with
    | none => true
    | some h => !s.engineWrites b h seq
  | .spill => decide (r.b.stk.length < 128) || r.stkFault.isSome
  | .fill n => decide (r.b.spilled < n) || r.stkFault.isSome || r.b.spilled == 0
  | .ring => !(s.part part).ringFull
  | .ats page | .fetch page => !s.asked (s.reqOf g) page
  | .walked => true
  | .landing => !(r.b.slot (otherSlot sl)).loads
  | .load _ => false
  | .engineRoom => true
  | .replica pa => !s.replicaHeld part pa
  | .packed => !s.packedBusy b g sl
  | .held id => !(s.part part).invs.any fun i => i.id == id
  | .interlock => (r.b.slot (otherSlot sl)).empty || (r.b.slot (otherSlot sl)).pend.isEmpty
  | .ckpt key _ none => !s.ckptBusy key g
  | .ckpt _ _ (some page) => !s.asked (s.reqOf g) page

/-- A slot is eligible (R340); in run-ahead only the slot that raised the fault is (R93), and none once an end event has
happened. -/
def State.eligible (s : State) (g : GId) (sl : SlotId) : Bool :=
  let r := s.grp g
  let x := r.b.slot sl
  r.run == .running && !x.empty && s.waitOver g sl x.wait && !(r.b.slot (otherSlot sl)).suspends &&
    match r.ahead with
    | none => true
    | some a => a.sl == sl && a.ended.isNone

/-- A candidate for a quadrant's issue slot: its round-robin number, its slot, its wait count. -/
structure Cand where
  at_ : Nat
  g : GId
  sl : SlotId
  waited : Nat
  deriving DecidableEq, Repr, Inhabited

/-- The eligible slots of a quadrant. -/
def State.cands (s : State) (die core q : Nat) : List Cand :=
  (s.quadGroups die core q).flatMap fun e =>
    let c (sl : SlotId) (k : Nat) : List Cand :=
      if s.eligible e.1 sl then [{ at_ := 2 * e.2.rslot + k, g := e.1, sl := sl, waited := (e.2.b.slot sl).waited }] else []
    c .a 0 ++ c .b 1

/-- Rule 4 of R340 among candidates: the first after the one that issued last. -/
def roundRobin (last : Nat) (cs : List Cand) : Option Cand :=
  (List.range 16).findSome? fun i => cs.find? fun c => c.at_ == (last + 1 + i) % 16

/-- The rules of R340. -/
def pickRun (last : Nat) (prio : Option GId) (cs : List Cand) : Option Cand :=
  let m := cs.foldl (fun m c => max m c.waited) 0
  let top := roundRobin last (cs.filter fun c => c.waited == m)
  if 2 ≤ m then top
  else
    match cs.find? (fun c => some c.g == prio && c.sl == .a), cs.find? (fun c => some c.g == prio && c.sl == .b) with
    | some c, _ => some c
    | none, some c => some c
    | none, none => top

/-- A run takes the quadrant: its slot no longer waits. -/
def State.takeQuad (s : State) (die core q : Nat) (g : GId) (sl : SlotId) (n : Nat) : State :=
  let s := s.modSlot g sl fun x => { x with wait := .none, waited := 0 }
  { s.modQuad die core q fun x => { x with cur := some (g, sl, n) } with
    cur := some (die, core, q), turn := 4 * (256 * die + core) + q }

/-- A slot of a quadrant in which another's run starts has waited for one more run while it is eligible; the handler's runs do not
count. The count of a slot that is not eligible starts anew (R340). -/
def Slot.waits (eligible counts : Bool) (x : Slot) : Slot :=
  if eligible then if counts then { x with waited := x.waited + 1 } else x else { x with waited := 0 }

/-- A run starts (R340). -/
def State.startRun (s : State) (die core q : Nat) (g : GId) (sl : SlotId) (others : List Cand) : State :=
  let was := s
  let one (h : GId) (k : SlotId) (s : State) : State :=
    s.modSlot h k (Slot.waits (was.eligible h k) (others.any fun c => c.g == h && c.sl == k))
  let s := (s.quadGroups die core q).foldl (fun s e => one e.1 .b (one e.1 .a s)) s
  (s.modQuad die core q fun x => { x with held := none }).takeQuad die core q g sl 0

/-- The handler's slot of a quadrant that may issue. -/
def State.handlerSlot (s : State) (die core q : Nat) : Option SlotId :=
  let h : GId := .hdl die core q
  if !(s.quad die core q).active then none
  else if s.eligible h .a then some .a
  else if s.eligible h .b then some .b
  else none

/-- A quadrant's free issue slot goes to the next run. -/
def State.nextRun (s : State) (die core q : Nat) : Option (GId × SlotId × List Cand) :=
  match s.handlerSlot die core q with
  | some sl => some (.hdl die core q, sl, [])
  | none =>
    let cs := s.cands die core q
    (pickRun (s.quad die core q).last (s.quad die core q).prio cs).map fun c => (c.g, c.sl, cs)

/-- The run that an interlock stalls in a quadrant, while its group runs (R342). -/
def State.stalled (s : State) (die core q : Nat) : Option (GId × SlotId × Nat) :=
  match (s.quad die core q).held with
  | none => none
  | some (g, sl, n) =>
    if (s.grp g).run == .running && !((s.grp g).b.slot sl).empty && ((s.grp g).b.slot sl).wait == .interlock then some (g, sl, n)
    else none

/-- A run that an interlock stalls keeps the issue slot: it goes on when the result that it waits for is written, and until then
only the slot of its group that is to write it issues (R31, R342). -/
def State.stalledRun (s : State) (die core q : Nat) (g : GId) (sl : SlotId) (n : Nat) : State :=
  if s.eligible g sl then (s.modQuad die core q fun x => { x with held := none }).takeQuad die core q g sl n
  else if s.eligible g (otherSlot sl) then s.takeQuad die core q g (otherSlot sl) 0
  else s

/-- RUN_ISSUE: the quadrant's issue slot goes to the next run; a run in progress keeps it (R340, R342). -/
def execRunIssue (die core quad : Nat) (s : State) : Host.Outcome State Fault Refusal :=
  if (s.quad die core quad).cur.isSome then .next { s with cur := some (die, core, quad), turn := 4 * (256 * die + core) + quad }
  else
    match s.stalled die core quad with
    | some (g, sl, n) => .next (s.stalledRun die core quad g sl n)
    | none =>
      match s.nextRun die core quad with
      | none => .next s
      | some (g, sl, cs) => .next (s.startRun die core quad g sl cs)

/-! ## The on-core handler (R374, R375, R377) -/

/-- The class of a group's ecause. -/
def fclassOf (n : Nat) : FClass :=
  match n with
  | 2 => .priv | 3 => .align | 4 => .limit | 5 => .xlate | 6 => .perm | 7 => .kv | 8 => .code | 9 => .lookahead
  | 10 => .stack | 11 => .abort | 12 => .check | 13 => .trap | 14 => .brk | _ => .ill

/-- The default handler's policy for the group that it serves (R377). -/
def State.defaultHandler (s : State) (die core q : Nat) (g : GId) : State :=
  let r := s.grp g
  let cls := bits r.ecause.toNat 0 8
  if cls = 11 then
    match r.cwd with
    | some d =>
      (s.modGrp g fun r => { r with b := r.b.setS d (BitVec.allOnes 64), epc := r.epc + 4, cwd := none }).returnTrap die core q
    | none => s.killGang g 11 true none r.epc .abort r.ecause r.edetail
  else if cls = 14 then
    let part := (s.reqOf g).part
    let (s, rid) := s.newRid part
    let s := s.postRec part {
      rid := rid, cls := .brk, kind := .notice, src := 0, launch := launchIdOf g, gflat := s.flatOf g, epc := r.epc
      cause := r.ecause, detail := r.edetail, owner := .brk g }
    (s.modGrp g fun r => { r with run := .brk rid }).returnTrap die core q
  else s.killGang g cls false none r.epc (fclassOf cls) r.ecause r.edetail (table := r.table)

/-- The context that a handler descriptor names, as the context table gives it when the handler enters; one that cannot be used
leaves what was read before (R79, R374; log entry 38). -/
def Handler.withCtx (h : Handler) (d : List Nat) : Handler :=
  if ctxOk d then
    { h with root := bits (d.getD 0 0) 8 44 * 256, pasid := bits (d.getD 1 0) 40 20, hosten := bit (d.getD 1 0) 39
             asid := bits (d.getD 1 0) 0 16 }
  else h

/-- The partition's handler with the context that its descriptor names (R374). -/
def State.handlerCtx (s : State) (part : Nat) : State :=
  match s.hubRead part ((s.part part).ctxTable + 32 * (s.part part).handler.ctxNo) 4 with
  | some (d, s) => s.modPart part fun p => { p with handler := p.handler.withCtx d }
  | none => s

/-- A partition's own handler enters: its registers stay as it left them, its slot A holds the entry and all lanes, its
stack is empty (R374; log entry 38). -/
def State.customHandler (s : State) (die core q : Nat) (h : Handler) : State :=
  let s := s.handlerCtx (s.partOfDie die)
  let g : GId := .hdl die core q
  let old := (s.grp? g).getD { quad := q, priv := true }
  let b := { old.b with
    stkbase := h.stack, stklim := BitVec.allOnes 64, stk := [], spilled := 0, wins := []
    slotA := { pc := h.entry, lanes := BitVec.allOnes 64 }, slotB := {} }
  { s with groups := aput g { old with b := b, run := .running, stkFault := none } s.groups }.modQuad die core q fun x =>
    { x with active := true }

/-- HANDLER_ENTRY: 40 cycles after the fault the handler enters for the first group that waits (R374, R377). -/
def execHandlerEntry (die core quad : Nat) (s : State) : Host.Outcome State Fault Refusal :=
  let qd := s.quad die core quad
  match qd.entry, qd.traps with
  | some t, g :: _ =>
    if s.cycle < t then .next s
    else
      let s := s.modQuad die core quad fun x => { x with entry := none }
      let h := (s.part (s.partOfDie die)).handler
      .next (if h.custom then s.customHandler die core quad h else s.defaultHandler die core quad g)
  | _, _ => .next s

/-- The pre-emption of a unit with a block on a core has waited 65,536 cycles for a handler there (R375); a CKPT waits for the handlers
other than the one that executes it. -/
def State.abandonDue (s : State) (die core quad : Nat) : Bool :=
  s.pends.any fun p =>
    decide (p.since + 65536 ≤ s.cycle) && p.by_ != some (.hdl die core quad) &&
      ((s.launch p.launch).bidsOf p.launch p.unit).any fun b => (s.block b).place == .core die core

/-- HANDLER_ABANDON: the handler is abandoned with no further effect; the group stays stopped at epc, and enters the handler again
when its block next runs: at once, behind the others, when the block is not one of those that are switched out (R375). -/
def execHandlerAbandon (die core quad : Nat) (s : State) : Host.Outcome State Fault Refusal :=
  let qd := s.quad die core quad
  match qd.traps with
  | [] => .next s
  | g :: rest =>
    if !qd.active || !s.abandonDue die core quad then .next s
    else
      let goes := s.pendsFor (bidOf g)
      let s := (s.modQuad die core quad fun x => { x with traps := rest }).handlerNext die core quad
      .next (if goes || s.queued g then s else s.queueTrap g)

end Sys2Proof.Machine
end

