-- ==== Sys2Proof/Machine/Registers.lean ====
section
/-! DEFINITION. The register blocks as the host and the Chandler write and read them, and the monitors (R389 to R391, R396). -/

namespace Sys2Proof.Machine

/-! ## Who may access a register, and how (R389, R395, R400) -/

/-- Registers are accessed whole, in blocks of a partition that exists, of a module whose hub is ready; any other access ends with
an abort completion (R389, R395). -/
def State.regReady (s : State) (a : RegAcc) : Bool := a.width == 8 && s.readyBit 1 && !(s.part a.part).dies.isEmpty

/-- A read of a register of a partition's block that has an effect. -/
def State.regGet (s : State) (a : RegAcc) (f : State → State) : Host.Outcome State Fault Refusal :=
  .next (if s.regReady a then f s else s.answerAbort)

/-- A write to a partition's block: by the host function assigned to it or the Chandler; another party's writes nothing
(R389; log entry 37). -/
def State.regPut (s : State) (a : RegAcc) (f : State → State) : Host.Outcome State Fault Refusal :=
  s.regGet a fun s => if a.who = .other then s else f s

/-! ## Rings (R389) -/

/-- How far a value lies ahead of a head in a ring of n entries. -/
def ahead (n head v : Nat) : Nat := if head ≤ v then v - head else v + n - head

/-- A power of two between bounds. -/
def pow2In (lo hi n : Nat) : Bool := decide (lo ≤ n) && decide (n ≤ hi) && decide (2 ^ Nat.log2 n = n)

/-- LQTAIL_WRITE: the host posts records; a value more than the ring's size ahead of the head is ignored (R389). -/
def execLqtailWrite (acc : RegAcc) (q : Nat) (v : BitVec 64) (s : State) : Host.Outcome State Fault Refusal :=
  s.regPut acc fun s =>
    let x := mget {} (s.part acc.part).lq q
    let n := x.size.toNat
    if 16 ≤ q || n == 0 || decide (n < ahead n (x.head.toNat % n) v.toNat) then s
    else s.modPart acc.part fun p => { p with lq := mset {} p.lq q { x with tail := BitVec.ofNat 64 (v.toNat % n) } }

/-- SCHEAD_WRITE: the host consumes system-call entries (R389). -/
def execScheadWrite (acc : RegAcc) (v : BitVec 64) (s : State) : Host.Outcome State Fault Refusal :=
  s.regPut acc fun s =>
    let p := s.part acc.part
    let n := p.scsize.toNat
    if n == 0 || decide (n < ahead n (p.schead.toNat % n) v.toNat) then s
    else s.modPart acc.part fun p => { p with schead := BitVec.ofNat 64 (v.toNat % n) }

/-- The group of a partition that is parked on a call, with the register of the reply. -/
def State.caller (s : State) (part tag : Nat) : Option (GId × Nat) :=
  s.groups.findSome? fun e =>
    match e.2.run with
    | .syscall t d => if t = tag && (s.reqOf e.1).part = part then some (e.1, d) else none
    | _ => none

/-- SCTAG: the write delivers SCREPLY to the parked call and its group resumes at the next instruction; a tag without a
parked call has no effect (R382, R389). -/
def execSctag (acc : RegAcc) (tag : BitVec 64) (s : State) : Host.Outcome State Fault Refusal :=
  s.regPut acc fun s =>
    match s.caller acc.part tag.toNat with
    | none => s
    | some (g, d) =>
      let s := s.modPart acc.part fun p => { p with calls := p.calls.filter (· != tag.toNat) }
      s.modGrp g fun r => { r with b := r.b.setS d (s.part acc.part).screply, epc := r.epc + 4 }.resume

/-! ## The trap queue from the host (R380, R389) -/

/-- The requester of an access of the hub for a partition. -/
def hubReq (part : Nat) : Req := { g := .grp 0 0 0, die := 8, core := 0, part := part }

/-- The oldest record is copied to TQBUF and popped; a write that cannot be performed ends the read with an abort completion, and
one that must wait is not answered yet (R380, R389). -/
def State.popTo (s : State) (part pa : Nat) (e : Nat × Rec) : State :=
  match storeDws s (hubReq part) false (((e.2.dws e.1).mapIdx fun i v => (pa + 8 * i, v))) with
  | .ok _ s =>
    let s := s.modQueue part fun p => p.popped e.1 e.2
    { s with outbox := s.outbox ++ [.popId (recId e.1 e.2)] }
  | .abort s => s.answerAbort
  | .wait _ => s

/-- TQPOPID: a host read pops the oldest record into TQBUF and returns its identifier, or 0 (R389). -/
def execTqpopid (acc : RegAcc) (s : State) : Host.Outcome State Fault Refusal :=
  s.regGet acc fun s =>
    match (s.part acc.part).oldest with
    | none => { s with outbox := s.outbox ++ [.popId 0] }
    | some e => s.popTo acc.part (s.part acc.part).tqbuf.toNat e

/-- A release through a register; TQRSLT says whether the host's last one took effect (R389). -/
def State.regRelease (s : State) (who : Party) (part : Nat) (rid : W64) (resume : Bool) : State :=
  let r := s.release part rid resume
  if who = .host then r.1.modPart part fun p => { p with tqrslt := r.2 } else r.1

/-- TQRES (R389). -/
def execTqres (acc : RegAcc) (rid : BitVec 64) (s : State) : Host.Outcome State Fault Refusal :=
  s.regPut acc fun s => s.regRelease acc.who acc.part rid true

/-- TQABN (R389). -/
def execTqabn (acc : RegAcc) (rid : BitVec 64) (s : State) : Host.Outcome State Fault Refusal :=
  s.regPut acc fun s => s.regRelease acc.who acc.part rid false

/-! ## Invalidation (R391) -/

/-- The tags, asid and pasid, under which translations of a context are held: its descriptor's, and those that running launches
read from it (R79, R85). -/
def State.tagsOf (s : State) (part ctx : Nat) : List (Nat × Nat) :=
  let d := match s.hubRead part ((s.part part).ctxTable + 32 * ctx) 4 with
    | some (d, _) => [(bits (d.getD 1 0) 0 16, bits (d.getD 1 0) 40 20)]
    | none => []
  distinct (d ++ (s.launches.filter fun e =>
    e.2.part == part && e.2.ctxNo == ctx && e.2.ended.isNone).map fun e => (e.2.asid, e.2.pasid))

/-- Reserved bits of INVCTL are set. -/
def invReserved (v : W64) : Bool := bits v.toNat 28 35 != 0 || bits v.toNat 2 14 != 0

/-- INVCTL with go = 0. -/
def invDone (v : W64) : W64 := BitVec.ofNat 64 (v.toNat % 2 ^ 63)

/-- A write of INVCTL with go = 1 that is not ignored: an invalidation for each tag of the context; one under which nothing can be
held is complete at once (R391). -/
def State.invGo (s : State) (part : Nat) (v : W64) : State :=
  let p := s.part part
  let kind := bits v.toNat 0 2
  let xs := if kind < 2 then s.tagsOf part (bits v.toNat 16 12) else [(0, 0)]
  let s := s.modPart part fun p => { p with invctl := if xs.isEmpty then invDone v else v }
  xs.foldl (fun s a => (s.invalStart part (extentOf kind a.1 a.2 p.invstart.toNat p.invlen.toNat) .host).1) s

/-- INVCTL_GO: a write with go = 1 starts an invalidation; one while go reads 1 or with a reserved bit set is ignored
(R391). -/
def execInvctlGo (acc : RegAcc) (v : BitVec 64) (s : State) : Host.Outcome State Fault Refusal :=
  s.regPut acc fun s =>
    let p := s.part acc.part
    if !v.toNat.testBit 63 || p.invctl.toNat.testBit 63 || invReserved v ||
        (bits v.toNat 0 2 % 2 == 0 && p.invlen.toNat % 65536 != 0) then s
    else s.invGo acc.part v

/-! ## Registers without a behaviour of their own (R389) -/

/-- A register of a launch queue is written; it is ignored while records are posted (R389). -/
def LQ.put (x : LQ) (field : Nat) (v : W64) : LQ :=
  if x.head ≠ x.tail then x
  else if field = 0 then if v.toNat % 256 = 0 then { x with base := v } else x
  else if field = 1 then if pow2In 16 4096 v.toNat then { x with size := v } else x
  else x

/-- Writes a register that only holds its value; a value outside the register's range is ignored (log entry 37). -/
def Part.putReg (p : Part) (off : Nat) (v : W64) : Part :=
  if off < 0x400 then { p with lq := mset {} p.lq (off / 64) ((mget {} p.lq (off / 64)).put (off % 64 / 8) v) }
  else
    match off with
    | 0x400 => if v.toNat % 4096 = 0 then { p with scbase := v } else p
    | 0x408 => if pow2In 64 65536 v.toNat then { p with scsize := v } else p
    | 0x420 => { p with screply := v }
    | 0x800 => if v.toNat % 512 = 0 then { p with tqbuf := v } else p
    | 0xC00 => { p with invstart := v }
    | 0xC08 => if v.toNat % 65536 = 0 then { p with invlen := v } else p
    | 0xC10 => if v.toNat.testBit 63 || p.invctl.toNat.testBit 63 || invReserved v then p else { p with invctl := v }
    | _ => p

/-- REGISTER_WRITE (R389). -/
def execRegisterWrite (acc : RegAcc) (off : Nat) (v : BitVec 64) (s : State) : Host.Outcome State Fault Refusal :=
  if off % 8 ≠ 0 then .next s.answerAbort else s.regPut acc fun s => s.modPart acc.part fun p => p.putReg off v

/-! ## Monitors (R396) -/

/-- A monitor. -/
def Part.mon (p : Part) (m : Nat) : Monitor := mget {} p.mons m

/-- Changes a monitor; there are 20. -/
def State.modMon (s : State) (part m : Nat) (f : Monitor → Monitor) : State :=
  if 20 ≤ m then s else s.modPart part fun p => { p with mons := mset {} p.mons m (f (p.mon m)) }

/-- A saturating sum of n bits. -/
def satAdd (n : Nat) (a b : Nat) : BitVec n := if 2 ^ n ≤ a + b then BitVec.allOnes n else BitVec.ofNat n (a + b)

/-- The bin of a value (R396). -/
def binOf (v : Nat) : Nat := if v < 2 then 0 else min 15 (Nat.log2 v)

/-- A monitor after a sample (R396). -/
def Monitor.sample (x : Monitor) (v : Nat) : Monitor :=
  { x with
    min := if x.count = 0 || decide (v < x.min.toNat) then BitVec.ofNat 64 v else x.min
    max := if x.max.toNat < v then BitVec.ofNat 64 v else x.max
    count := satAdd 64 x.count.toNat 1
    sum := satAdd 64 x.sum.toNat v
    bins := mset 0 x.bins (binOf v) (satAdd 32 (mget 0 x.bins (binOf v)).toNat 1) }

/-- The transient disagreements of a die's cores since the monitor of the die took its last sample (R237, R396). -/
def State.transients (s : State) (die : Nat) : Nat :=
  total ((s.cores.filter fun e => e.1 / 256 == die).map fun e => e.2.transient)

/-- The counts of a die start anew (R396). -/
def State.clearCounts (s : State) (die : Nat) (corrected : Bool) : State :=
  if corrected then s.modDie die fun d => { d with corrected := 0 }
  else { s with cores := s.cores.map fun e => (e.1, if e.1 / 256 = die then { e.2 with transient := 0 } else e.2) }

/-- What a monitor samples, and the state after it: the slots of the trap queue in use; the transient disagreements and the
corrected errors of a die, which only the partition that owns the die counts; of the others, the time that was measured (R396;
log entry 60). The corrected errors of SRAMs, register files, tiles and stack caches are what v gives: no other event shows them
(R387). -/
def State.sampled (s : State) (part m v : Nat) : Nat × State :=
  if m < 3 then (v, s)
  else if m = 3 then ((s.part part).tq.length, s)
  else
    let die := (m - 4) % 8
    if !(s.part part).dies.contains die then (0, s)
    else if m < 12 then (s.transients die, s.clearCounts die false)
    else ((s.die die).corrected + v, s.clearCounts die true)

/-- MONITOR_SAMPLE: v is what was measured of a latency, or the corrected errors of a die's SRAMs (R387, R396). -/
def execMonitorSample (part m v : Nat) (s : State) : Host.Outcome State Fault Refusal :=
  let r := s.sampled part m v
  .next (if 20 ≤ m || !s.power then s else r.2.modMon part m fun x => x.sample r.1)

/-- MONITOR_LATCH: a read of a monitor's first field latches the others for its reader (R396). -/
def execMonitorLatch (acc : RegAcc) (m : Nat) (s : State) : Host.Outcome State Fault Refusal :=
  s.regGet acc fun s =>
    let x := (s.part acc.part).mon m
    let s := s.modMon acc.part m fun x => x.latch (.party acc.who)
    { s with outbox := s.outbox ++ [.value 8 x.min] }

/-- MONITOR_CLEAR: a write to a monitor's first field clears all its fields (R396). -/
def execMonitorClear (acc : RegAcc) (m : Nat) (s : State) : Host.Outcome State Fault Refusal :=
  s.regPut acc fun s => s.modMon acc.part m fun _ => {}

end Sys2Proof.Machine
end

