-- ==== Sys2Proof/Machine/Service.lean ====
section
/-! DEFINITION. Partitions, boot and attestation, dies fenced and returned, firmware, power (R136, R143, R326, R393 to R395,
R397, R399, R400). -/

namespace Sys2Proof.Machine

/-! ## Partitions (R393) -/

/-- A number of partitions. -/
def partsOk (n : Nat) : Bool := n == 1 || n == 2 || n == 4 || n == 8

/-- The dies of partition p of n. -/
def diesOf (n p : Nat) : List Nat := upFrom (8 * p / n) (8 * (p + 1) / n - 8 * p / n)

/-- A partition as the Chandler builds it; the places that it gives its tables, pools, handler and flag window, which is
of 4 to 64 KiB where there is one, are the Chandler's (R78, R107, R112, R186, R374, R390, R393; log entry 20). -/
def newPart (k p n : Nat) : Part :=
  let f := Config.partField k p
  { dies := diesOf n p, debug := f 0 % 2 == 1, ctxTable := f 1, s2root := f 2, spaces := f 3, frameTable := f 4
    poolBase := f 5, poolSize := f 6, shadowPool := (List.range (f 7)).map fun i => f 8 + 65536 * i
    handler := { custom := f 9 % 2 == 1, entry := canon (f 10), ctxNo := f 11 % 2 ^ 12, stack := canon (f 15) }
    flagBase := f 16 % 2 ^ 50, flagLen := if f 17 = 0 then 0 else 4096 + f 17 % 61441 }

/-- The module is idle: no launch runs, or has its completion record still to be written. -/
def State.idle (s : State) : Bool := s.launches.all fun e => e.2.ended.isSome && e.2.reported

/-- A die whose caches are empty; what is wrong with its HBM outside the carve-out stays wrong. The spec does not say on which dies the
Chandler writes the carve-out with reset state at a reconfiguration: the model's choice is that it does so on every die, and releases
every blocked index (R143; log entry 46). -/
def Die.empty (d : Die) : Die := { damage := d.damage, corrected := d.corrected }

/-- A core whose caches are empty. -/
def Core.empty (c : Core) : Core :=
  { c with l1 := [], tlb := [], frames := [], refill := false, retryAt := none, deferAt := none, p := 0 }

/-- Every cache of the module is written back and emptied: first the writes to LPDDR that are on their way are performed, last the
sectors are dropped (R143). -/
def State.cleanAll (s : State) : State :=
  let ps := distinct ((List.range 8).map s.partOfDie)
  let s := (List.range 8).foldl (fun s d => s.coopWritesDone d fun _ => true) s
  let s := ps.foldl (fun s p => s.cleanRange (hubReq p) 2 0 (2 ^ 52)) s
  let s := s.dies.foldl (fun s e => e.2.cooper.foldl (fun s x => s.sectorDrop e.1 x.1) s) s
  let s := s.cores.foldl (fun s e => s.takeFrames (e.1 / 256) (e.1 % 256)) s
  { s with cores := s.cores.map fun e => (e.1, e.2.empty), dies := s.dies.map fun e => (e.1, e.2.empty) }

/-- The HBM of a die reads zero: every burst has been written (R393). -/
def State.zeroDie (s : State) (d : Nat) : State :=
  let a := hbmAddr d 0
  let n := 2 ^ 38
  { s.modDie d fun x => { x with damage := [], coopDamage := [] } with
    mem := mclear s.mem a n, l2m := mclear s.l2m a n, low := mclear s.low a n
    withheld := s.withheld.filter fun l => !meets (256 * l) 256 a n }

/-- PARTITION_RECONFIGURE: an idle module takes another number of partitions; a die that moves is zeroed, and the owners
that change are built anew (R393). -/
def execPartitionReconfigure (n : Nat) (s : State) : Host.Outcome State Fault Refusal :=
  if !partsOk n || !s.idle || n = s.cfg.nparts || !s.readyBit 0 then .next s
  else
    let moved := (List.range 8).filter fun d => decide (s.partOfDie d ≠ d * n / 8)
    let s := moved.foldl (fun s d => s.zeroDie d) s.cleanAll
    let new (p : Nat) : Part := if (s.part p).dies = diesOf n p then s.part p else newPart s.free p n
    .next { s with
      cfg := { s.cfg with nparts := n }
      parts := (List.range n).foldl (fun m p => mset {} m p (new p)) []
      launches := [], blocks := [], groups := [], casts := []
      free := s.free + 1 }

/-! ## Boot and attestation (R394, R395) -/

/-- The fields of a configuration record (R136, R392, R393, R394; log entry 20): of each die's four spare cores it says for which core
it stands, if for any (R397). -/
def cfgOf (r : List Byte) : Cfg :=
  let f (n : Nat) : Nat := Config.recordField n r
  { nparts := 2 ^ (f 0 % 4), share := 1 + f 1 % 24, domain := f 2 % 64
    routes := (List.range 64).foldl (fun m k => mset 0 m k (f (16 + k) % 2 ^ 24)) []
    spares := (List.range 32).foldl
      (fun m k =>
        let n := f (80 + k) % (coresInUse + 1)
        if n = 0 then m else mset 0 m (256 * (k / 4) + n - 1) (coresInUse + k % 4)) [] }

/-- READY with every function but the Cooper (R395). -/
def readyAll : W64 := BitVec.ofNat 64 (2 ^ 59 - 1 - 2 ^ 34)

/-- The image that boots: the newer of those whose signature verifies (R394). -/
def pickImage (a b : List Byte) : Option (Bool × List Byte) :=
  match Config.signatureOk a, Config.signatureOk b with
  | true, true => if Config.imageNumber a < Config.imageNumber b then some (true, b) else some (false, a)
  | true, false => some (false, a)
  | false, true => some (true, b)
  | false, false => none

/-- A module without power holds nothing but the images in its flash (R394, R400); memory outside the module stays, and the model's own
fields and numbers go on. -/
def State.off (s : State) : State :=
  { State.reset with
    low := s.low.filter fun e => isRemote e.1
    fw := { bankA := s.fw.bankA, bankB := s.fw.bankB }
    free := s.free, seq := s.seq, ckpts := s.ckpts, agenda := s.agenda }

/-- POWER_ON_BOOT: the module powers on; the Chandler boots an image from flash, measures it and the record, and posts what is ready.
A bank of the flash that holds no image yet is taken to hold the given one (R394, R395; log entry 20). -/
def execPowerOnBoot (record imageA imageB : List Byte) (s : State) : Host.Outcome State Fault Refusal :=
  if s.power then .next s
  else
    let a := if s.fw.bankA.isEmpty then imageA else s.fw.bankA
    let b := if s.fw.bankB.isEmpty then imageB else s.fw.bankB
    let s : State := { s.off with power := true, fw := { bankA := a, bankB := b } }
    match pickImage a b with
    | none => .next s
    | some (b, image) =>
      let fw := { s.fw with runningB := b, imageHash := sha256 image, recordHash := sha256 record }
      if !Config.signatureOk record then .next { s with fw := fw }
      else
        let cfg := cfgOf record
        .next { s with
          fw := fw, cfg := cfg, ready := readyAll
          parts := (List.range cfg.nparts).foldl (fun m p => mset {} m p (newPart s.free p cfg.nparts)) []
          free := s.free + 1 }

/-- A request to the Chandler; while chd reads 0 it ends with an abort completion (R395). -/
def State.chandlerAsk (s : State) (f : State → State) : Host.Outcome State Fault Refusal :=
  .next (if s.readyBit 0 then f s else s.answerAbort)

/-- GET_MEASUREMENTS (R394). -/
def execGetMeasurements (s : State) : Host.Outcome State Fault Refusal :=
  s.chandlerAsk fun s => { s with outbox := s.outbox ++ [.measurements s.fw.imageHash s.fw.recordHash] }

/-- CHALLENGE (R394). -/
def execChallenge (nonce : List Byte) (s : State) : Host.Outcome State Fault Refusal :=
  s.chandlerAsk fun s =>
    { s with outbox := s.outbox ++ [.challenge (Config.challengeAnswer (nonce ++ s.fw.imageHash ++ s.fw.recordHash))] }

/-- The firmware after an image has been written to the idle bank: it runs when it verifies (R399). -/
def Firmware.update (f : Firmware) (image : List Byte) : Firmware :=
  let f := if f.runningB then { f with bankA := image } else { f with bankB := image }
  if Config.signatureOk image then { f with runningB := !f.runningB, imageHash := sha256 image } else f

/-- FIRMWARE_UPDATE (R399). -/
def execFirmwareUpdate (image : List Byte) (s : State) : Host.Outcome State Fault Refusal :=
  s.chandlerAsk fun s => { s with fw := s.fw.update image }

/-! ## Dies (R326, R397) -/

/-- The READY and FENCED bits of a die: the die and its three HBM stacks (R395). -/
def dieBits (d : Nat) : W64 := BitVec.ofNat 64 (2 ^ (2 + d) + 7 * 2 ^ (10 + 3 * d))

/-- A unit on a die that is being fenced is pre-empted, its image written, and may be placed on any die (R397). -/
def State.evict (s : State) (key unit : Nat) : State :=
  let bs := (s.launch key).bidsOf key unit
  let cores := distinct (bs.filterMap fun b => (s.block b).copyCore)
  let s := if s.resident key unit then s.preemptOut key unit else s
  let s := (cores.foldl (fun s c => s.copiesSettle c.1 c.2) s).spillUnit key unit
  s.modLaunch key fun l => { l with held := l.held.filter fun e => e.1 != unit || bs.any fun b => (s.block b).place != .image }

/-- The units of a launch that a die holds. -/
def Launch.unitsHeld (l : Launch) (die : Nat) : List Nat := (l.held.filter fun e => e.2 == die).map (·.1)

/-- The pre-emptible units of a launch leave a die; one on whose cores a handler is at work leaves when that is over (R375, R397). -/
def State.leaveDie (s : State) (key die : Nat) : State :=
  let l := s.launch key
  if l.ended.isSome || !l.pre then s
  else
    (l.unitsHeld die).foldl
      (fun s u => if s.resident key u && s.handlerBusy (l.bidsOf key u) then s.pend key u else s.evict key u) s

/-- Pre-emptible units are still on a die. -/
def State.leavers (s : State) (die : Nat) : Bool :=
  s.launches.any fun e => e.2.pre && e.2.ended.isNone && !(e.2.unitsHeld die).isEmpty

/-- A die is fenced: the units that it still holds are killed, its frames and its gathered updates are taken back, and its bits go
(R116, R167, R326, R397). -/
def State.fenceDie (s : State) (die : Nat) : State :=
  let s := s.launches.foldl (fun s e => s.dieLost e.1 die) s
  let s := (s.updates.filter fun u => u.die == die).foldl (fun s u => s.recallUpdates (s.partOfDie die) u.line) s
  let s := (s.cores.filter fun e => e.1 / 256 == die).foldl (fun s e => s.takeFrames die (e.1 % 256)) s
  { s with ready := s.ready &&& ~~~(dieBits die), fenced := s.fenced ||| dieBits die, fencing := s.fencing.filter (· != die) }

/-- DIE_FENCE: dispatch to the die stops, its pre-emptible units are pre-empted and the others killed, and its bits are cleared; while
a pre-emption waits for a handler the fence waits too (R375, R397). -/
def execDieFence (die : Nat) (s : State) : Host.Outcome State Fault Refusal :=
  if 8 ≤ die || !s.dieReady die then .next s
  else
    let s : State := { s with fencing := if s.fencing.contains die then s.fencing else s.fencing ++ [die] }
    let s := s.launches.foldl (fun s e => s.leaveDie e.1 die) s
    .next (if s.leavers die then s else s.fenceDie die)

/-- The core of a die that a fenced physical core stands for, and the next spare, if one is left. -/
def State.spareFor (s : State) (die core : Nat) : Option (Nat × Nat) :=
  match (List.range coresInUse).find? fun n => s.physCore die n == core with
  | none => none
  | some n =>
    ((upFrom 192 4).find? fun k => (List.range coresInUse).all fun n => s.physCore die n != k).map fun k => (n, k)

/-- A fenced core of a die is replaced by a spare (R397). -/
def State.useSpare (s : State) (die core : Nat) : State :=
  if !(s.core die core).fenced then s
  else
    match s.spareFor die core with
    | none => s
    | some (n, k) => { s with cfg := { s.cfg with spares := mset 0 s.cfg.spares (256 * die + n) k } }

/-- A quadrant after a reset: what is wrong with its datapaths stays wrong. -/
def Quad.reset (q : Quad) : Quad := { alus := q.alus, adders := q.adders, res := q.res }

/-- A die is reset: its caches are empty, and what they had not written back is lost (R397; log entry 43). -/
def State.resetDie (s : State) (die : Nat) : State :=
  let part := s.partOfDie die
  let mine := s.cores.filter fun e => e.1 / 256 == die
  let lines := distinct ((s.die die).l2.map (·.line) ++ mine.flatMap fun e => e.2.l1.map fun l => l.line / 4)
  let s := mine.foldl
    (fun s e => s.modCore die (e.1 % 256) fun k =>
      { k.empty with transient := 0, quads := (k.quads.map fun q => (q.1, q.2.reset)).filter fun q => decide (q.2 ≠ {}) }) s
  let s := s.modDie die fun d => { d with tlb := [], kv := [], l2 := [], l2Fills := [] }
  lines.foldl (fun s l => s.lineFromBelow part l) s

/-- DIE_RETURN: a fenced die is reset, its fenced cores are replaced by spares, and its bits are posted again (R397). -/
def execDieReturn (die : Nat) (s : State) : Host.Outcome State Fault Refusal :=
  if 8 ≤ die || !s.fenced.toNat.testBit (2 + die) then .next s
  else
    let s := (List.range 196).foldl (fun s c => s.useSpare die c) (s.resetDie die)
    .next { s with ready := s.ready ||| dieBits die, fenced := s.fenced &&& ~~~(dieBits die) }

/-! ## Power (R400) -/

/-- THERMAL_THROTTLE: the step of a module that has power is counted (R400). -/
def execThermalThrottle (s : State) : Host.Outcome State Fault Refusal :=
  .next (if s.power then { s with throttle := s.throttle + 1 } else s)

/-- POWER_OFF: nothing of the module's state is kept but the images in flash (R394); memory outside the module stays (R400). -/
def execPowerOff (s : State) : Host.Outcome State Fault Refusal :=
  .next s.off

end Sys2Proof.Machine
end

