-- ==== Sys2Proof/Machine/Vector.lean ====
section
/-! DEFINITION. The vector pipe: integer arithmetic, comparisons, masks, FP32 arithmetic, conversion, division and
transcendentals (R240 to R252). Only active lanes are written; every lane is read before any is written (R49). -/

namespace Sys2Proof.Machine

/-! ## Shared forms -/

/-- A lane operation of two sources: V(d) ← f (V(a)) (V(b)). -/
def vec2 (d a b : BitVec 7) (f : W32 → W32 → W32) (c : Ctx) (k : Bank) : Bank :=
  k.setV d.toNat c.lanes fun l => f (k.getV a.toNat l) (k.getV b.toNat l)

/-- A lane operation of one source. -/
def vec1 (d a : BitVec 7) (f : W32 → W32) (c : Ctx) (k : Bank) : Bank :=
  k.setV d.toNat c.lanes fun l => f (k.getV a.toNat l)

/-- A lane operation that reads its destination too: V(d) ← f (V(d)) (V(a)) (V(b)). -/
def vec3 (d a b : BitVec 7) (f : W32 → W32 → W32 → W32) (c : Ctx) (k : Bank) : Bank :=
  k.setV d.toNat c.lanes fun l => f (k.getV d.toNat l) (k.getV a.toNat l) (k.getV b.toNat l)

/-- The mask of the lanes of a list for which a test holds. -/
def maskOf (f : Nat → Bool) (lanes : List Nat) : W64 :=
  lanes.foldl (fun m l => if f l then m ||| BitVec.ofNat 64 (2 ^ l) else m) 0

/-- A comparison: the mask bits of the active lanes are written, the others left alone (R243). -/
def vcmp (v : VCond) (d : BitVec 3) (a b : BitVec 7) (c : Ctx) (k : Bank) : Bank :=
  k.setM d.toNat ((k.getM d.toNat &&& ~~~c.slot.lanes) |||
    maskOf (fun l => v.holds (k.getV a.toNat l) (k.getV b.toNat l)) c.lanes)

/-- A whole-mask operation of two masks (R244). -/
def mask2 (d a b : BitVec 3) (f : W64 → W64 → W64) (_ : Ctx) (k : Bank) : Bank :=
  k.setM d.toNat (f (k.getM a.toNat) (k.getM b.toNat))

/-- A whole-mask operation of one mask. -/
def mask1 (d a : BitVec 3) (f : W64 → W64) (_ : Ctx) (k : Bank) : Bank := k.setM d.toNat (f (k.getM a.toNat))

/-- A whole mask read into a scalar. -/
def maskS (d : BitVec 7) (a : BitVec 3) (f : W64 → W64) (_ : Ctx) (k : Bank) : Bank :=
  k.setS d.toNat (f (k.getM a.toNat))

/-! ## 32-bit arithmetic (R240, R241) -/

/-- The high half of a signed 32-bit product. -/
def mulHigh32 (a b : W32) : W32 := (a.signExtend 64 * b.signExtend 64).extractLsb' 32 32
/-- The high half of a natural 32-bit product. -/
def mulHighN32 (a b : W32) : W32 := (a.setWidth 64 * b.setWidth 64).extractLsb' 32 32
/-- Clamps an integer to the signed 32-bit range. -/
def clampS (x : Int) : W32 := BitVec.ofInt 32 (if x < -2147483648 then -2147483648 else if 2147483647 < x then 2147483647 else x)
/-- Clamps an integer to the natural 32-bit range. -/
def clampN (x : Int) : W32 := BitVec.ofInt 32 (if x < 0 then 0 else if 4294967295 < x then 4294967295 else x)
/-- The bit field named by b of VBFX. -/
def vbfxOf (a b : W32) : W32 := BitVec.ofNat 32 (bfx 32 a.toNat (bits b.toNat 0 5) (atMost (bits b.toNat 8 6) 32))
/-- The bit field named by b of VBFI replaced. -/
def vbfiOf (d a b : W32) : W32 :=
  BitVec.ofNat 32 (bfi 32 d.toNat a.toNat (bits b.toNat 0 5) (atMost (bits b.toNat 8 6) 32))
/-- The lowest lane of a mask, or 64 (R244). -/
def firstOf (m : W64) : W64 := BitVec.ofNat 64 (((List.range 64).find? fun l => m.toNat.testBit l).getD 64)
/-- imm11 on a lane, sign-extended (R25). -/
def imm11v (i : BitVec 11) : W32 := i.signExtend 32

/-! ## VA and VB -/

/-- VADD (R240). -/
def execVadd (z : Bool) (d a b : BitVec 7) (s : State) :=
  issueBank (descVadd z d a b) s (vec2 d a b (· + ·))
/-- VSUB (R240). -/
def execVsub (z : Bool) (d a b : BitVec 7) (s : State) :=
  issueBank (descVsub z d a b) s (vec2 d a b (· - ·))
/-- VMUL (R240). -/
def execVmul (z : Bool) (d a b : BitVec 7) (s : State) :=
  issueBank (descVmul z d a b) s (vec2 d a b (· * ·))
/-- VMULH (R240). -/
def execVmulh (z : Bool) (d a b : BitVec 7) (s : State) :=
  issueBank (descVmulh z d a b) s (vec2 d a b mulHigh32)
/-- VMULHN (R240). -/
def execVmulhn (z : Bool) (d a b : BitVec 7) (s : State) :=
  issueBank (descVmulhn z d a b) s (vec2 d a b mulHighN32)
/-- VMIN (R240). -/
def execVmin (z : Bool) (d a b : BitVec 7) (s : State) :=
  issueBank (descVmin z d a b) s (vec2 d a b fun x y => if y.slt x then y else x)
/-- VMAX (R240). -/
def execVmax (z : Bool) (d a b : BitVec 7) (s : State) :=
  issueBank (descVmax z d a b) s (vec2 d a b fun x y => if x.slt y then y else x)
/-- VMINN (R240). -/
def execVminn (z : Bool) (d a b : BitVec 7) (s : State) :=
  issueBank (descVminn z d a b) s (vec2 d a b fun x y => if y.ult x then y else x)
/-- VMAXN (R240). -/
def execVmaxn (z : Bool) (d a b : BitVec 7) (s : State) :=
  issueBank (descVmaxn z d a b) s (vec2 d a b fun x y => if x.ult y then y else x)
/-- VAND (R240). -/
def execVand (z : Bool) (d a b : BitVec 7) (s : State) :=
  issueBank (descVand z d a b) s (vec2 d a b (· &&& ·))
/-- VOR (R240). -/
def execVor (z : Bool) (d a b : BitVec 7) (s : State) :=
  issueBank (descVor z d a b) s (vec2 d a b (· ||| ·))
/-- VXOR (R240). -/
def execVxor (z : Bool) (d a b : BitVec 7) (s : State) :=
  issueBank (descVxor z d a b) s (vec2 d a b (· ^^^ ·))
/-- VANDN (R240). -/
def execVandn (z : Bool) (d a b : BitVec 7) (s : State) :=
  issueBank (descVandn z d a b) s (vec2 d a b fun x y => x &&& ~~~y)
/-- VSHL (R240). -/
def execVshl (z : Bool) (d a b : BitVec 7) (s : State) :=
  issueBank (descVshl z d a b) s (vec2 d a b fun x y => x <<< (y.toNat % 32))
/-- VSHR (R240). -/
def execVshr (z : Bool) (d a b : BitVec 7) (s : State) :=
  issueBank (descVshr z d a b) s (vec2 d a b fun x y => x >>> (y.toNat % 32))
/-- VSRA (R240). -/
def execVsra (z : Bool) (d a b : BitVec 7) (s : State) :=
  issueBank (descVsra z d a b) s (vec2 d a b fun x y => x.sshiftRight (y.toNat % 32))
/-- VROTL (R240). -/
def execVrotl (z : Bool) (d a b : BitVec 7) (s : State) :=
  issueBank (descVrotl z d a b) s (vec2 d a b fun x y => x.rotateLeft (y.toNat % 32))
/-- VADDS (R240). -/
def execVadds (z : Bool) (d a b : BitVec 7) (s : State) :=
  issueBank (descVadds z d a b) s (vec2 d a b fun x y => clampS (x.toInt + y.toInt))
/-- VSUBS (R240). -/
def execVsubs (z : Bool) (d a b : BitVec 7) (s : State) :=
  issueBank (descVsubs z d a b) s (vec2 d a b fun x y => clampS (x.toInt - y.toInt))
/-- VADDSN (R240). -/
def execVaddsn (z : Bool) (d a b : BitVec 7) (s : State) :=
  issueBank (descVaddsn z d a b) s (vec2 d a b fun x y => clampN (x.toNat + y.toNat))
/-- VSUBSN (R240). -/
def execVsubsn (z : Bool) (d a b : BitVec 7) (s : State) :=
  issueBank (descVsubsn z d a b) s (vec2 d a b fun x y => clampN (x.toNat - y.toNat))
/-- VMAD (R240). -/
def execVmad (z : Bool) (d a b : BitVec 7) (s : State) :=
  issueBank (descVmad z d a b) s (vec3 d a b fun r x y => r + x * y)
/-- VBFX (R241). -/
def execVbfx (z : Bool) (d a b : BitVec 7) (s : State) :=
  issueBank (descVbfx z d a b) s (vec2 d a b vbfxOf)
/-- VBFI (R241). -/
def execVbfi (z : Bool) (d a b : BitVec 7) (s : State) :=
  issueBank (descVbfi z d a b) s (vec3 d a b vbfiOf)
/-- VABS (R240). -/
def execVabs (z : Bool) (d a : BitVec 7) (s : State) :=
  issueBank (descVabs z d a) s (vec1 d a fun x => if x.slt 0 then -x else x)
/-- VNEG (R240). -/
def execVneg (z : Bool) (d a : BitVec 7) (s : State) :=
  issueBank (descVneg z d a) s (vec1 d a fun x => -x)
/-- VCLZ (R240). -/
def execVclz (z : Bool) (d a : BitVec 7) (s : State) :=
  issueBank (descVclz z d a) s (vec1 d a fun x => BitVec.ofNat 32 (32 - bitLen x.toNat))
/-- VPOPC (R240). -/
def execVpopc (z : Bool) (d a : BitVec 7) (s : State) :=
  issueBank (descVpopc z d a) s (vec1 d a fun x => BitVec.ofNat 32 (popCount x.toNat 32))
/-- VBREV (R240). -/
def execVbrev (z : Bool) (d a : BitVec 7) (s : State) :=
  issueBank (descVbrev z d a) s (vec1 d a fun x => BitVec.ofNat 32 (reverseBits x.toNat 32))
/-- VSEL (R240). -/
def execVsel (z : Bool) (d a : BitVec 7) (m : BitVec 3) (s : State) :=
  issueBank (descVsel z d a m) s fun c k =>
    k.setV d.toNat c.lanes fun l => if (k.getM m.toNat).toNat.testBit l then k.getV a.toNat l else k.getV d.toNat l
/-- VSPLAT (R240). -/
def execVsplat (z : Bool) (d a : BitVec 7) (s : State) :=
  issueBank (descVsplat z d a) s fun c k => k.setV d.toNat c.lanes fun _ => (k.getS a.toNat).setWidth 32
/-- VLANE (R240). -/
def execVlane (z : Bool) (d : BitVec 7) (s : State) :=
  issueBank (descVlane z d) s fun c k => k.setV d.toNat c.lanes fun l => BitVec.ofNat 32 l

/-! ## Immediate forms (R242) -/

/-- VADDI (R242). -/
def execVaddi (z : Bool) (d a : BitVec 7) (i : BitVec 11) (s : State) :=
  issueBank (descVaddi z d a i) s (vec1 d a (· + imm11v i))
/-- VSHLI (R242). -/
def execVshli (z : Bool) (d a : BitVec 7) (n : BitVec 5) (s : State) :=
  issueBank (descVshli z d a n) s (vec1 d a (· <<< n.toNat))
/-- VSHRI (R242). -/
def execVshri (z : Bool) (d a : BitVec 7) (n : BitVec 5) (s : State) :=
  issueBank (descVshri z d a n) s (vec1 d a (· >>> n.toNat))
/-- VSRAI (R242). -/
def execVsrai (z : Bool) (d a : BitVec 7) (n : BitVec 5) (s : State) :=
  issueBank (descVsrai z d a n) s (vec1 d a fun x => x.sshiftRight n.toNat)
/-- VROTLI (R242). -/
def execVrotli (z : Bool) (d a : BitVec 7) (n : BitVec 5) (s : State) :=
  issueBank (descVrotli z d a n) s (vec1 d a fun x => x.rotateLeft n.toNat)

/-! ## Comparisons (R243, R231) -/

/-- CEQ (R243). -/
def execCeq (z : Bool) (d : BitVec 3) (a b : BitVec 7) (s : State) :=
  issueBank (descCeq z d a b) s (vcmp .ceq d a b)
/-- CNE (R243). -/
def execCne (z : Bool) (d : BitVec 3) (a b : BitVec 7) (s : State) :=
  issueBank (descCne z d a b) s (vcmp .cne d a b)
/-- CLT (R243). -/
def execClt (z : Bool) (d : BitVec 3) (a b : BitVec 7) (s : State) :=
  issueBank (descClt z d a b) s (vcmp .clt d a b)
/-- CLE (R243). -/
def execCle (z : Bool) (d : BitVec 3) (a b : BitVec 7) (s : State) :=
  issueBank (descCle z d a b) s (vcmp .cle d a b)
/-- CLTN (R243). -/
def execCltn (z : Bool) (d : BitVec 3) (a b : BitVec 7) (s : State) :=
  issueBank (descCltn z d a b) s (vcmp .cltn d a b)
/-- CLEN (R243). -/
def execClen (z : Bool) (d : BitVec 3) (a b : BitVec 7) (s : State) :=
  issueBank (descClen z d a b) s (vcmp .clen d a b)
/-- FEQ (R243). -/
def execFeq (z : Bool) (d : BitVec 3) (a b : BitVec 7) (s : State) :=
  issueBank (descFeq z d a b) s (vcmp .feq d a b)
/-- FLT (R243). -/
def execFlt (z : Bool) (d : BitVec 3) (a b : BitVec 7) (s : State) :=
  issueBank (descFlt z d a b) s (vcmp .flt d a b)
/-- FLE (R243). -/
def execFle (z : Bool) (d : BitVec 3) (a b : BitVec 7) (s : State) :=
  issueBank (descFle z d a b) s (vcmp .fle d a b)
/-- FUN (R243). -/
def execFun (z : Bool) (d : BitVec 3) (a b : BitVec 7) (s : State) :=
  issueBank (descFun z d a b) s (vcmp .fun_ d a b)
/-- TLT (R231). -/
def execTlt (z : Bool) (d : BitVec 3) (a b : BitVec 7) (s : State) :=
  issueBank (descTlt z d a b) s (vcmp .tlt d a b)
/-- TLE (R231). -/
def execTle (z : Bool) (d : BitVec 3) (a b : BitVec 7) (s : State) :=
  issueBank (descTle z d a b) s (vcmp .tle d a b)
/-- TEQ (R231). -/
def execTeq (z : Bool) (d : BitVec 3) (a b : BitVec 7) (s : State) :=
  issueBank (descTeq z d a b) s (vcmp .teq d a b)

/-! ## Masks (R244) -/

/-- MAND (R244). -/
def execMand (z : Bool) (d a b : BitVec 3) (s : State) := issueBank (descMand z d a b) s (mask2 d a b (· &&& ·))
/-- MOR (R244). -/
def execMor (z : Bool) (d a b : BitVec 3) (s : State) := issueBank (descMor z d a b) s (mask2 d a b (· ||| ·))
/-- MXOR (R244). -/
def execMxor (z : Bool) (d a b : BitVec 3) (s : State) := issueBank (descMxor z d a b) s (mask2 d a b (· ^^^ ·))
/-- MANDN (R244). -/
def execMandn (z : Bool) (d a b : BitVec 3) (s : State) := issueBank (descMandn z d a b) s (mask2 d a b fun x y => x &&& ~~~y)
/-- MNOT (R244). -/
def execMnot (z : Bool) (d a : BitVec 3) (s : State) := issueBank (descMnot z d a) s (mask1 d a fun x => ~~~x)
/-- MMOV (R244). -/
def execMmov (z : Bool) (d a : BitVec 3) (s : State) := issueBank (descMmov z d a) s (mask1 d a fun x => x)
/-- MPOP (R244). -/
def execMpop (z : Bool) (d : BitVec 7) (a : BitVec 3) (s : State) :=
  issueBank (descMpop z d a) s (maskS d a fun x => BitVec.ofNat 64 (popCount x.toNat 64))
/-- MFIRST (R244). -/
def execMfirst (z : Bool) (d : BitVec 7) (a : BitVec 3) (s : State) := issueBank (descMfirst z d a) s (maskS d a firstOf)
/-- MTOS (R244). -/
def execMtos (z : Bool) (d : BitVec 7) (a : BitVec 3) (s : State) :=
  issueBank (descMtos z d a) s (maskS d a fun x => x)
/-- STOM (R244). -/
def execStom (z : Bool) (d : BitVec 3) (a : BitVec 7) (s : State) :=
  issueBank (descStom z d a) s fun _ k => k.setM d.toNat (k.getS a.toNat)
/-- MSET (R244). -/
def execMset (z : Bool) (d : BitVec 3) (s : State) :=
  issueBank (descMset z d) s fun c k => k.setM d.toNat c.slot.lanes

/-! ## FP32 arithmetic (R245 to R247) -/

/-- FADD (R245). -/
def execFadd (z : Bool) (d a b : BitVec 7) (s : State) :=
  issueBank (descFadd z d a b) s (vec2 d a b fadd)
/-- FSUB (R245). -/
def execFsub (z : Bool) (d a b : BitVec 7) (s : State) :=
  issueBank (descFsub z d a b) s (vec2 d a b fsub)
/-- FMUL (R245). -/
def execFmul (z : Bool) (d a b : BitVec 7) (s : State) :=
  issueBank (descFmul z d a b) s (vec2 d a b fmul)
/-- FMIN (R245). -/
def execFmin (z : Bool) (d a b : BitVec 7) (s : State) :=
  issueBank (descFmin z d a b) s (vec2 d a b (fmm false))
/-- FMAX (R245). -/
def execFmax (z : Bool) (d a b : BitVec 7) (s : State) :=
  issueBank (descFmax z d a b) s (vec2 d a b (fmm true))
/-- FMINI (R245). -/
def execFmini (z : Bool) (d a b : BitVec 7) (s : State) :=
  issueBank (descFmini z d a b) s (vec2 d a b (fmmi false))
/-- FMAXI (R245). -/
def execFmaxi (z : Bool) (d a b : BitVec 7) (s : State) :=
  issueBank (descFmaxi z d a b) s (vec2 d a b (fmmi true))
/-- FCPS (R245). -/
def execFcps (z : Bool) (d a b : BitVec 7) (s : State) :=
  issueBank (descFcps z d a b) s (vec2 d a b fcps)
/-- FSCL (R245). -/
def execFscl (z : Bool) (d a b : BitVec 7) (s : State) :=
  issueBank (descFscl z d a b) s (vec2 d a b fscl)
/-- FMA (R245). -/
def execFma (z : Bool) (d a b : BitVec 7) (s : State) :=
  issueBank (descFma z d a b) s (vec3 d a b fun r x y => fma x y r)
/-- FMS (R245). -/
def execFms (z : Bool) (d a b : BitVec 7) (s : State) :=
  issueBank (descFms z d a b) s (vec3 d a b fun r x y => fms x y r)
/-- FNMA (R245). -/
def execFnma (z : Bool) (d a b : BitVec 7) (s : State) :=
  issueBank (descFnma z d a b) s (vec3 d a b fun r x y => fnma x y r)
/-- FABS (R245). -/
def execFabs (z : Bool) (d a : BitVec 7) (s : State) :=
  issueBank (descFabs z d a) s (vec1 d a (· &&& 0x7FFFFFFF))
/-- FNEG (R245). -/
def execFneg (z : Bool) (d a : BitVec 7) (s : State) :=
  issueBank (descFneg z d a) s (vec1 d a (· ^^^ 0x80000000))
/-- FRINT (R245). -/
def execFrint (z : Bool) (d a : BitVec 7) (s : State) :=
  issueBank (descFrint z d a) s (vec1 d a frint)
/-- FCLASS (R247). -/
def execFclass (z : Bool) (d a : BitVec 7) (s : State) :=
  issueBank (descFclass z d a) s (vec1 d a fclass)

/-! ## Conversion (R248, R234) -/

/-- The effect of FCVT: source and destination may be pairs; the rounding mode is that of the function, or rmode. -/
def fcvtEffect (r : BitVec 4) (d a c7 : BitVec 7) (c : Ctx) (k : Bank) : Bank :=
  match cvtTypes c7.toNat with
  | none => k
  | some (dst, src) =>
    let mode := cvtMode r.toNat k.rmode
    let res (l : Nat) : Nat :=
      let x := if c7.toNat = 0x16 || c7.toNat = 0x17 then (k.getV2 a.toNat l).toNat else (k.getV a.toNat l).toNat
      convert dst src mode x (k.getV d.toNat l)
    if c7.toNat = 0x12 || c7.toNat = 0x13 then k.setV2 d.toNat c.lanes fun l => BitVec.ofNat 64 (res l)
    else k.setV d.toNat c.lanes fun l => BitVec.ofNat 32 (res l)

/-- FCVT (R248). -/
def execFcvt (z : Bool) (r : BitVec 4) (d a c : BitVec 7) (s : State) :=
  issueBank (descFcvt z r d a c) s (fcvtEffect r d a c)

/-! ## Division and transcendentals (R249 to R252) -/

/-- FDIV (R249). -/
def execFdiv (z : Bool) (l : BitVec 4) (d a b : BitVec 7) (s : State) :=
  issueBank (descFdiv z l d a b) s (vec2 d a b fdiv)
/-- VTR_SQRT (R251). -/
def execVtrSqrt (z : Bool) (l : BitVec 4) (d a : BitVec 7) (s : State) :=
  issueBank (descVtrSqrt z l d a) s (vec1 d a (vtrF 0))
/-- VTR_RCP (R251). -/
def execVtrRcp (z : Bool) (l : BitVec 4) (d a : BitVec 7) (s : State) :=
  issueBank (descVtrRcp z l d a) s (vec1 d a (vtrF 1))
/-- VTR_RSQ (R251). -/
def execVtrRsq (z : Bool) (l : BitVec 4) (d a : BitVec 7) (s : State) :=
  issueBank (descVtrRsq z l d a) s (vec1 d a (vtrF 2))
/-- VTR_EXP2 (R251). -/
def execVtrExp2 (z : Bool) (l : BitVec 4) (d a : BitVec 7) (s : State) :=
  issueBank (descVtrExp2 z l d a) s (vec1 d a (vtrF 3))
/-- VTR_LOG2 (R251). -/
def execVtrLog2 (z : Bool) (l : BitVec 4) (d a : BitVec 7) (s : State) :=
  issueBank (descVtrLog2 z l d a) s (vec1 d a (vtrF 4))
/-- VTR_EXP (R251). -/
def execVtrExp (z : Bool) (l : BitVec 4) (d a : BitVec 7) (s : State) :=
  issueBank (descVtrExp z l d a) s (vec1 d a (vtrF 5))
/-- VTR_TANH (R251). -/
def execVtrTanh (z : Bool) (l : BitVec 4) (d a : BitVec 7) (s : State) :=
  issueBank (descVtrTanh z l d a) s (vec1 d a (vtrF 6))
/-- VTR_SIN (R251). -/
def execVtrSin (z : Bool) (l : BitVec 4) (d a : BitVec 7) (s : State) :=
  issueBank (descVtrSin z l d a) s (vec1 d a (vtrF 7))
/-- VTR_COS (R251). -/
def execVtrCos (z : Bool) (l : BitVec 4) (d a : BitVec 7) (s : State) :=
  issueBank (descVtrCos z l d a) s (vec1 d a (vtrF 8))

end Sys2Proof.Machine
end

