-- ==== Sys2Proof/Machine/Dispatch.lean ====
section
/-! DEFINITION. The dispatch: one arm for each instruction word and each event, each a direct call of its meaning. -/

namespace Sys2Proof.Machine

def exec (i : Instr) (s : State) : Host.Outcome State Fault Refusal :=
  match i with
  | .add z d a b => Sys2Proof.Machine.execAdd z d a b s
  | .sub z d a b => Sys2Proof.Machine.execSub z d a b s
  | .and z d a b => Sys2Proof.Machine.execAnd z d a b s
  | .or z d a b => Sys2Proof.Machine.execOr z d a b s
  | .xor z d a b => Sys2Proof.Machine.execXor z d a b s
  | .shl z d a b => Sys2Proof.Machine.execShl z d a b s
  | .shr z d a b => Sys2Proof.Machine.execShr z d a b s
  | .sra z d a b => Sys2Proof.Machine.execSra z d a b s
  | .mul z d a b => Sys2Proof.Machine.execMul z d a b s
  | .mulh z d a b => Sys2Proof.Machine.execMulh z d a b s
  | .mulhn z d a b => Sys2Proof.Machine.execMulhn z d a b s
  | .min z d a b => Sys2Proof.Machine.execMin z d a b s
  | .max z d a b => Sys2Proof.Machine.execMax z d a b s
  | .minn z d a b => Sys2Proof.Machine.execMinn z d a b s
  | .maxn z d a b => Sys2Proof.Machine.execMaxn z d a b s
  | .andn z d a b => Sys2Proof.Machine.execAndn z d a b s
  | .slt z d a b => Sys2Proof.Machine.execSlt z d a b s
  | .sltn z d a b => Sys2Proof.Machine.execSltn z d a b s
  | .seq z d a b => Sys2Proof.Machine.execSeq z d a b s
  | .clz z d a => Sys2Proof.Machine.execClz z d a s
  | .popc z d a => Sys2Proof.Machine.execPopc z d a s
  | .brev z d a => Sys2Proof.Machine.execBrev z d a s
  | .rotl z d a b => Sys2Proof.Machine.execRotl z d a b s
  | .bfx z d a b => Sys2Proof.Machine.execBfx z d a b s
  | .bfi z d a b => Sys2Proof.Machine.execBfi z d a b s
  | .div z d a b => Sys2Proof.Machine.execDiv z d a b s
  | .divn z d a b => Sys2Proof.Machine.execDivn z d a b s
  | .rem z d a b => Sys2Proof.Machine.execRem z d a b s
  | .remn z d a b => Sys2Proof.Machine.execRemn z d a b s
  | .csel z d a b => Sys2Proof.Machine.execCsel z d a b s
  | .addw z d a b => Sys2Proof.Machine.execAddw z d a b s
  | .addi z d a im => Sys2Proof.Machine.execAddi z d a im s
  | .andi z d a im => Sys2Proof.Machine.execAndi z d a im s
  | .ori z d a im => Sys2Proof.Machine.execOri z d a im s
  | .xori z d a im => Sys2Proof.Machine.execXori z d a im s
  | .shli z d a n => Sys2Proof.Machine.execShli z d a n s
  | .shri z d a n => Sys2Proof.Machine.execShri z d a n s
  | .srai z d a n => Sys2Proof.Machine.execSrai z d a n s
  | .rotli z d a n => Sys2Proof.Machine.execRotli z d a n s
  | .slti z d a im => Sys2Proof.Machine.execSlti z d a im s
  | .li z d im => Sys2Proof.Machine.execLi z d im s
  | .lis z d im => Sys2Proof.Machine.execLis z d im s
  | .gets z d im => Sys2Proof.Machine.execGets z d im s
  | .sets z a im => Sys2Proof.Machine.execSets z a im s
  | .xlt z a n => Sys2Proof.Machine.execXlt z a n s
  | .setsXsp z a n => Sys2Proof.Machine.execSetsXsp z a n s
  | .win z a im => Sys2Proof.Machine.execWin z a im s
  | .bruEqz z a im => Sys2Proof.Machine.execBruEqz z a im s
  | .bruNez z a im => Sys2Proof.Machine.execBruNez z a im s
  | .bruLtz z a im => Sys2Proof.Machine.execBruLtz z a im s
  | .bruGez z a im => Sys2Proof.Machine.execBruGez z a im s
  | .bruGtz z a im => Sys2Proof.Machine.execBruGtz z a im s
  | .bruLez z a im => Sys2Proof.Machine.execBruLez z a im s
  | .bruAlw z im => Sys2Proof.Machine.execBruAlw z im s
  | .brdSet z a im => Sys2Proof.Machine.execBrdSet z a im s
  | .brdClr z a im => Sys2Proof.Machine.execBrdClr z a im s
  | .jmp z im => Sys2Proof.Machine.execJmp z im s
  | .call z im => Sys2Proof.Machine.execCall z im s
  | .nop z => Sys2Proof.Machine.execNop z s
  | .ret z => Sys2Proof.Machine.execRet z s
  | .jr z a => Sys2Proof.Machine.execJr z a s
  | .callr z a => Sys2Proof.Machine.execCallr z a s
  | .join z => Sys2Proof.Machine.execJoin z s
  | .exit z => Sys2Proof.Machine.execExit z s
  | .yield z => Sys2Proof.Machine.execYield z s
  | .brk z => Sys2Proof.Machine.execBrk z s
  | .trap z d a im => Sys2Proof.Machine.execTrap z d a im s
  | .vadd z d a b => Sys2Proof.Machine.execVadd z d a b s
  | .vsub z d a b => Sys2Proof.Machine.execVsub z d a b s
  | .vmul z d a b => Sys2Proof.Machine.execVmul z d a b s
  | .vmulh z d a b => Sys2Proof.Machine.execVmulh z d a b s
  | .vmulhn z d a b => Sys2Proof.Machine.execVmulhn z d a b s
  | .vmad z d a b => Sys2Proof.Machine.execVmad z d a b s
  | .vmin z d a b => Sys2Proof.Machine.execVmin z d a b s
  | .vmax z d a b => Sys2Proof.Machine.execVmax z d a b s
  | .vminn z d a b => Sys2Proof.Machine.execVminn z d a b s
  | .vmaxn z d a b => Sys2Proof.Machine.execVmaxn z d a b s
  | .vabs z d a => Sys2Proof.Machine.execVabs z d a s
  | .vneg z d a => Sys2Proof.Machine.execVneg z d a s
  | .vand z d a b => Sys2Proof.Machine.execVand z d a b s
  | .vor z d a b => Sys2Proof.Machine.execVor z d a b s
  | .vxor z d a b => Sys2Proof.Machine.execVxor z d a b s
  | .vandn z d a b => Sys2Proof.Machine.execVandn z d a b s
  | .vshl z d a b => Sys2Proof.Machine.execVshl z d a b s
  | .vshr z d a b => Sys2Proof.Machine.execVshr z d a b s
  | .vsra z d a b => Sys2Proof.Machine.execVsra z d a b s
  | .vrotl z d a b => Sys2Proof.Machine.execVrotl z d a b s
  | .vclz z d a => Sys2Proof.Machine.execVclz z d a s
  | .vpopc z d a => Sys2Proof.Machine.execVpopc z d a s
  | .vbrev z d a => Sys2Proof.Machine.execVbrev z d a s
  | .vbfx z d a b => Sys2Proof.Machine.execVbfx z d a b s
  | .vbfi z d a b => Sys2Proof.Machine.execVbfi z d a b s
  | .vadds z d a b => Sys2Proof.Machine.execVadds z d a b s
  | .vsubs z d a b => Sys2Proof.Machine.execVsubs z d a b s
  | .vaddsn z d a b => Sys2Proof.Machine.execVaddsn z d a b s
  | .vsubsn z d a b => Sys2Proof.Machine.execVsubsn z d a b s
  | .vsel z d a m => Sys2Proof.Machine.execVsel z d a m s
  | .vsplat z d a => Sys2Proof.Machine.execVsplat z d a s
  | .vlane z d => Sys2Proof.Machine.execVlane z d s
  | .vaddi z d a im => Sys2Proof.Machine.execVaddi z d a im s
  | .vshli z d a n => Sys2Proof.Machine.execVshli z d a n s
  | .vshri z d a n => Sys2Proof.Machine.execVshri z d a n s
  | .vsrai z d a n => Sys2Proof.Machine.execVsrai z d a n s
  | .vrotli z d a n => Sys2Proof.Machine.execVrotli z d a n s
  | .ceq z d a b => Sys2Proof.Machine.execCeq z d a b s
  | .cne z d a b => Sys2Proof.Machine.execCne z d a b s
  | .clt z d a b => Sys2Proof.Machine.execClt z d a b s
  | .cle z d a b => Sys2Proof.Machine.execCle z d a b s
  | .cltn z d a b => Sys2Proof.Machine.execCltn z d a b s
  | .clen z d a b => Sys2Proof.Machine.execClen z d a b s
  | .feq z d a b => Sys2Proof.Machine.execFeq z d a b s
  | .flt z d a b => Sys2Proof.Machine.execFlt z d a b s
  | .fle z d a b => Sys2Proof.Machine.execFle z d a b s
  | .fun z d a b => Sys2Proof.Machine.execFun z d a b s
  | .tlt z d a b => Sys2Proof.Machine.execTlt z d a b s
  | .tle z d a b => Sys2Proof.Machine.execTle z d a b s
  | .teq z d a b => Sys2Proof.Machine.execTeq z d a b s
  | .mand z d a b => Sys2Proof.Machine.execMand z d a b s
  | .mor z d a b => Sys2Proof.Machine.execMor z d a b s
  | .mxor z d a b => Sys2Proof.Machine.execMxor z d a b s
  | .mandn z d a b => Sys2Proof.Machine.execMandn z d a b s
  | .mnot z d a => Sys2Proof.Machine.execMnot z d a s
  | .mmov z d a => Sys2Proof.Machine.execMmov z d a s
  | .mpop z d a => Sys2Proof.Machine.execMpop z d a s
  | .mfirst z d a => Sys2Proof.Machine.execMfirst z d a s
  | .mtos z d a => Sys2Proof.Machine.execMtos z d a s
  | .stom z d a => Sys2Proof.Machine.execStom z d a s
  | .mset z d => Sys2Proof.Machine.execMset z d s
  | .fadd z d a b => Sys2Proof.Machine.execFadd z d a b s
  | .fsub z d a b => Sys2Proof.Machine.execFsub z d a b s
  | .fmul z d a b => Sys2Proof.Machine.execFmul z d a b s
  | .fma z d a b => Sys2Proof.Machine.execFma z d a b s
  | .fms z d a b => Sys2Proof.Machine.execFms z d a b s
  | .fnma z d a b => Sys2Proof.Machine.execFnma z d a b s
  | .fmin z d a b => Sys2Proof.Machine.execFmin z d a b s
  | .fmax z d a b => Sys2Proof.Machine.execFmax z d a b s
  | .fmini z d a b => Sys2Proof.Machine.execFmini z d a b s
  | .fmaxi z d a b => Sys2Proof.Machine.execFmaxi z d a b s
  | .fabs z d a => Sys2Proof.Machine.execFabs z d a s
  | .fneg z d a => Sys2Proof.Machine.execFneg z d a s
  | .fcps z d a b => Sys2Proof.Machine.execFcps z d a b s
  | .frint z d a => Sys2Proof.Machine.execFrint z d a s
  | .fscl z d a b => Sys2Proof.Machine.execFscl z d a b s
  | .fclass z d a => Sys2Proof.Machine.execFclass z d a s
  | .fcvt z r d a c => Sys2Proof.Machine.execFcvt z r d a c s
  | .fdiv z l d a b => Sys2Proof.Machine.execFdiv z l d a b s
  | .vtrSqrt z l d a => Sys2Proof.Machine.execVtrSqrt z l d a s
  | .vtrRcp z l d a => Sys2Proof.Machine.execVtrRcp z l d a s
  | .vtrRsq z l d a => Sys2Proof.Machine.execVtrRsq z l d a s
  | .vtrExp2 z l d a => Sys2Proof.Machine.execVtrExp2 z l d a s
  | .vtrLog2 z l d a => Sys2Proof.Machine.execVtrLog2 z l d a s
  | .vtrExp z l d a => Sys2Proof.Machine.execVtrExp z l d a s
  | .vtrTanh z l d a => Sys2Proof.Machine.execVtrTanh z l d a s
  | .vtrSin z l d a => Sys2Proof.Machine.execVtrSin z l d a s
  | .vtrCos z l d a => Sys2Proof.Machine.execVtrCos z l d a s
  | .ld z l d a x w h => Sys2Proof.Machine.execLd z l d a x w h s
  | .st z l d a x w h => Sys2Proof.Machine.execSt z l d a x w h s
  | .lds z l d a x w h => Sys2Proof.Machine.execLds z l d a x w h s
  | .sts z l d a x w h => Sys2Proof.Machine.execSts z l d a x w h s
  | .ldp z l d a p w h => Sys2Proof.Machine.execLdp z l d a p w h s
  | .stp z l d a p w h => Sys2Proof.Machine.execStp z l d a p w h s
  | .pkld z l d a x g h => Sys2Proof.Machine.execPkld z l d a x g h s
  | .pkst z l d a x g h => Sys2Proof.Machine.execPkst z l d a x g h s
  | .atomAdd z w l d a x => Sys2Proof.Machine.execAtomAdd z w l d a x s
  | .atomAnd z w l d a x => Sys2Proof.Machine.execAtomAnd z w l d a x s
  | .atomOr z w l d a x => Sys2Proof.Machine.execAtomOr z w l d a x s
  | .atomXor z w l d a x => Sys2Proof.Machine.execAtomXor z w l d a x s
  | .atomMin z w l d a x => Sys2Proof.Machine.execAtomMin z w l d a x s
  | .atomMax z w l d a x => Sys2Proof.Machine.execAtomMax z w l d a x s
  | .atomMinn z w l d a x => Sys2Proof.Machine.execAtomMinn z w l d a x s
  | .atomMaxn z w l d a x => Sys2Proof.Machine.execAtomMaxn z w l d a x s
  | .atomXchg z w l d a x => Sys2Proof.Machine.execAtomXchg z w l d a x s
  | .atomInc z w l d a x => Sys2Proof.Machine.execAtomInc z w l d a x s
  | .atomDec z w l d a x => Sys2Proof.Machine.execAtomDec z w l d a x s
  | .atomFadd z l d a x => Sys2Proof.Machine.execAtomFadd z l d a x s
  | .redAdd z w l d a x => Sys2Proof.Machine.execRedAdd z w l d a x s
  | .redAnd z w l d a x => Sys2Proof.Machine.execRedAnd z w l d a x s
  | .redOr z w l d a x => Sys2Proof.Machine.execRedOr z w l d a x s
  | .redXor z w l d a x => Sys2Proof.Machine.execRedXor z w l d a x s
  | .redMin z w l d a x => Sys2Proof.Machine.execRedMin z w l d a x s
  | .redMax z w l d a x => Sys2Proof.Machine.execRedMax z w l d a x s
  | .redMinn z w l d a x => Sys2Proof.Machine.execRedMinn z w l d a x s
  | .redMaxn z w l d a x => Sys2Proof.Machine.execRedMaxn z w l d a x s
  | .redXchg z w l d a x => Sys2Proof.Machine.execRedXchg z w l d a x s
  | .redInc z w l d a x => Sys2Proof.Machine.execRedInc z w l d a x s
  | .redDec z w l d a x => Sys2Proof.Machine.execRedDec z w l d a x s
  | .redFadd z l d a x => Sys2Proof.Machine.execRedFadd z l d a x s
  | .cas z l d a x w h => Sys2Proof.Machine.execCas z l d a x w h s
  | .waitcEq z d a x t => Sys2Proof.Machine.execWaitcEq z d a x t s
  | .waitcNe z d a x t => Sys2Proof.Machine.execWaitcNe z d a x t s
  | .waitcLt z d a x t => Sys2Proof.Machine.execWaitcLt z d a x t s
  | .waitcGe z d a x t => Sys2Proof.Machine.execWaitcGe z d a x t s
  | .waitcLtn z d a x t => Sys2Proof.Machine.execWaitcLtn z d a x t s
  | .waitcGen z d a x t => Sys2Proof.Machine.execWaitcGen z d a x t s
  | .waitcAny z d a x t => Sys2Proof.Machine.execWaitcAny z d a x t s
  | .copy z l d a b => Sys2Proof.Machine.execCopy z l d a b s
  | .cwait z d a b => Sys2Proof.Machine.execCwait z d a b s
  | .cstat z d b => Sys2Proof.Machine.execCstat z d b s
  | .publish z a => Sys2Proof.Machine.execPublish z a s
  | .shadow z d a b => Sys2Proof.Machine.execShadow z d a b s
  | .fence z k => Sys2Proof.Machine.execFence z k s
  | .clean z v a b => Sys2Proof.Machine.execClean z v a b s
  | .inval z v a b => Sys2Proof.Machine.execInval z v a b s
  | .clinv z v a b => Sys2Proof.Machine.execClinv z v a b s
  | .mbatch z d => Sys2Proof.Machine.execMbatch z d s
  | .mwait z a => Sys2Proof.Machine.execMwait z a s
  | .mbx z d a b => Sys2Proof.Machine.execMbx z d a b s
  | .msq z d a b => Sys2Proof.Machine.execMsq z d a b s
  | .twr z t r k v im => Sys2Proof.Machine.execTwr z t r k v im s
  | .trd z t r k v im => Sys2Proof.Machine.execTrd z t r k v im s
  | .mloop z d a b => Sys2Proof.Machine.execMloop z d a b s
  | .had z d a b => Sys2Proof.Machine.execHad z d a b s
  | .qnt z d a b => Sys2Proof.Machine.execQnt z d a b s
  | .tdrDiff z d a => Sys2Proof.Machine.execTdrDiff z d a s
  | .tdrCanc z d a => Sys2Proof.Machine.execTdrCanc z d a s
  | .tdrAgree z d a => Sys2Proof.Machine.execTdrAgree z d a s
  | .tdrRaw z d a => Sys2Proof.Machine.execTdrRaw z d a s
  | .tzero z d => Sys2Proof.Machine.execTzero z d s
  | .tcopy z d a => Sys2Proof.Machine.execTcopy z d a s
  | .tstat z d a b => Sys2Proof.Machine.execTstat z d a b s
  | .tsets z d a b => Sys2Proof.Machine.execTsets z d a b s
  | .kvld z l d a b => Sys2Proof.Machine.execKvld z l d a b s
  | .kvapp z d a b => Sys2Proof.Machine.execKvapp z d a b s
  | .kvfork z d a b => Sys2Proof.Machine.execKvfork z d a b s
  | .kvtrim z d a => Sys2Proof.Machine.execKvtrim z d a s
  | .kvq z d a b => Sys2Proof.Machine.execKvq z d a b s
  | .kvpin z a => Sys2Proof.Machine.execKvpin z a s
  | .kvunpin z a => Sys2Proof.Machine.execKvunpin z a s
  | .pass z d a => Sys2Proof.Machine.execPass z d a s
  | .take z d a => Sys2Proof.Machine.execTake z d a s
  | .query z d => Sys2Proof.Machine.execQuery z d s
  | .bar z => Sys2Proof.Machine.execBar z s
  | .gbar z a => Sys2Proof.Machine.execGbar z a s
  | .arrive z d a => Sys2Proof.Machine.execArrive z d a s
  | .await z a b => Sys2Proof.Machine.execAwait z a b s
  | .tokw z => Sys2Proof.Machine.execTokw z s
  | .tokp z => Sys2Proof.Machine.execTokp z s
  | .tickq z d b => Sys2Proof.Machine.execTickq z d b s
  | .launch z d a => Sys2Proof.Machine.execLaunch z d a s
  | .weave z d a n => Sys2Proof.Machine.execWeave z d a n s
  | .wdraft z n a => Sys2Proof.Machine.execWdraft z n a s
  | .shfl z d a b => Sys2Proof.Machine.execShfl z d a b s
  | .rsum z d a t => Sys2Proof.Machine.execRsum z d a t s
  | .rmin z d a t => Sys2Proof.Machine.execRmin z d a t s
  | .rmax z d a t => Sys2Proof.Machine.execRmax z d a t s
  | .argmin z d a t => Sys2Proof.Machine.execArgmin z d a t s
  | .argmax z d a t => Sys2Proof.Machine.execArgmax z d a t s
  | .scan z d a t => Sys2Proof.Machine.execScan z d a t s
  | .pkx z d a g => Sys2Proof.Machine.execPkx z d a g s
  | .pki z d a g => Sys2Proof.Machine.execPki z d a g s
  | .alset z g a => Sys2Proof.Machine.execAlset z g a s
  | .alget z d g => Sys2Proof.Machine.execAlget z d g s
  | .rand z d a b => Sys2Proof.Machine.execRand z d a b s
  | .fxsplit z d a => Sys2Proof.Machine.execFxsplit z d a s
  | .fxjoin z d a o => Sys2Proof.Machine.execFxjoin z d a o s
  | .crc z d a b => Sys2Proof.Machine.execCrc z d a b s
  | .clk z d b => Sys2Proof.Machine.execClk z d b s
  | .eret z => Sys2Proof.Machine.execEret z s
  | .grd z d a => Sys2Proof.Machine.execGrd z d a s
  | .gwr z a b => Sys2Proof.Machine.execGwr z a b s
  | .gres z a => Sys2Proof.Machine.execGres z a s
  | .gkill z a b => Sys2Proof.Machine.execGkill z a b s
  | .tqpop z d a b => Sys2Proof.Machine.execTqpop z d a b s
  | .xset z a b => Sys2Proof.Machine.execXset z a b s
  | .ckpt z d a b => Sys2Proof.Machine.execCkpt z d a b s
  | .walkComplete g sl => Sys2Proof.Machine.execWalkComplete g sl s
  | .runAheadEnd g => Sys2Proof.Machine.execRunAheadEnd g s
  | .prgResponse part rid success => Sys2Proof.Machine.execPrgResponse part rid success s
  | .atsTranslationCompletion part pasid va present rd w hpa size => Sys2Proof.Machine.execAtsTranslationCompletion part pasid va present rd w hpa size s
  | .atsInvalidateRequest part pasid start len => Sys2Proof.Machine.execAtsInvalidateRequest part pasid start len s
  | .invalidationComplete part iid => Sys2Proof.Machine.execInvalidationComplete part iid s
  | .stage2FaultResolved part rec ok => Sys2Proof.Machine.execStage2FaultResolved part rec ok s
  | .kvInvalidation part space seq => Sys2Proof.Machine.execKvInvalidation part space seq s
  | .frameGrant die core frames => Sys2Proof.Machine.execFrameGrant die core frames s
  | .refillRetry die core => Sys2Proof.Machine.execRefillRetry die core s
  | .refillDeferred die core => Sys2Proof.Machine.execRefillDeferred die core s
  | .cooperFillRequest pa sym => Sys2Proof.Machine.execCooperFillRequest pa sym s
  | .cooperWritebackRequest pa => Sys2Proof.Machine.execCooperWritebackRequest pa s
  | .cooperLpddrFillDone die slot => Sys2Proof.Machine.execCooperLpddrFillDone die slot s
  | .cooperIndexRelease die slot => Sys2Proof.Machine.execCooperIndexRelease die slot s
  | .cooperReady => Sys2Proof.Machine.execCooperReady s
  | .replicatedStore part pa n v => Sys2Proof.Machine.execReplicatedStore part pa n v s
  | .replicaAck part rid die => Sys2Proof.Machine.execReplicaAck part rid die s
  | .l2FillRequest req h => Sys2Proof.Machine.execL2FillRequest req h s
  | .l2FillDone pa sym => Sys2Proof.Machine.execL2FillDone pa sym s
  | .l1Writeback die core line => Sys2Proof.Machine.execL1Writeback die core line s
  | .flitTransferReceive slice taker hdr payload badParity => Sys2Proof.Machine.execFlitTransferReceive slice taker hdr payload badParity s
  | .monitorWake g sl => Sys2Proof.Machine.execMonitorWake g sl s
  | .waitcPoll g sl => Sys2Proof.Machine.execWaitcPoll g sl s
  | .waitcTimeout g sl => Sys2Proof.Machine.execWaitcTimeout g sl s
  | .waitcRemotePoll g sl => Sys2Proof.Machine.execWaitcRemotePoll g sl s
  | .updateCopyRecall line => Sys2Proof.Machine.execUpdateCopyRecall line s
  | .copyStart die core ch => Sys2Proof.Machine.execCopyStart die core ch s
  | .copyElementWritten die core ch => Sys2Proof.Machine.execCopyElementWritten die core ch s
  | .stackSpill g => Sys2Proof.Machine.execStackSpill g s
  | .stackFill g => Sys2Proof.Machine.execStackFill g s
  | .matrixInstructionStart die core quad => Sys2Proof.Machine.execMatrixInstructionStart die core quad s
  | .matrixKStepComplete die core quad => Sys2Proof.Machine.execMatrixKStepComplete die core quad s
  | .peerAccessArrival op pa n v v2 => Sys2Proof.Machine.execPeerAccessArrival op pa n v v2 s
  | .cxlMemAccess part store pa n v => Sys2Proof.Machine.execCxlMemAccess part store pa n v s
  | .cxlCacheInvalidation part pa n v => Sys2Proof.Machine.execCxlCacheInvalidation part pa n v s
  | .abortCompletion a => Sys2Proof.Machine.execAbortCompletion a s
  | .launchRecordStart part => Sys2Proof.Machine.execLaunchRecordStart part s
  | .dispatchRangeHandout launch die => Sys2Proof.Machine.execDispatchRangeHandout launch die s
  | .dispatchRangeSplit launch die dst n => Sys2Proof.Machine.execDispatchRangeSplit launch die dst n s
  | .blockPlace launch unit die core => Sys2Proof.Machine.execBlockPlace launch unit die core s
  | .gangPlace launch unit die nbhd => Sys2Proof.Machine.execGangPlace launch unit die nbhd s
  | .preempt launch unit => Sys2Proof.Machine.execPreempt launch unit s
  | .preemptSpill launch unit => Sys2Proof.Machine.execPreemptSpill launch unit s
  | .compactCore die core => Sys2Proof.Machine.execCompactCore die core s
  | .unitRetire launch unit => Sys2Proof.Machine.execUnitRetire launch unit s
  | .leaderElection launch lost => Sys2Proof.Machine.execLeaderElection launch lost s
  | .runIssue die core quad => Sys2Proof.Machine.execRunIssue die core quad s
  | .stagedListRelease launch => Sys2Proof.Machine.execStagedListRelease launch s
  | .handlerEntry die core quad => Sys2Proof.Machine.execHandlerEntry die core quad s
  | .handlerAbandon die core quad => Sys2Proof.Machine.execHandlerAbandon die core quad s
  | .lqtailWrite acc q v => Sys2Proof.Machine.execLqtailWrite acc q v s
  | .scheadWrite acc v => Sys2Proof.Machine.execScheadWrite acc v s
  | .sctag acc tag => Sys2Proof.Machine.execSctag acc tag s
  | .tqpopid acc => Sys2Proof.Machine.execTqpopid acc s
  | .tqres acc rid => Sys2Proof.Machine.execTqres acc rid s
  | .tqabn acc rid => Sys2Proof.Machine.execTqabn acc rid s
  | .invctlGo acc v => Sys2Proof.Machine.execInvctlGo acc v s
  | .registerWrite acc off v => Sys2Proof.Machine.execRegisterWrite acc off v s
  | .monitorLatch acc m => Sys2Proof.Machine.execMonitorLatch acc m s
  | .monitorClear acc m => Sys2Proof.Machine.execMonitorClear acc m s
  | .monitorSample part m v => Sys2Proof.Machine.execMonitorSample part m v s
  | .partitionReconfigure n => Sys2Proof.Machine.execPartitionReconfigure n s
  | .powerOnBoot record imageA imageB => Sys2Proof.Machine.execPowerOnBoot record imageA imageB s
  | .getMeasurements => Sys2Proof.Machine.execGetMeasurements s
  | .challenge nonce => Sys2Proof.Machine.execChallenge nonce s
  | .dieFence die => Sys2Proof.Machine.execDieFence die s
  | .dieReturn die => Sys2Proof.Machine.execDieReturn die s
  | .hbmRowSpare pa n fix => Sys2Proof.Machine.execHbmRowSpare pa n fix s
  | .firmwareUpdate image => Sys2Proof.Machine.execFirmwareUpdate image s
  | .thermalThrottle => Sys2Proof.Machine.execThermalThrottle s
  | .cxlLinkError part => Sys2Proof.Machine.execCxlLinkError part s
  | .peerLinkFailure f => Sys2Proof.Machine.execPeerLinkFailure f s
  | .illegalInstructionWord word => Sys2Proof.Machine.execIllegalInstructionWord word s
  | .kvFaultResolved part rid ok => Sys2Proof.Machine.execKvFaultResolved part rid ok s
  | .cooperLpddrWriteDone die slot => Sys2Proof.Machine.execCooperLpddrWriteDone die slot s
  | .remoteAccessResponse g => Sys2Proof.Machine.execRemoteAccessResponse g s
  | .matrixInstructionComplete die core quad => Sys2Proof.Machine.execMatrixInstructionComplete die core quad s
  | .launchCancel launch => Sys2Proof.Machine.execLaunchCancel launch s
  | .machineCheckClear part => Sys2Proof.Machine.execMachineCheckClear part s
  | .checkpointRestore part pa gen => Sys2Proof.Machine.execCheckpointRestore part pa gen s
  | .powerOff => Sys2Proof.Machine.execPowerOff s

end Sys2Proof.Machine
end

