-- ==== Sys2Proof/Machine/Fetch.lean ====
section
/-! DEFINITION. The fetch of an instruction word, the passing of time, and how a word is placed where the machine fetches
(R22, R41, R105; log entries 5, 6 and 10). -/

namespace Sys2Proof.Machine

/-- The step that begins: the clocks move on (log entry 5). -/
noncomputable def State.tick (s : State) : State :=
  { s with
    free := s.free + 1
    cycle := s.cycle + 1 + Config.stepCycles s.free
    nanos := s.nanos + Config.stepNanos s.free }

/-- The outcome of a fetch. -/
inductive Fetched where
  | word (w : Nat) (s : State)
  | fault (f : FaultRec)
  | abort (s : State)
  | wait (w : Wait)
  deriving DecidableEq, Repr, Inhabited

/-- Fetches the word at an address: Translate with kind fetch on the TLB path, then four bytes (R22, R105). -/
def State.fetch (s : State) (q : Req) (pc : W64) : Fetched :=
  match s.translateTlb q pc.toNat .fetch with
  | .fault f => .fault f
  | .abort s => .abort s
  | .wait w => .wait w
  | .ok pa repl s =>
    match s.engineLoad q (loadAddr q repl pa) 4 with
    | .ok v s => .word v s
    | .abort s => .abort s
    | .wait w => .wait w

/-- What the fetch of the issuing slot finds. -/
def State.fetchIssue (s : State) (c : Ctx) : Fetched := s.fetch c.q c.pc

/-- A fetch fault stops the group at the instruction (R105, R339); in run-ahead it ends run-ahead with cause 7, and an
XLATE adds its page (R94, R95). -/
def State.fetchFault (s : State) (c : Ctx) (f : FaultRec) : State :=
  match c.grp.ahead with
  | none => s.fail c f
  | some _ =>
    let s := if f.cls = .xlate then
        (s.dropAts c.q f).modAhead c.g fun a =>
          { a with pages := (addPage a.pages (pageOf f (a.count == 0))).take 32, s2 := addS2 a.s2 f.s2 }
      else s
    s.aheadEnd c 7

/-- A fetch that gave no word: a fault, an abort completion, or a wait for ATS. -/
def State.noWord (s : State) (c : Ctx) : Fetched → State
  | .word _ s => s
  | .fault f => s.fetchFault c f
  | .abort s => if c.grp.ahead.isSome then s.aheadEnd c 7 else s.failAbort c
  | .wait w =>
    match w with
    | .ats page => (s.park c (.fetch page)).askAts c.q w
    | w => s.park c w

/-! ## Placing a word -/

/-- The record of a launch of one block with one group of 64 lanes and eight vector registers. -/
def placedRecord : List W64 :=
  [0x10000, 0x10000, 0, 0, 0, 2, 1 <<< 32, 0, 1, 0, 0, 0, 0, 0, 0, 0, 0, 0, 0, 0, 0, 0, 0, 0, 0, 0, 0, 0, 0, 0, 0, 0]

/-- A machine in which a loader has placed one group: module power, partition 0 with compute die 0, a launch of one group,
a translation of its code page in the core's TLB, and the group's run in progress (log entry 6). -/
def State.placed (s : State) : State :=
  let tr : Trans := {
    vbase := 0x10000, frame := 0x10000, ipa := 0x10000, size := .k64, size2 := .k64, p1 := { x := true }, p2 := { x := true }
    host := false, repl := false }
  let b : Bank := { slotA := { pc := 0x10000, lanes := BitVec.allOnes 64 } }
  { s with
    power := true
    ready := BitVec.ofNat 64 (2 ^ 59 - 1)
    parts := mset {} s.parts 0 { s.part 0 with dies := [0], nextLaunch := 2 }
    cores := mset {} s.cores 0 { s.core 0 0 with
      tlb := [{ part := 0, tag := 0, tr := tr }], quads := [(0, { cur := some (.grp 8 0 0, .a, 0) })] }
    launches := aput 8 { part := 0, id := 1, record := placedRecord, counter := 1, held := [(0, 0)] } s.launches
    blocks := aput ⟨8, 0⟩ { place := .core 0 0 } s.blocks
    groups := aput (.grp 8 0 0) { b := b } s.groups
    cur := some (0, 0, 0) }

/-- The physical address of the word that the issuing slot fetches next. -/
def State.fetchAddr (s : State) : Option Nat :=
  match s.issuing with
  | none => none
  | some c =>
    match s.translateTlb c.q c.pc.toNat .fetch with
    | .ok pa repl _ => if isRemote pa then none else some (loadAddr c.q repl pa)
    | _ => none

/-- Stores a word of nbits bits at the address where the next instruction is fetched. -/
def State.withWord (s : State) (nbits w : Nat) : State :=
  let put (s : State) (pa : Nat) : State := { s with mem := storeN s.mem pa (w % 2 ^ nbits) 4, agenda := [] }
  match s.fetchAddr with
  | some pa => put s pa
  | none => put s.placed 0x10000

end Sys2Proof.Machine
end

