-- ==== Sys2Proof/Machine/Schedule.lean ====
section
/-! DEFINITION. What the machine does by itself between the instructions of a run: one event at a time, the first that is
due in a fixed order (log entry 4). Every other order is had by an agenda (log entry 3). -/

namespace Sys2Proof.Machine

/-- What the machine may do next, if it changes anything. -/
abbrev Due := Option State

/-- An event that leaves the machine as it was is not due. -/
def State.moved (s : State) (o : Host.Outcome State Fault Refusal) : Due :=
  match o with
  | .next t => if t = s then none else some t
  | _ => none

/-- The groups and handlers on a core, with where they are. -/
def State.placedGroups (s : State) : List (GId × Grp) :=
  s.groups.filter fun e => isHdl e.1 || (s.block (bidOf e.1)).at?.isSome

/-- The quadrants that have a group or a handler: die, core, quadrant. -/
def State.liveQuads (s : State) : List (Nat × Nat × Nat) := distinct (s.placedGroups.map fun e => s.whereIs e.1)

/-- A quadrant's number in the order of turns. -/
def quadNo (p : Nat × Nat × Nat) : Nat := 4 * (256 * p.1 + p.2.1) + p.2.2

/-- The quadrants in the order of their turns: those after the one that started a run last, then the others. -/
def State.turns (s : State) : List (Nat × Nat × Nat) :=
  let l := s.liveQuads.mergeSort fun a b => decide (quadNo a ≤ quadNo b)
  (l.filter fun p => decide (s.turn < quadNo p)) ++ l.filter fun p => decide (quadNo p ≤ s.turn)

/-! ## Instructions that wait -/

/-- Wakes on their way (R162). -/
def State.dueWake (s : State) : Due := s.wakes.findSome? fun w => s.moved (execMonitorWake w.g w.sl s)

/-- Handlers that enter or are abandoned (R374, R375). -/
def State.dueHandler (s : State) : Due :=
  s.cores.findSome? fun e => (List.range 4).findSome? fun q =>
    (s.moved (execHandlerEntry (e.1 / 256) (e.1 % 256) q s)).or (s.moved (execHandlerAbandon (e.1 / 256) (e.1 % 256) q s))

/-- Run-ahead that has ended (R95). -/
def State.dueAhead (s : State) : Due :=
  s.groups.findSome? fun e => match e.2.ahead with
    | none => none
    | some a => if a.ended.isSome then s.moved (execRunAheadEnd e.1 s) else none

/-- A slot's WAITC: its time or its next re-check (R163, R164, R307). -/
def State.dueCond (s : State) (g : GId) (sl : SlotId) (x : Slot) : Due :=
  match x.wait with
  | .cond _ _ _ _ _ _ _ _ =>
    ((s.moved (execWaitcTimeout g sl s)).or (s.moved (execWaitcPoll g sl s))).or (s.moved (execWaitcRemotePoll g sl s))
  | _ => none

/-- The WAITCs of all groups, those of blocks that are out too (R163). -/
def State.dueWaitc (s : State) : Due :=
  s.groups.findSome? fun e => (s.dueCond e.1 .a e.2.b.slotA).or (s.dueCond e.1 .b e.2.b.slotB)

/-- Stack caches to spill or to fill (R177). -/
def State.dueStack (s : State) : Due :=
  s.groups.findSome? fun e => (s.moved (execStackSpill e.1 s)).or (s.moved (execStackFill e.1 s))

/-! ## Accesses and engines -/

/-- Accesses beyond the package (R309). -/
def State.dueRemote (s : State) : Due := s.remote.findSome? fun r => s.moved (execRemoteAccessResponse r.g s)

/-- Invalidations (R101) and stores to replicas (R145). -/
def State.dueInval (s : State) : Due :=
  s.parts.findSome? fun e =>
    (e.2.invs.findSome? fun i => s.moved (execInvalidationComplete e.1 i.id s)).or
      (e.2.repl.findSome? fun r => e.2.dies.findSome? fun d => s.moved (execReplicaAck e.1 r.rid d s))

/-- Loads held at a replica (R145). -/
def State.dueLoad (s : State) : Due :=
  s.groups.findSome? fun e => (s.moved (.next (s.landSlot e.1 .a))).or (s.moved (.next (s.landSlot e.1 .b)))

/-- Accesses from outside that were held at a replica (R145). -/
def State.dueOut (s : State) : Due := s.outHeld.findSome? fun x => s.moved (.next (s.outRetry x))

/-- Refills that the cores post again (R116). -/
def State.dueRefill (s : State) : Due :=
  s.cores.findSome? fun e =>
    (s.moved (execRefillRetry (e.1 / 256) (e.1 % 256) s)).or (s.moved (execRefillDeferred (e.1 / 256) (e.1 % 256) s))

/-- The copy channels (R181). -/
def State.dueCopy (s : State) : Due :=
  s.copies.findSome? fun x => match (s.block x.bid).copyCore with
    | none => none
    | some p => s.moved (.next (s.copyStep p.1 p.2 x.ch))

/-- The matrix engines (R265, R267, R274). -/
def State.dueMatrix (s : State) : Due :=
  (distinct (s.matq.map fun m => s.whereIs m.g)).findSome? fun p =>
    ((s.moved (execMatrixKStepComplete p.1 p.2.1 p.2.2 s)).or
      (s.moved (execMatrixInstructionComplete p.1 p.2.1 p.2.2 s))).or
      (s.moved (execMatrixInstructionStart p.1 p.2.1 p.2.2 s))

/-- Fills and writes of the memory side that are on their way (R140, R150), and the Cooper once the Chandler runs (R143). -/
def State.dueFill (s : State) : Due :=
  (s.dies.findSome? fun e =>
    ((e.2.coopWrites.findSome? fun w => s.moved (execCooperLpddrWriteDone e.1 w.slot s)).or
      (e.2.coopFills.findSome? fun w => s.moved (execCooperLpddrFillDone e.1 w.slot s))).or
      (e.2.l2Fills.findSome? fun f => s.moved (execL2FillDone (256 * f.line) 0 s))).or
    (if s.readyBit 34 then none else s.moved (execCooperReady s))

/-! ## Launches -/

/-- The dies of a launch's partition. -/
def State.diesFor (s : State) (l : Launch) : List Nat := if l.ended.isSome then [] else (s.part l.part).dies

/-- The halt of a partition's launches by a machine check (R142, R422). -/
def State.dueHalt (s : State) : Due :=
  s.parts.findSome? fun e =>
    match e.2.mcheck with
    | none => none
    | some r => some ((s.modPart e.1 fun p => { p with mcheck := none }).haltPart e.1 r)

/-- Pre-emptions that waited for a handler (R375). -/
def State.duePend (s : State) : Due :=
  s.pends.findSome? fun p => if p.by_.isNone then s.moved (execPreempt p.launch p.unit s) else none

/-- Images to be written (R344), and dies whose fence waits for units to leave (R397). -/
def State.dueSwitch (s : State) : Due :=
  (s.launches.findSome? fun e =>
    (distinct ((s.blocks.filter fun b => b.1.launch == e.1).map fun b => e.2.unitOf b.1.flat)).findSome? fun u =>
      s.moved (execPreemptSpill e.1 u s)).or
    (s.fencing.findSome? fun d => s.moved (execDieFence d s))

/-- Leaders to be elected (R326), and completion records to be written (R320). -/
def State.dueLaunch (s : State) : Due :=
  s.launches.findSome? fun e =>
    (if e.2.ended.isNone && !s.dieReady e.2.leader then s.moved (execLeaderElection e.1 e.2.leader s) else none).or
      (s.moved (.next (s.writeCompletion e.1)))

/-- Staged lists to be released (R354) and units to be retired (R325). -/
def State.dueRetire (s : State) : Due :=
  s.launches.findSome? fun e =>
    (if s.releaseDue e.1 then s.moved (execStagedListRelease e.1 s) else none).or
      (e.2.held.findSome? fun u => s.moved (execUnitRetire e.1 u.1 s))

/-- Records of the queues (R321). -/
def State.dueStart (s : State) : Due := s.parts.findSome? fun e => s.moved (execLaunchRecordStart e.1 s)

/-- Units to be placed (R327, R329). -/
def State.duePlace (s : State) : Due :=
  s.launches.findSome? fun e => (s.diesFor e.2).findSome? fun d =>
    match e.2.nextFor d with
    | none => none
    | some u =>
      match s.roomFor e.1 u d with
      | none => none
      | some p => s.moved (if e.2.hasGang then execGangPlace e.1 u d p s else execBlockPlace e.1 u d p s)

/-- Ranges for dispatchers that have none of the launch (R324). -/
def State.dueRange (s : State) : Due :=
  s.launches.findSome? fun e => (s.diesFor e.2).findSome? fun d =>
    if e.2.handed.any fun x => x.2 == d then none else s.moved (execDispatchRangeHandout e.1 d s)

/-- The pre-emptible unit that gives way on a die to one of priority p: of the lowest priority, the most recently placed
(R330). -/
def State.victim (s : State) (die p : Nat) : Option (Nat × Nat) :=
  let us := s.launches.flatMap fun e =>
    if e.2.pre && e.2.ended.isNone && decide (e.2.prio < p) then
      ((e.2.held.filter fun u => u.2 == die).map (·.1)).filterMap fun u =>
        if s.resident e.1 u then
          some (e.2.prio, ((e.2.bidsOf e.1 u).map fun b => (s.block b).placedAt).foldl max 0, e.1, u)
        else none
    else []
  let low := us.foldl (fun m x => min m x.1) p
  let new := (us.filter fun x => x.1 == low).foldl (fun m x => max m x.2.1) 0
  (us.find? fun x => x.1 == low && x.2.1 == new).map fun x => (x.2.2.1, x.2.2.2)

/-- Units that give way to one of higher priority, which then fits or fits when more have given way, and cores that are emptied for
another P (R330; log entry 4). -/
def State.dueGiveWay (s : State) : Due :=
  s.launches.findSome? fun e => (s.diesFor e.2).findSome? fun d =>
    match e.2.nextFor d with
    | none => none
    | some u =>
      if (s.roomFor e.1 u d).isSome then none
      else
        (match if s.couldFit e.1 u d then s.victim d e.2.prio else none with
          | none => none
          | some v => s.moved (execPreempt v.1 v.2 s)).or
          ((List.range coresInUse).findSome? fun c => s.moved (execCompactCore d (s.physCore d c) s))

/-! ## Issue -/

/-- A run in progress that cannot issue is dropped; another goes on or starts (R340). -/
def State.dueRun (s : State) : Due :=
  s.turns.findSome? fun p =>
    if (s.quad p.1 p.2.1 p.2.2).cur.isSome && ({ s with cur := some p } : State).issuing.isNone then
      some { s.modQuad p.1 p.2.1 p.2.2 (fun x => { x with cur := none }) with cur := none }
    else s.moved (execRunIssue p.1 p.2.1 p.2.2 s)

/-- The order of what is due. -/
def dues : List (State → Due) :=
  [State.dueHalt, State.duePend, State.dueHandler, State.dueWake, State.dueAhead, State.dueWaitc, State.dueStack,
    State.dueRemote, State.dueLoad, State.dueInval, State.dueOut, State.dueRefill, State.dueFill, State.dueCopy, State.dueMatrix,
    State.dueSwitch, State.dueLaunch, State.dueRetire, State.dueStart, State.duePlace, State.dueRange, State.dueGiveWay,
    State.dueRun]

/-- What is due first. -/
def State.due (s : State) : Due := dues.findSome? fun f => f s

/-- The machine goes on by itself; with nothing due, only time passes. -/
def State.autoStep (s : State) : Host.Outcome State Fault Refusal := .next (s.due.getD s)

end Sys2Proof.Machine
end

