-- ==== Sys2Proof/Machine/Step.lean ====
section
/-! DEFINITION. One step of the machine: an event of the agenda, an instruction of the run in progress, or what the machine
does by itself. -/

namespace Sys2Proof.Machine

/-- Fetches, decodes and executes the instruction of the slot whose run is in progress. -/
noncomputable def runStep (c : Ctx) (s : State) : Host.Outcome State Fault Refusal :=
  match s.fetchIssue c with
  | .word w s =>
    match decode w with
    | .ok i => exec i s
    | .error _ => execIllegalInstructionWord (BitVec.ofNat 32 w) s
  | f => .next (s.noWord c f)

/-- One step. An event at the head of the agenda comes next; an instruction word there lets the machine go on by itself
(log entry 3). -/
noncomputable def step (s : State) : Host.Outcome State Fault Refusal :=
  let s := s.tick
  match s.agenda with
  | i :: r => if i.isWord then { s with agenda := r }.autoStep else exec i { s with agenda := r }
  | [] =>
    match s.issuing with
    | some c => runStep c s
    | none => s.autoStep

/-- The state in which the next step fetches and runs the instruction of nbits bits w. -/
def State.withFetchWord (s : State) (nbits w : Nat) : State := s.withWord nbits w

end Sys2Proof.Machine
end

