-- ==== Sys2Proof/Safety.lean ====
section
/-! DEFINITION. The terms in which claims about the machine are made: canonical memory, a word that executes, what an
instruction changed and what it left alone. -/

namespace Sys2Proof.Machine

/-! ## Memory -/

/-- The canonical form of a memory layer: addresses strictly rising, no byte listed that an unlisted address reads as. -/
abbrev Memory.wf (m : SMap Byte) : Bool := mwf 0 m

/-- Every layer of the memory is canonical. -/
def State.memWf (s : State) : Bool := Memory.wf s.mem && Memory.wf s.l2m && Memory.wf s.low && Memory.wf s.lpd

/-- The byte that a load inside the package returns at a physical address (R293). -/
def State.byte (s : State) (a : Nat) : Byte := mget 0 s.mem a

/-! ## A word that executes -/

/-- The context of the slot that executes word i: the slot issues (R340), no check of R41 fails, the group is not in
run-ahead (R93), no lookahead window of the slot is violated (R29, R30), no result of the other slot is awaited (R31), and
where checked issue covers the word no ALU and no adder of the quadrant is defective (R235). None when one of these does not
hold. -/
def ready (i : Instr) (s : State) : Option Ctx :=
  match s.issuing, desc i with
  | some c, some d =>
    let d := d.resolve (s.block c.bid)
    let q := s.quad (s.whereIs c.g).1 (s.whereIs c.g).2.1 (s.whereIs c.g).2.2
    if (d.check c.grp.priv (s.part c.q.part).debug c.grp.valloc c.b.wb c.l.tiles).isNone && c.grp.ahead.isNone &&
        !d.lookaheadHit c.sl c.b && !d.interlocked c.sl c.b && (!d.covered || (q.alus.isEmpty && q.adders.isEmpty))
    then some c else none
  | _, _ => none

/-- The registers that word i writes, as the interlock watches them (R31). -/
def pendOf (i : Instr) (c : Ctx) : List WReg :=
  match desc i with
  | some d => d.results c.b.wb
  | none => []

/-! ## What an instruction changed -/

/-- The registers of a bank but those named read as before: scalars, lanes of physical vector registers, masks and
translation registers; the window base, the rounding mode and the stack never change. -/
structure Bank.Keeps (k k' : Bank) (ws : List Nat) (wv : List (Nat × Nat)) (wm wx : List Nat) : Prop where
  s : ∀ n, n ∉ ws → k'.getS n = k.getS n
  v : ∀ p l, l < 64 → (p, l) ∉ wv → k'.getP p l = k.getP p l
  m : ∀ n, n ∉ wm → k'.getM n = k.getM n
  x : ∀ n, n ∉ wx → k'.getX n = k.getX n
  wb : k'.wb = k.wb
  rmode : k'.rmode = k.rmode
  stk : k'.stkbase = k.stkbase ∧ k'.stklim = k.stklim ∧ k'.stk = k.stk ∧ k'.spilled = k.spilled

/-- The slot that issued goes on at pc with its lanes, waiting for nothing and with no result awaited; the other slot is as
before. -/
structure Bank.GoesOn (k k' : Bank) (sl : SlotId) (pc : W64) : Prop where
  pc : (k'.slot sl).pc = pc
  wait : (k'.slot sl).wait = .none
  done : (k'.slot sl).pend = []
  lanes : (k'.slot sl).lanes = (k.slot sl).lanes ∧ (k'.slot sl).gpc = (k.slot sl).gpc
  other : k'.slot (otherSlot sl) = k.slot (otherSlot sl)

/-- Of the issuing group only the bank changed; a group that GRES 1 is stopping may have stopped, with epc (R378). -/
structure Grp.Keeps (r r' : Grp) : Prop where
  rest : { r' with b := r.b, run := r.run, epc := r.epc, eslot := r.eslot } = r
  run : r.run ≠ .stopping → r'.run = r.run ∧ r'.epc = r.epc ∧ r'.eslot = r.eslot

/-- Of the cores only the runs in progress and the places of the round-robin changed (R340, R342). -/
structure CoresKept (s t : State) : Prop where
  core : ∀ d k, { t.core d k with quads := [] } = { s.core d k with quads := [] }
  quad : ∀ d k q, { t.quad d k q with cur := none, last := 0 } = { s.quad d k q with cur := none, last := 0 }

/-- The instruction of context c left everything alone but its group's bank and the runs in progress: memory, blocks,
launches, partitions, dies, engines, exception registers and every other group. -/
structure OnlyBank (c : Ctx) (s t : State) : Prop where
  rest : { t with groups := s.groups, cores := s.cores, cur := s.cur } = s
  others : ∀ g, g ≠ c.g → t.grp? g = s.grp? g
  grp : (s.grp c.g).Keeps (t.grp c.g)
  cores : CoresKept s t

/-- What a retired instruction that changes only registers changed: of its group's registers those named, its slot goes on
at pc, and OnlyBank says that nothing else changed. -/
structure Wrote (c : Ctx) (s t : State) (pc : W64) (ws : List Nat) (wv : List (Nat × Nat)) (wm wx : List Nat) : Prop where
  regs : c.b.Keeps (t.grp c.g).b ws wv wm wx
  slot : c.b.GoesOn (t.grp c.g).b c.sl pc
  only : OnlyBank c s t

/-- t is u after the word of context c retired: the registers are those of u, the slot goes on at pc, and OnlyBank says that
nothing else changed. Statements give in u what the word did to the state s it found. -/
structure Retired (c : Ctx) (u t : State) (pc : W64) : Prop where
  regs : (u.grp c.g).b.Keeps (t.grp c.g).b [] [] [] []
  slot : (u.grp c.g).b.GoesOn (t.grp c.g).b c.sl pc
  only : OnlyBank c u t

/-- t is u after the slot of context c began to wait at word i: the registers are those of u, and what the word has still to
write is awaited (R31). -/
structure Parked (i : Instr) (c : Ctx) (u t : State) (w : Wait) : Prop where
  regs : (u.grp c.g).b.Keeps (t.grp c.g).b [] [] [] []
  slot : (t.grp c.g).b.slot c.sl = { (u.grp c.g).b.slot c.sl with wait := w, waited := 0, pend := pendOf i c }
  other : (t.grp c.g).b.slot (otherSlot c.sl) = (u.grp c.g).b.slot (otherSlot c.sl)
  only : OnlyBank c u t

/-! ## Accesses to memory -/

/-- An access to memory filled, evicted, wrote back or recalled lines (R139, R150 to R154, R161): nothing changed but the
layers below State.mem, the lines of L1s and L2s, the Cooper, and what passed over the on-chip network (R155). -/
structure CachesOnly (s t : State) : Prop where
  rest : { t with l2m := s.l2m, low := s.low, lpd := s.lpd, dies := s.dies, cores := s.cores, fabric := s.fabric } = s
  die : ∀ d, { t.die d with l2 := [], cooper := [], coopWrites := [], coopFills := [] } =
    { s.die d with l2 := [], cooper := [], coopWrites := [], coopFills := [] }
  core : ∀ d k, { t.core d k with l1 := [] } = { s.core d k with l1 := [] }

/-- No burst of a die's HBM holds a wrong symbol, no request waits behind a fill of the Cooper, and no Cooper index is blocked, so
that no write-back was dropped (R138, R140, R142). -/
structure Die.Sound (d : Die) : Prop where
  damage : d.damage = []
  coopDamage : d.coopDamage = []
  coopReqs : d.coopReqs = []
  blocked : d.blocked = []
  lost : d.lost = []

/-- So it is on every die. -/
def State.Quiet (s : State) : Prop := ∀ d, (s.die d).Sound

/-- The home slice serves accesses of a partition to the line of pa: the address lies in the partition's HBM or LPDDR and
is ready (R133, R395), its data is not withheld (R383), no replicated store to it is between acknowledgement and commit (R145),
and no update-only copy of the line exists (R167). No memory error stands in the way (R138, R142). -/
structure State.Serves (s : State) (part pa : Nat) : Prop where
  inside : isRemote pa = false
  reach : s.reach part pa
  held : pa / 256 ∉ s.withheld
  repl : ¬ s.replicaHeld part pa
  copies : ∀ u ∈ s.updates, u.line ≠ pa / 256
  quiet : s.Quiet

/-- Translation register x of the group of c translates va for an access of a kind to pa without a walk (R88): an aligned
canonical address within the limit of a fresh register in translation form, not of a replicated page, that both stages
allow. -/
structure Ctx.Maps (c : Ctx) (x n : Nat) (kind : Kind) (va pa : Nat) : Prop where
  form : (c.b.getX x).sp = false ∧ (c.b.getX x).stale = false ∧ (c.b.getX x).repl = false
  addr : canonical va ∧ va % n = 0
  inside : (c.b.getX x).within va
  allows : (c.b.getX x).p1.allows kind ∧ (c.b.getX x).p2.allows kind
  frame : pa = (c.b.getX x).frame + (va57 va - pageBase (c.b.getX x).base (c.b.getX x).size)

/-- No monitor is armed on the line of pa, nor on an element that n bytes at pa overlap (R161). -/
def State.Unwatched (s : State) (pa n : Nat) : Prop :=
  ∀ m ∈ s.monitors, m.pa / 256 ≠ pa / 256 ∧ (m.pa + 8 ≤ pa ∨ pa + n ≤ m.pa)

/-- Memory after a write of n bytes, if there is one. -/
def writeIf (m : SMap Byte) (a n : Nat) : Option Nat → SMap Byte
  | none => m
  | some v => storeN m a v n

/-- Memory after read-modify-writes of n bytes at the addresses of the lanes, in ascending order (R51, R293). -/
def rmwLanes (n : Nat) (pa : Nat → Nat) (f : Nat → Nat → Option Nat) : List Nat → SMap Byte → SMap Byte
  | [], m => m
  | l :: r, m => rmwLanes n pa f r (writeIf m (pa l) n (f l (loadN m (pa l) n)))

/-- The word answers a next state that is u after it retired at pc. -/
def Completes (i : Instr) (s : State) (c : Ctx) (u : State) (pc : W64) : Prop :=
  ∃ t, exec i s = .next t ∧ Retired c u t pc

/-- t is u after a word of context c that sets the PC slots itself: the bank is that of u but for the lookahead windows. -/
structure Settled (c : Ctx) (u t : State) : Prop where
  bank : ∃ w, (t.grp c.g).b = { (u.grp c.g).b with wins := w }
  only : OnlyBank c u t

/-- The word answers a next state that is u after a word that sets the PC slots itself. -/
def Leaves (i : Instr) (s : State) (c : Ctx) (u : State) : Prop := ∃ t, exec i s = .next t ∧ Settled c u t

/-- t is s after the group of context c has taken exception f to the on-core trap handler (R374, R376): the group stops with
epc, ecause and edetail set and its registers as they were, and a TAKE, BAR, GBAR or AWAIT in which its other slot waits is cancelled
(R292, R348); on a core it joins the handler's queue of its quadrant, and when
it is the first there tgroup names it and the handler enters 40 cycles later. Nothing else changes. -/
structure Trapped (c : Ctx) (f : FaultRec) (s t : State) : Prop where
  bank : (t.grp c.g).b = (c.b.modSlot c.sl (Slot.goesTo c.pc)).cancel
  run : (t.grp c.g).run = .trapped
  epc : (t.grp c.g).epc = c.pc
  ecause : (t.grp c.g).ecause = BitVec.ofNat 64 (classCode f.cls + f.sub * 2 ^ 8 +
    match f.lane with | none => 0 | some l => 2 ^ 23 + l * 2 ^ 17)
  edetail : (t.grp c.g).edetail = f.detail
  queue : (s.block c.bid).at?.isSome → (t.quad (s.whereIs c.g).1 (s.whereIs c.g).2.1 (s.whereIs c.g).2.2).traps =
    (s.quad (s.whereIs c.g).1 (s.whereIs c.g).2.1 (s.whereIs c.g).2.2).traps ++ [c.g]
  first : (s.block c.bid).at?.isSome → (s.quad (s.whereIs c.g).1 (s.whereIs c.g).2.1 (s.whereIs c.g).2.2).traps = [] →
    (t.quad (s.whereIs c.g).1 (s.whereIs c.g).2.1 (s.whereIs c.g).2.2).entry = some (s.cycle + 40) ∧
      (t.block c.bid).tgroup = c.grp.idx1
  others : ∀ g, g ≠ c.g → t.grp? g = s.grp? g
  blocks : ∀ b, { t.block b with tgroup := (s.block b).tgroup } = s.block b
  rest : { t with groups := s.groups, cores := s.cores, blocks := s.blocks, cur := s.cur } = s

/-- The active lanes of the physical register behind vector name n (R34, R49). -/
def Ctx.written (c : Ctx) (n : Nat) : List (Nat × Nat) := c.lanes.map fun l => (physOf c.b.wb n, l)

/-- Wherever word i is ready it completes: scalar d reads a value that satisfies p (s0 keeps reading zero, R32), every other
register and everything else is as before, and the slot goes on at the next word. -/
def GivesScalar (i : Instr) (d : Nat) (p : Ctx → State → W64 → Prop) : Prop :=
  ∀ c s, ready i s = some c → ∃ t v, exec i s = .next t ∧ p c s v ∧ (t.grp c.g).b.getS d = (if d = 0 then 0 else v) ∧
    Wrote c s t (c.pc + 4) [d] [] [] []

/-- The same for one known value. -/
def SetsScalar (i : Instr) (d : Nat) (v : Ctx → State → W64) : Prop := GivesScalar i d fun c s x => x = v c s

/-- Wherever word i is ready it completes: each active lane of vector d reads a value that satisfies p, every other lane and
register and everything else is as before, and the slot goes on at the next word. -/
def GivesVector (i : Instr) (d : Nat) (p : Ctx → State → Nat → W32 → Prop) : Prop :=
  ∀ c s, ready i s = some c → ∃ t, exec i s = .next t ∧ (∀ l ∈ c.lanes, p c s l ((t.grp c.g).b.getV d l)) ∧
    Wrote c s t (c.pc + 4) [] (c.written d) [] []

/-- The same for known values. -/
def SetsVector (i : Instr) (d : Nat) (v : Ctx → State → Nat → W32) : Prop := GivesVector i d fun c s l x => x = v c s l

/-- Wherever word i is ready it completes: lane l of the aligned pair d, d + 1 reads v (R193). -/
def SetsPair (i : Instr) (d : Nat) (v : Ctx → State → Nat → W64) : Prop :=
  ∀ c s, ready i s = some c → ∃ t, exec i s = .next t ∧ (∀ l ∈ c.lanes, (t.grp c.g).b.getV2 d l = v c s l) ∧
    Wrote c s t (c.pc + 4) [] (c.written d ++ c.written (d + 1)) [] []

/-- Wherever word i is ready it completes: mask d reads v. -/
def SetsMask (i : Instr) (d : Nat) (v : Ctx → State → W64) : Prop :=
  ∀ c s, ready i s = some c → ∃ t, exec i s = .next t ∧ (t.grp c.g).b.getM d = v c s ∧
    Wrote c s t (c.pc + 4) [] [] [d] []

end Sys2Proof.Machine
end

