-- ==== Sys2Proof/Certificates/Slice0/Obligations.lean ====
section
/-! DEFINITION. The statements of this slice: what the instruction words and the events of the Denkinum 960 do, said in the
terms of Safety.lean.

A result statement says, of every operand and every state in which the word is `ready`, that the word completes, what it
wrote, and that everything else is as before. -/

namespace Sys2Proof

open Machine

/-! ## Reading the operands -/

/-- s(a) of the issuing group. -/
def srcS (a : BitVec 7) (c : Ctx) : W64 := c.b.getS a.toNat

/-- V(a)[l] of the issuing group. -/
def srcV (a : BitVec 7) (c : Ctx) (l : Nat) : W32 := c.b.getV a.toNat l

/-- The 64-bit element of the aligned pair a, a + 1 in lane l. -/
def srcV2 (a : BitVec 7) (c : Ctx) (l : Nat) : W64 := c.b.getV2 a.toNat l

/-- M(m) of the issuing group. -/
def srcM (m : BitVec 3) (c : Ctx) : W64 := c.b.getM m.toNat

/-- A function of two scalars as a result. -/
def of2 (a b : BitVec 7) (f : W64 → W64 → W64) : Ctx → State → W64 := fun c _ => f (srcS a c) (srcS b c)

/-- A function of two vector elements as a result. -/
def ofV2 (a b : BitVec 7) (f : W32 → W32 → W32) : Ctx → State → Nat → W32 := fun c _ l => f (srcV a c l) (srcV b c l)

/-- A function of one vector element as a result. -/
def ofV1 (a : BitVec 7) (f : W32 → W32) : Ctx → State → Nat → W32 := fun c _ l => f (srcV a c l)

/-- A function of the old destination element and two vector elements as a result. -/
def ofV3 (d a b : BitVec 7) (f : W32 → W32 → W32 → W32) : Ctx → State → Nat → W32 :=
  fun c _ l => f (srcV d c l) (srcV a c l) (srcV b c l)

/-- The number of leading zero bits of a word of n bits. -/
def leadingZeros (n x : Nat) : Nat := ((List.range n).find? fun i => x.testBit (n - 1 - i)).getD n

/-- The number of 1 bits of a word of n bits. -/
def onesOf (n x : Nat) : Nat := ((List.range n).filter fun i => x.testBit i).length

/-- A word of w bits rotated left by n (n below w). -/
def rotated (w x n : Nat) : Nat := x * 2 ^ n + x / 2 ^ (w - n)

/-! ## The scalar pipe -/

/-- The SA functions (R67), at every operand: the result goes to d, and nothing else changes. -/
def scalarTwoSource : Prop := ∀ (z : Bool) (d a b : BitVec 7),
  SetsScalar (.add z d a b) d.toNat (of2 a b fun x y => BitVec.ofNat 64 (x.toNat + y.toNat)) ∧
  SetsScalar (.sub z d a b) d.toNat (of2 a b fun x y => BitVec.ofInt 64 (x.toInt - y.toInt)) ∧
  SetsScalar (.and z d a b) d.toNat (of2 a b fun x y => x &&& y) ∧
  SetsScalar (.or z d a b) d.toNat (of2 a b fun x y => x ||| y) ∧
  SetsScalar (.xor z d a b) d.toNat (of2 a b fun x y => x ^^^ y) ∧
  SetsScalar (.shl z d a b) d.toNat (of2 a b fun x y => BitVec.ofNat 64 (x.toNat * 2 ^ (y.toNat % 64))) ∧
  SetsScalar (.shr z d a b) d.toNat (of2 a b fun x y => BitVec.ofNat 64 (x.toNat / 2 ^ (y.toNat % 64))) ∧
  SetsScalar (.sra z d a b) d.toNat (of2 a b fun x y => BitVec.ofInt 64 (x.toInt / 2 ^ (y.toNat % 64))) ∧
  SetsScalar (.mul z d a b) d.toNat (of2 a b fun x y => BitVec.ofInt 64 (x.toInt * y.toInt)) ∧
  SetsScalar (.mulh z d a b) d.toNat (of2 a b fun x y => BitVec.ofInt 64 (x.toInt * y.toInt / 2 ^ 64)) ∧
  SetsScalar (.mulhn z d a b) d.toNat (of2 a b fun x y => BitVec.ofNat 64 (x.toNat * y.toNat / 2 ^ 64)) ∧
  SetsScalar (.min z d a b) d.toNat (of2 a b fun x y => if x.toInt ≤ y.toInt then x else y) ∧
  SetsScalar (.max z d a b) d.toNat (of2 a b fun x y => if x.toInt ≤ y.toInt then y else x) ∧
  SetsScalar (.minn z d a b) d.toNat (of2 a b fun x y => if x.toNat ≤ y.toNat then x else y) ∧
  SetsScalar (.maxn z d a b) d.toNat (of2 a b fun x y => if x.toNat ≤ y.toNat then y else x) ∧
  SetsScalar (.andn z d a b) d.toNat (of2 a b fun x y => x &&& ~~~y)

/-- The comparing, counting, rotating and selecting SB functions (R68). -/
def scalarComparesAndCounts : Prop := ∀ (z : Bool) (d a b : BitVec 7),
  SetsScalar (.slt z d a b) d.toNat (of2 a b fun x y => if x.toInt < y.toInt then 1 else 0) ∧
  SetsScalar (.sltn z d a b) d.toNat (of2 a b fun x y => if x.toNat < y.toNat then 1 else 0) ∧
  SetsScalar (.seq z d a b) d.toNat (of2 a b fun x y => if x = y then 1 else 0) ∧
  SetsScalar (.clz z d a) d.toNat (fun c _ => BitVec.ofNat 64 (leadingZeros 64 (srcS a c).toNat)) ∧
  SetsScalar (.popc z d a) d.toNat (fun c _ => BitVec.ofNat 64 (onesOf 64 (srcS a c).toNat)) ∧
  GivesScalar (.brev z d a) d.toNat (fun c _ v => ∀ i < 64, v.getLsbD i = (srcS a c).getLsbD (63 - i)) ∧
  SetsScalar (.rotl z d a b) d.toNat (of2 a b fun x y => BitVec.ofNat 64 (rotated 64 x.toNat (y.toNat % 64))) ∧
  SetsScalar (.csel z d a b) d.toNat (fun c _ => if srcS d c ≠ 0 then srcS a c else srcS b c) ∧
  SetsScalar (.addw z d a b) d.toNat (of2 a b fun x y => (BitVec.ofNat 32 (x.toNat + y.toNat)).signExtend 64)

/-- BFX and BFI bit by bit (R69): the position is b[5:0], the length b[14:8] and at most 64; bits beyond 63 read as 0 and are
dropped. -/
def scalarBitFields : Prop := ∀ (z : Bool) (d a b : BitVec 7),
  GivesScalar (.bfx z d a b) d.toNat (fun c _ v =>
    let pos := (srcS b c).toNat % 64
    let len := min ((srcS b c).toNat / 256 % 128) 64
    ∀ i < 64, v.getLsbD i = (decide (i < len ∧ pos + i ≤ 63) && (srcS a c).getLsbD (pos + i))) ∧
  GivesScalar (.bfi z d a b) d.toNat (fun c _ v =>
    let pos := (srcS b c).toNat % 64
    let len := min ((srcS b c).toNat / 256 % 128) 64
    ∀ i < 64, v.getLsbD i = if pos ≤ i ∧ i < pos + len then (srcS a c).getLsbD (i - pos) else (srcS d c).getLsbD i)

/-- Division never faults (R70): DIV rounds towards zero, REM takes the sign of the dividend, DIVN and REMN are natural; by
zero DIV gives -1, DIVN 2^64 - 1, REM and REMN the dividend; -2^63 by -1 gives -2^63 and 0. -/
def scalarDivision : Prop := ∀ (z : Bool) (d a b : BitVec 7),
  GivesScalar (.div z d a b) d.toNat (fun c _ v =>
    if srcS b c = 0 then v = -1
    else if (srcS a c).toInt = -2 ^ 63 ∧ (srcS b c).toInt = -1 then v.toInt = -2 ^ 63
    else v.toInt = (srcS a c).toInt.tdiv (srcS b c).toInt) ∧
  GivesScalar (.rem z d a b) d.toNat (fun c _ v =>
    if srcS b c = 0 then v = srcS a c
    else if (srcS a c).toInt = -2 ^ 63 ∧ (srcS b c).toInt = -1 then v = 0
    else v.toInt = (srcS a c).toInt - (srcS b c).toInt * (srcS a c).toInt.tdiv (srcS b c).toInt) ∧
  GivesScalar (.divn z d a b) d.toNat (fun c _ v =>
    if srcS b c = 0 then v.toNat = 2 ^ 64 - 1 else v.toNat = (srcS a c).toNat / (srcS b c).toNat) ∧
  GivesScalar (.remn z d a b) d.toNat (fun c _ v =>
    if srcS b c = 0 then v = srcS a c else v.toNat = (srcS a c).toNat % (srcS b c).toNat)

/-- The immediate forms and the building of constants (R71 to R73). -/
def scalarImmediates : Prop := ∀ (z : Bool) (d a : BitVec 7) (i : BitVec 11) (n : BitVec 6) (k : BitVec 18),
  SetsScalar (.addi z d a i) d.toNat (fun c _ => BitVec.ofInt 64 ((srcS a c).toInt + i.toInt)) ∧
  SetsScalar (.andi z d a i) d.toNat (fun c _ => srcS a c &&& BitVec.ofInt 64 i.toInt) ∧
  SetsScalar (.ori z d a i) d.toNat (fun c _ => srcS a c ||| BitVec.ofInt 64 i.toInt) ∧
  SetsScalar (.xori z d a i) d.toNat (fun c _ => srcS a c ^^^ BitVec.ofInt 64 i.toInt) ∧
  SetsScalar (.slti z d a i) d.toNat (fun c _ => if (srcS a c).toInt < i.toInt then 1 else 0) ∧
  SetsScalar (.shli z d a n) d.toNat (fun c _ => BitVec.ofNat 64 ((srcS a c).toNat * 2 ^ n.toNat)) ∧
  SetsScalar (.shri z d a n) d.toNat (fun c _ => BitVec.ofNat 64 ((srcS a c).toNat / 2 ^ n.toNat)) ∧
  SetsScalar (.srai z d a n) d.toNat (fun c _ => BitVec.ofInt 64 ((srcS a c).toInt / 2 ^ n.toNat)) ∧
  SetsScalar (.rotli z d a n) d.toNat (fun c _ => BitVec.ofNat 64 (rotated 64 (srcS a c).toNat n.toNat)) ∧
  SetsScalar (.li z d k) d.toNat (fun _ _ => BitVec.ofInt 64 k.toInt) ∧
  SetsScalar (.lis z d k) d.toNat (fun c _ => BitVec.ofNat 64 ((srcS d c).toNat * 2 ^ 18 + k.toNat))

/-- A launch's priority, pre-emption, checked-issue and grade bits as lmode packs them (R61). -/
def lmodeOf (l : Launch) : Nat :=
  (l.record.getD 5 0).toNat / 2 ^ 34 % 4 * 16 + (l.record.getD 5 0).toNat / 2 ^ 33 % 2 * 8 +
    (l.record.getD 5 0).toNat / 2 ^ 32 % 2 * 4 + (l.record.getD 5 0).toNat / 2 ^ 30 % 4

/-- The permission word of a translation register (R63): nothing without v; sp in bit 6, the page size in bits 5 and 4,
a, w, rd where both stages allow it, v. -/
def xpermOf (x : XReg) : Nat :=
  let bit (b : Bool) (n : Nat) : Nat := if b then n else 0
  if x.v then
    bit x.sp 64 + (if x.sp then 0 else match x.size with | .k64 => 0 | .m2 => 16 | .m64 => 32) +
      bit (x.p1.a && x.p2.a) 8 + bit (x.p1.w && x.p2.w) 4 + bit (x.p1.rd && x.p2.rd) 2 + 1
  else 0

/-- GETS of every selector of R56. The privileged ones are ready in privileged code only and read the exception registers
of the group that tgroup names; x registers without v read 0 (R64); wb, rmode and alflags read what WIN and SETS wrote. -/
def specialRegistersRead : Prop := ∀ (z : Bool) (d : BitVec 7),
  SetsScalar (.gets z d 0x000) d.toNat (fun c _ => c.pc) ∧
  SetsScalar (.gets z d 0x001) d.toNat (fun c _ => BitVec.ofNat 64 c.b.wb) ∧
  SetsScalar (.gets z d 0x002) d.toNat (fun c _ => BitVec.ofNat 64 c.grp.valloc) ∧
  SetsScalar (.gets z d 0x003) d.toNat (fun c _ => BitVec.ofNat 64 c.b.rmode) ∧
  SetsScalar (.gets z d 0x004) d.toNat (fun c s => (s.block c.bid).alflags.setWidth 64) ∧
  SetsScalar (.gets z d 0x005) d.toNat (fun c _ => c.b.stkbase) ∧
  SetsScalar (.gets z d 0x006) d.toNat (fun c _ => c.b.stklim) ∧
  SetsScalar (.gets z d 0x007) d.toNat (fun c _ => if c.sl = .b then 1 else 0) ∧
  SetsScalar (.gets z d 0x008) d.toNat (fun c _ => BitVec.ofNat 64 c.l.nlevels) ∧
  SetsScalar (.gets z d 0x020) d.toNat (fun c _ => c.l.record.getD 2 0) ∧
  SetsScalar (.gets z d 0x021) d.toNat (fun c _ => BitVec.ofNat 64 c.l.id) ∧
  SetsScalar (.gets z d 0x022) d.toNat (fun c _ => c.l.record.getD 4 0) ∧
  SetsScalar (.gets z d 0x023) d.toNat (fun c _ => BitVec.ofNat 64 (lmodeOf c.l)) ∧
  SetsScalar (.gets z d 0x024) d.toNat (fun c _ => BitVec.ofNat 64 (c.l.relaunchOf (c.l.unitOf c.bid.flat))) ∧
  SetsScalar (.gets z d 0x030) d.toNat (fun c s => BitVec.ofNat 64 (s.physOfGroup c.g)) ∧
  SetsScalar (.gets z d 0x400) d.toNat (fun c s => BitVec.ofNat 64 (s.block c.bid).tgroup) ∧
  SetsScalar (.gets z d 0x401) d.toNat (fun c s => (s.grp (s.target c)).epc) ∧
  SetsScalar (.gets z d 0x402) d.toNat (fun c s => (s.grp (s.target c)).ecause) ∧
  SetsScalar (.gets z d 0x403) d.toNat (fun c s => (s.grp (s.target c)).edetail) ∧
  ∀ n < 8,
    SetsScalar (.gets z d (BitVec.ofNat 11 (0x010 + n))) d.toNat (fun c s => BitVec.ofNat 64 (c.l.idx (s.flatOf c.g) n)) ∧
    SetsScalar (.gets z d (BitVec.ofNat 11 (0x018 + n))) d.toNat (fun c _ => BitVec.ofNat 64 (c.l.extent n)) ∧
    SetsScalar (.gets z d (BitVec.ofNat 11 (0x100 + n))) d.toNat
      (fun c _ => if (c.b.getX n).v then (BitVec.ofNat 57 (c.b.getX n).base).signExtend 64 else 0) ∧
    SetsScalar (.gets z d (BitVec.ofNat 11 (0x108 + n))) d.toNat
      (fun c _ => if (c.b.getX n).v then BitVec.ofNat 64 (c.b.getX n).limit else 0) ∧
    SetsScalar (.gets z d (BitVec.ofNat 11 (0x110 + n))) d.toNat (fun c _ => BitVec.ofNat 64 (xpermOf (c.b.getX n))) ∧
    SetsScalar (.gets z d (BitVec.ofNat 11 (0x118 + n))) d.toNat
      (fun c _ => if (c.b.getX n).sp then BitVec.ofNat 64 (c.b.getX n).base else 0) ∧
    SetsScalar (.gets z d (BitVec.ofNat 11 (0x408 + n))) d.toNat
      (fun c _ => if (c.b.getX n).v then BitVec.ofNat 64 (c.b.getX n).frame else 0)

/-- SETS of rmode, alflags, stklim, tgroup and epc (R57 to R59, R74, R376): a value that the selector's rule rejects raises
ILL with the value as detail and changes nothing; any other value completes. -/
def specialRegistersWritten : Prop := ∀ (z : Bool) (a : BitVec 7) (c : Ctx) (s : State),
  (ready (.sets z a 0x003) s = some c →
    if (srcS a c).toNat ≤ 4 then
      Completes (.sets z a 0x003) s c (s.modBank c.g fun k => { k with rmode := (srcS a c).toNat }) (c.pc + 4)
    else exec (.sets z a 0x003) s = .next (s.fail c { cls := .ill, detail := srcS a c })) ∧
  (ready (.sets z a 0x004) s = some c →
    if (srcS a c).toNat < 256 then
      Completes (.sets z a 0x004) s c
        (s.modBlock c.bid fun b => { b with alflags := b.alflags &&& ~~~((srcS a c).setWidth 8) }) (c.pc + 4)
    else exec (.sets z a 0x004) s = .next (s.fail c { cls := .ill, detail := srcS a c })) ∧
  (ready (.sets z a 0x006) s = some c →
    if (srcS a c).toNat % 64 = 0 ∧ c.b.stkbase.toNat ≤ (srcS a c).toNat then
      Completes (.sets z a 0x006) s c (s.modBank c.g fun k => { k with stklim := srcS a c }) (c.pc + 4)
    else exec (.sets z a 0x006) s = .next (s.fail c { cls := .ill, detail := srcS a c })) ∧
  (ready (.sets z a 0x400) s = some c →
    if (srcS a c).toNat < 16 ∧ (s.grp? (.grp c.bid.launch c.bid.flat (srcS a c).toNat)).isSome then
      Completes (.sets z a 0x400) s c (s.modBlock c.bid fun b => { b with tgroup := (srcS a c).toNat }) (c.pc + 4)
    else exec (.sets z a 0x400) s = .next (s.fail c { cls := .ill, detail := srcS a c })) ∧
  (ready (.sets z a 0x401) s = some c →
    if canonical (srcS a c).toNat ∧ (srcS a c).toNat % 4 = 0 then
      Completes (.sets z a 0x401) s c (s.modGrp (s.target c) fun r => { r with epc := srcS a c }) (c.pc + 4)
    else exec (.sets z a 0x401) s = .next (s.fail c { cls := .ill, detail := srcS a c }))

/-- WIN (R35, R76): WB takes s(a) + imm11 when that is a multiple of 8 up to A - 8; otherwise LIMIT, and WB is unchanged. -/
def windowMoves : Prop := ∀ (z : Bool) (a : BitVec 7) (i : BitVec 11) (c : Ctx) (s : State),
  ready (.win z a i) s = some c →
    let v := BitVec.ofInt 64 ((srcS a c).toInt + i.toInt)
    if v.toNat % 8 = 0 ∧ v.toNat + 8 ≤ c.grp.valloc then
      Completes (.win z a i) s c (s.modBank c.g fun k => { k with wb := v.toNat }) (c.pc + 4)
    else exec (.win z a i) s = .next (s.fail c { cls := .limit, detail := v })

/-- SETS of xsp n (R66): LIMIT, xn unchanged, when s(a) is not below the block's scratchpad bytes S; otherwise xn takes
base s(a), frame 0, limit S - s(a), and the permissions rd, w, a with sp and v set. -/
def scratchpadFormSet : Prop := ∀ (z : Bool) (a : BitVec 7) (n : BitVec 3) (c : Ctx) (s : State),
  ready (.setsXsp z a n) s = some c →
    if (srcS a c).toNat < c.scratch then
      ∃ t, exec (.setsXsp z a n) s = .next t ∧ Wrote c s t (c.pc + 4) [] [] [] [n.toNat] ∧
        let x := (t.grp c.g).b.getX n.toNat
        x.base = (srcS a c).toNat ∧ x.frame = 0 ∧ x.limit = c.scratch - (srcS a c).toNat ∧ x.sp ∧ x.v ∧ xpermOf x = 0x4F
    else exec (.setsXsp z a n) s = .next (s.fail c { cls := .limit, detail := srcS a c })

/-- XLT (R64, R87, R88): a value that is not canonical raises ILL; where the core's TLB holds the page, xn takes the base, the
frame, the limit to the end of the page and the page's permissions, none of which it tests. -/
def translationRegisterLoaded : Prop := ∀ (z : Bool) (a : BitVec 7) (n : BitVec 3) (c : Ctx) (s : State),
  ready (.xlt z a n) s = some c →
    let v := srcS a c
    let va := v.toNat % 2 ^ 57
    (¬ canonical v.toNat → exec (.xlt z a n) s = .next (s.fail c { cls := .ill, detail := v })) ∧
    (canonical v.toNat → ∀ e, (s.core c.q.die c.q.core).tlb.find? (fun e => e.hits c.q va) = some e →
      ∃ t, exec (.xlt z a n) s = .next t ∧ Wrote c s t (c.pc + 4) [] [] [] [n.toNat] ∧
        let x := (t.grp c.g).b.getX n.toNat
        x.v ∧ ¬ x.sp ∧ x.base = va ∧ x.frame = e.tr.frame ∧
          x.limit = PSizeBytes e.tr.size - va % PSizeBytes e.tr.size ∧ x.p1 = e.tr.p1 ∧ x.p2 = e.tr.p2)

/-! ## The vector pipe -/

/-- An integer brought into a range. -/
def clampTo (lo hi x : Int) : Int := max lo (min hi x)

/-- VA (R240): for each active lane the result goes to V(d)[l], and nothing else changes. VBFX, VBFI have their own
statement. -/
def vectorIntegerArithmetic : Prop := ∀ (z : Bool) (d a b : BitVec 7),
  SetsVector (.vadd z d a b) d.toNat (ofV2 a b fun x y => BitVec.ofNat 32 (x.toNat + y.toNat)) ∧
  SetsVector (.vsub z d a b) d.toNat (ofV2 a b fun x y => BitVec.ofInt 32 (x.toInt - y.toInt)) ∧
  SetsVector (.vmul z d a b) d.toNat (ofV2 a b fun x y => BitVec.ofNat 32 (x.toNat * y.toNat)) ∧
  SetsVector (.vmulh z d a b) d.toNat (ofV2 a b fun x y => BitVec.ofInt 32 (x.toInt * y.toInt / 2 ^ 32)) ∧
  SetsVector (.vmulhn z d a b) d.toNat (ofV2 a b fun x y => BitVec.ofNat 32 (x.toNat * y.toNat / 2 ^ 32)) ∧
  SetsVector (.vmad z d a b) d.toNat (ofV3 d a b fun r x y => BitVec.ofNat 32 (r.toNat + x.toNat * y.toNat)) ∧
  SetsVector (.vmin z d a b) d.toNat (ofV2 a b fun x y => if x.toInt ≤ y.toInt then x else y) ∧
  SetsVector (.vmax z d a b) d.toNat (ofV2 a b fun x y => if x.toInt ≤ y.toInt then y else x) ∧
  SetsVector (.vminn z d a b) d.toNat (ofV2 a b fun x y => if x.toNat ≤ y.toNat then x else y) ∧
  SetsVector (.vmaxn z d a b) d.toNat (ofV2 a b fun x y => if x.toNat ≤ y.toNat then y else x) ∧
  SetsVector (.vabs z d a) d.toNat (ofV1 a fun x => BitVec.ofInt 32 (if 0 ≤ x.toInt then x.toInt else -x.toInt)) ∧
  SetsVector (.vneg z d a) d.toNat (ofV1 a fun x => BitVec.ofInt 32 (-x.toInt)) ∧
  SetsVector (.vand z d a b) d.toNat (ofV2 a b fun x y => x &&& y) ∧
  SetsVector (.vor z d a b) d.toNat (ofV2 a b fun x y => x ||| y) ∧
  SetsVector (.vxor z d a b) d.toNat (ofV2 a b fun x y => x ^^^ y) ∧
  SetsVector (.vandn z d a b) d.toNat (ofV2 a b fun x y => x &&& ~~~y)

/-- VB but for the bit fields (R240), and the immediate forms VADDI and VSHI (R242). -/
def vectorShiftsAndMoves : Prop :=
  ∀ (z : Bool) (d a b : BitVec 7) (m : BitVec 3) (i : BitVec 11) (n : BitVec 5),
  SetsVector (.vshl z d a b) d.toNat (ofV2 a b fun x y => BitVec.ofNat 32 (x.toNat * 2 ^ (y.toNat % 32))) ∧
  SetsVector (.vshr z d a b) d.toNat (ofV2 a b fun x y => BitVec.ofNat 32 (x.toNat / 2 ^ (y.toNat % 32))) ∧
  SetsVector (.vsra z d a b) d.toNat (ofV2 a b fun x y => BitVec.ofInt 32 (x.toInt / 2 ^ (y.toNat % 32))) ∧
  SetsVector (.vrotl z d a b) d.toNat (ofV2 a b fun x y => BitVec.ofNat 32 (rotated 32 x.toNat (y.toNat % 32))) ∧
  SetsVector (.vclz z d a) d.toNat (ofV1 a fun x => BitVec.ofNat 32 (leadingZeros 32 x.toNat)) ∧
  SetsVector (.vpopc z d a) d.toNat (ofV1 a fun x => BitVec.ofNat 32 (onesOf 32 x.toNat)) ∧
  GivesVector (.vbrev z d a) d.toNat (fun c _ l v => ∀ j < 32, v.getLsbD j = (srcV a c l).getLsbD (31 - j)) ∧
  SetsVector (.vadds z d a b) d.toNat
    (ofV2 a b fun x y => BitVec.ofInt 32 (clampTo (-2 ^ 31) (2 ^ 31 - 1) (x.toInt + y.toInt))) ∧
  SetsVector (.vsubs z d a b) d.toNat
    (ofV2 a b fun x y => BitVec.ofInt 32 (clampTo (-2 ^ 31) (2 ^ 31 - 1) (x.toInt - y.toInt))) ∧
  SetsVector (.vaddsn z d a b) d.toNat (ofV2 a b fun x y => BitVec.ofNat 32 (min (x.toNat + y.toNat) (2 ^ 32 - 1))) ∧
  SetsVector (.vsubsn z d a b) d.toNat (ofV2 a b fun x y => BitVec.ofNat 32 (x.toNat - y.toNat)) ∧
  SetsVector (.vsel z d a m) d.toNat (fun c _ l => if (srcM m c).getLsbD l then srcV a c l else srcV d c l) ∧
  SetsVector (.vsplat z d a) d.toNat (fun c _ _ => (srcS a c).setWidth 32) ∧
  SetsVector (.vlane z d) d.toNat (fun _ _ l => BitVec.ofNat 32 l) ∧
  SetsVector (.vaddi z d a i) d.toNat (ofV1 a fun x => BitVec.ofInt 32 (x.toInt + i.toInt)) ∧
  SetsVector (.vshli z d a n) d.toNat (ofV1 a fun x => BitVec.ofNat 32 (x.toNat * 2 ^ n.toNat)) ∧
  SetsVector (.vshri z d a n) d.toNat (ofV1 a fun x => BitVec.ofNat 32 (x.toNat / 2 ^ n.toNat)) ∧
  SetsVector (.vsrai z d a n) d.toNat (ofV1 a fun x => BitVec.ofInt 32 (x.toInt / 2 ^ n.toNat)) ∧
  SetsVector (.vrotli z d a n) d.toNat (ofV1 a fun x => BitVec.ofNat 32 (rotated 32 x.toNat n.toNat))

/-- VBFX and VBFI bit by bit (R241): the position is b[4:0], the length b[13:8] and at most 32. -/
def vectorBitFields : Prop := ∀ (z : Bool) (d a b : BitVec 7),
  GivesVector (.vbfx z d a b) d.toNat (fun c _ l v =>
    let pos := (srcV b c l).toNat % 32
    let len := min ((srcV b c l).toNat / 256 % 64) 32
    ∀ i < 32, v.getLsbD i = (decide (i < len ∧ pos + i ≤ 31) && (srcV a c l).getLsbD (pos + i))) ∧
  GivesVector (.vbfi z d a b) d.toNat (fun c _ l v =>
    let pos := (srcV b c l).toNat % 32
    let len := min ((srcV b c l).toNat / 256 % 64) 32
    ∀ i < 32, v.getLsbD i =
      if pos ≤ i ∧ i < pos + len then (srcV a c l).getLsbD (i - pos) else (srcV d c l).getLsbD i)

/-- A comparison: bit l of M(d) tells for each active lane whether the condition holds; the bits of inactive lanes, every
other register and everything else are left alone (R243). -/
def ComparesLanes (i : Instr) (d : BitVec 3) (a b : BitVec 7) (holds : W32 → W32 → Bool) : Prop :=
  ∀ c s, ready i s = some c → ∃ t, exec i s = .next t ∧ Wrote c s t (c.pc + 4) [] [] [d.toNat] [] ∧
    ∀ l < 64, ((t.grp c.g).b.getM d.toNat).getLsbD l =
      if c.slot.lanes.getLsbD l then holds (srcV a c l) (srcV b c l) else (srcM d c).getLsbD l

/-- An FP32 value that is not NaN as sign and magnitude: the magnitude bits order like the values. -/
def signMag (x : W32) : Int := if x.getLsbD 31 then -(x.toNat % 2 ^ 31 : Nat) else (x.toNat % 2 ^ 31 : Nat)

/-- The bits of an FP32 NaN (R218): exponent 255 and a mantissa that is not 0. -/
def nanBits (x : W32) : Bool := x.toNat / 2 ^ 23 % 256 == 255 && x.toNat % 2 ^ 23 != 0

/-- The key of the totalOrder predicate (R231). -/
def orderKey (x : W32) : W32 := if x.getLsbD 31 then ~~~x else x ||| 0x80000000

/-- VCMP (R243) with the total order (R231): integers signed and natural; FEQ, FLT and FLE false when an operand is NaN and
by value otherwise, -0 equal to +0; FUN with any NaN. -/
def vectorCompares : Prop := ∀ (z : Bool) (d : BitVec 3) (a b : BitVec 7),
  ComparesLanes (.ceq z d a b) d a b (fun x y => decide (x = y)) ∧
  ComparesLanes (.cne z d a b) d a b (fun x y => decide (x ≠ y)) ∧
  ComparesLanes (.clt z d a b) d a b (fun x y => decide (x.toInt < y.toInt)) ∧
  ComparesLanes (.cle z d a b) d a b (fun x y => decide (x.toInt ≤ y.toInt)) ∧
  ComparesLanes (.cltn z d a b) d a b (fun x y => decide (x.toNat < y.toNat)) ∧
  ComparesLanes (.clen z d a b) d a b (fun x y => decide (x.toNat ≤ y.toNat)) ∧
  ComparesLanes (.feq z d a b) d a b (fun x y => !nanBits x && !nanBits y && decide (signMag x = signMag y)) ∧
  ComparesLanes (.flt z d a b) d a b (fun x y => !nanBits x && !nanBits y && decide (signMag x < signMag y)) ∧
  ComparesLanes (.fle z d a b) d a b (fun x y => !nanBits x && !nanBits y && decide (signMag x ≤ signMag y)) ∧
  ComparesLanes (.fun z d a b) d a b (fun x y => nanBits x || nanBits y) ∧
  ComparesLanes (.tlt z d a b) d a b (fun x y => decide ((orderKey x).toNat < (orderKey y).toNat)) ∧
  ComparesLanes (.tle z d a b) d a b (fun x y => decide ((orderKey x).toNat ≤ (orderKey y).toNat)) ∧
  ComparesLanes (.teq z d a b) d a b (fun x y => decide (x = y))

/-- MSK (R244): whole masks, whatever lanes are active; MSET gives the active lanes. -/
def maskOperations : Prop := ∀ (z : Bool) (d a b : BitVec 3) (e : BitVec 7),
  SetsMask (.mand z d a b) d.toNat (fun c _ => srcM a c &&& srcM b c) ∧
  SetsMask (.mor z d a b) d.toNat (fun c _ => srcM a c ||| srcM b c) ∧
  SetsMask (.mxor z d a b) d.toNat (fun c _ => srcM a c ^^^ srcM b c) ∧
  SetsMask (.mandn z d a b) d.toNat (fun c _ => srcM a c &&& ~~~srcM b c) ∧
  SetsMask (.mnot z d a) d.toNat (fun c _ => ~~~srcM a c) ∧
  SetsMask (.mmov z d a) d.toNat (fun c _ => srcM a c) ∧
  SetsScalar (.mpop z e a) e.toNat (fun c _ => BitVec.ofNat 64 (onesOf 64 (srcM a c).toNat)) ∧
  GivesScalar (.mfirst z e a) e.toNat (fun c _ v =>
    (srcM a c = 0 ∧ v = 64) ∨ (v.toNat < 64 ∧ (srcM a c).getLsbD v.toNat ∧ ∀ l < v.toNat, ¬ (srcM a c).getLsbD l)) ∧
  SetsScalar (.mtos z e a) e.toNat (fun c _ => srcM a c) ∧
  SetsMask (.stom z d e) d.toNat (fun c _ => srcS e c) ∧
  SetsMask (.mset z d) d.toNat (fun c _ => c.slot.lanes)

/-! ## Floating point -/

/-- VF, FDIV, VTR and FCVT at every operand (R245, R248 to R250): each active lane takes the arithmetic function of its
sources, and nothing else changes; FMA, FMS, FNMA read the destination too, and FCVT converts all active lanes, from a pair
or to a pair for the 64-bit types, with the rounding mode that fn or rmode names. -/
def vectorFloatCompletes : Prop :=
  ∀ (z : Bool) (l r : BitVec 4) (d a b k : BitVec 7),
  SetsVector (.fadd z d a b) d.toNat (ofV2 a b fadd) ∧ SetsVector (.fsub z d a b) d.toNat (ofV2 a b fsub) ∧
  SetsVector (.fmul z d a b) d.toNat (ofV2 a b fmul) ∧
  SetsVector (.fma z d a b) d.toNat (ofV3 d a b fun w x y => fma x y w) ∧
  SetsVector (.fms z d a b) d.toNat (ofV3 d a b fun w x y => fms x y w) ∧
  SetsVector (.fnma z d a b) d.toNat (ofV3 d a b fun w x y => fnma x y w) ∧
  SetsVector (.frint z d a) d.toNat (ofV1 a frint) ∧ SetsVector (.fscl z d a b) d.toNat (ofV2 a b fscl) ∧
  SetsVector (.fdiv z l d a b) d.toNat (ofV2 a b fdiv) ∧
  SetsVector (.vtrSqrt z l d a) d.toNat (ofV1 a (vtrF 0)) ∧ SetsVector (.vtrRcp z l d a) d.toNat (ofV1 a (vtrF 1)) ∧
  SetsVector (.vtrRsq z l d a) d.toNat (ofV1 a (vtrF 2)) ∧ SetsVector (.vtrExp2 z l d a) d.toNat (ofV1 a (vtrF 3)) ∧
  SetsVector (.vtrLog2 z l d a) d.toNat (ofV1 a (vtrF 4)) ∧ SetsVector (.vtrExp z l d a) d.toNat (ofV1 a (vtrF 5)) ∧
  SetsVector (.vtrTanh z l d a) d.toNat (ofV1 a (vtrF 6)) ∧ SetsVector (.vtrSin z l d a) d.toNat (ofV1 a (vtrF 7)) ∧
  SetsVector (.vtrCos z l d a) d.toNat (ofV1 a (vtrF 8)) ∧
  ∀ dst src, cvtTypes k.toNat = some (dst, src) →
    let x (c : Ctx) (i : Nat) : Nat :=
      if src = .int 64 true ∨ src = .int 64 false then (srcV2 a c i).toNat else (srcV a c i).toNat
    let v (c : Ctx) (_ : State) (i : Nat) : Nat := convert dst src (cvtMode r.toNat c.b.rmode) (x c i) (srcV d c i)
    if dst = .int 64 true ∨ dst = .int 64 false then
      SetsPair (.fcvt z r d a k) d.toNat (fun c s i => BitVec.ofNat 64 (v c s i))
    else SetsVector (.fcvt z r d a k) d.toNat (fun c s i => BitVec.ofNat 32 (v c s i))

/-- An FP32 encoding that is neither infinity nor NaN (R218). -/
def finiteBits (x : W32) : Bool := decide (x.toNat / 2 ^ 23 % 256 ≠ 255)

/-- The value of a finite FP32 encoding as a multiple of 2^-149, the smallest subnormal (R219). -/
def unitsOf (x : W32) : Int :=
  let e := x.toNat / 2 ^ 23 % 256
  let m := x.toNat % 2 ^ 23
  let u : Nat := if e = 0 then m else (2 ^ 23 + m) * 2 ^ (e - 1)
  if x.getLsbD 31 then -(u : Int) else u

/-- y is the exact value (n / d) · 2^-149 rounded to FP32 by RNE (R225, R226): an infinity from half a step above the largest
finite value on; otherwise no finite encoding is nearer, on a tie the lowest significand bit of y is 0, and y has the sign of
the exact value when that is not zero. -/
def RoundsRne (n : Int) (d : Nat) (y : W32) : Prop :=
  if (2 ^ 25 - 1) * 2 ^ 252 * d ≤ n.natAbs then y = (if n < 0 then 0xFF800000 else 0x7F800000)
  else
    finiteBits y ∧ (n < 0 → y.getLsbD 31) ∧ (0 < n → ¬ y.getLsbD 31) ∧
      ∀ w, finiteBits w → (unitsOf y * d - n).natAbs ≤ (unitsOf w * d - n).natAbs ∧
        ((unitsOf y * d - n).natAbs = (unitsOf w * d - n).natAbs → unitsOf w = unitsOf y ∨ ¬ y.getLsbD 0)

/-- y is the square root of n / d, as a multiple of 2^-149, rounded to FP32 by RNE (R225): against every other finite encoding w
the root lies on the side of y of the middle between y and w, or in the middle, where the lowest significand bit of y is 0. -/
def RoundsRoot (n d : Nat) (y : W32) : Prop :=
  finiteBits y ∧ ¬ y.getLsbD 31 ∧ ∀ w, finiteBits w → ¬ w.getLsbD 31 →
    let middle := (unitsOf y + unitsOf w) ^ 2 * d
    (unitsOf y < unitsOf w → 4 * n ≤ middle) ∧ (unitsOf w < unitsOf y → middle ≤ 4 * n) ∧
      (w ≠ y → middle = 4 * n → ¬ y.getLsbD 0)

/-- The magnitude of a code of a format, sign clear, as a multiple of 2^-149 (R218, R219); codes above the largest finite one go on
as if the exponent had no upper limit (R225). -/
def codeUnits (f : Fmt) (c : Nat) : Nat :=
  let e := c / 2 ^ f.man
  if f = .e8m0 then 2 ^ (c + 22)
  else if e = 0 then c * 2 ^ (150 - f.bias - f.man).toNat else (2 ^ f.man + c % 2 ^ f.man) * 2 ^ (e + 149 - f.bias - f.man).toNat

/-- The magnitude that a mode chooses for t, which lies from a on and below b (R225). `even` says that the lowest significand bit of
a is 0. -/
def chosen (mode : RMode) (w : W32) (neg even : Bool) (t a b : Nat) : Nat :=
  if t = a then a
  else match mode with
    | .rne | .sat => if 2 * t < a + b ∨ (2 * t = a + b ∧ even) then a else b
    | .rna => if 2 * t < a + b then a else b
    | .rtz => a
    | .rdn => if neg then b else a
    | .rup => if neg then a else b
    | .sr => if w.toNat * (b - a) < (t - a) * 2 ^ 32 then b else a

/-- What a magnitude beyond a format gives (R226). -/
def beyond (f : Fmt) (mode : RMode) (neg : Bool) : Nat :=
  let s := if neg then f.signBit else 0
  let toMax : Bool := decide (mode = .rtz ∨ mode = .sat ∨ (mode = .rdn ∧ ¬ neg) ∨ (mode = .rup ∧ neg))
  match f with
  | .fp32 => s + if toMax then 0x7F7FFFFF else 0x7F800000
  | .fp16 => s + if toMax then 0x7BFF else 0x7C00
  | .bf16 => s + if toMax then 0x7F7F else 0x7F80
  | .e5m2 => s + if toMax then 0x7B else 0x7C
  | .e4m3 => if toMax then s + 0x7E else 0x7F
  | .e2m1 => s + 7
  | .e3m5 => 0xFF
  | .e8m0 => if toMax then 0xFE else 0xFF

/-- y is t · 2^-149 with a sign, rounded to a format (R225, R226, R229). -/
def RoundsBy (f : Fmt) (mode : RMode) (w : W32) (neg : Bool) (t y : Nat) : Prop :=
  let signed (c : Nat) : Nat := if neg ∧ ¬ (f = .e2m1 ∧ c = 0) then f.signBit + c else c
  if (f = .e3m5 ∨ f = .e8m0) ∧ (neg ∨ t = 0) ∨ (f = .e8m0 ∧ t < 2 ^ 22) then y = 0
  else if codeUnits f (f.maxBits + 1) ≤ t then y = beyond f mode neg
  else ∃ c ≤ f.maxBits, codeUnits f c ≤ t ∧ t < codeUnits f (c + 1) ∧
    y = if chosen mode w neg (decide (f ≠ .e8m0 ∧ c % 2 = 0)) t (codeUnits f c) (codeUnits f (c + 1)) = codeUnits f c then signed c
      else if c = f.maxBits then beyond f mode neg else signed (c + 1)

/-- FRINT and FSCL of finite values (R245), SQRT, RCP and RSQ of ordinary inputs, correctly rounded, and the six other functions of
VTR where R252 gives an exact result and at sample inputs, whose results were computed from the exact values (R251). -/
def floatFunctionsRound : Prop :=
  (∀ x : W32, finiteBits x → finiteBits (frint x) ∧ (frint x).getLsbD 31 = x.getLsbD 31 ∧
    ∃ k : Int, unitsOf (frint x) = k * 2 ^ 149 ∧ 2 * (k * 2 ^ 149 - unitsOf x).natAbs ≤ 2 ^ 149 ∧
      (2 * (k * 2 ^ 149 - unitsOf x).natAbs = 2 ^ 149 → k % 2 = 0)) ∧
  (∀ x n : W32, finiteBits x →
    (0 ≤ n.toInt → RoundsRne (unitsOf x * 2 ^ n.toInt.toNat) 1 (fscl x n)) ∧
    (n.toInt < 0 → RoundsRne (unitsOf x) (2 ^ (-n.toInt).toNat) (fscl x n))) ∧
  (∀ x : W32, finiteBits x → unitsOf x ≠ 0 →
    RoundsRne ((unitsOf x).sign * 2 ^ 298) (unitsOf x).natAbs (vtrF 1 x) ∧
    (0 < unitsOf x → RoundsRoot ((unitsOf x).natAbs * 2 ^ 149) 1 (vtrF 0 x) ∧ RoundsRoot (2 ^ 447) (unitsOf x).natAbs (vtrF 2 x))) ∧
  (∀ (n : Int) (x y : W32), -149 ≤ n → n ≤ 127 → finiteBits x → finiteBits y → ¬ x.getLsbD 31 → (n ≠ 0 ∨ ¬ y.getLsbD 31) →
    unitsOf x = 2 ^ (n + 149).toNat → unitsOf y = n * 2 ^ 149 → vtrF 4 x = y ∧ vtrF 3 y = x) ∧
  [(3, 0x3F000000, 0x3FB504F3), (3, 0xC2FE8000, 0x0035D13F), (4, 0x40400000, 0x3FCAE00D), (4, 0x3DCCCCCD, 0xC0549A78),
    (5, 0x3F800000, 0x402DF854), (5, 0x42B17217, 0x7F7FFF84), (6, 0x3F000000, 0x3EEC9A9F), (6, 0x4111999A, 0x3F800000),
    (7, 0x3F800000, 0x3F576AA4), (7, 0x7F7FFFFF, 0xBF0599B3), (8, 0x3F800000, 0x3F0A5140), (8, 0x3FC90FDB, 0xB33BBD2E)].all
      fun e : Nat × W32 × W32 => vtrF e.1 e.2.1 == e.2.2

/-- FCVT in every rounding mode (R225 to R228, R234): from FP32 to a narrow format and from integers to FP32 the value is rounded
to the format of the destination; to an integer type it is rounded on the integers and saturated; infinities and NaN. -/
def conversionsRound : Prop := ∀ (k : Nat) (mode : RMode) (x w : W32) (i : Int),
  let fp : CTy := .flt .fp32
  let neg := x.getLsbD 31
  let t := (unitsOf x).natAbs
  let f := narrowFmt k
  let cast (d : CTy) : Nat := convert d fp mode x.toNat w
  let int (n : Nat) (lo hi : Int) (y : Nat) : Prop := ∃ q : Nat,
    q = chosen mode w neg (decide (t / 2 ^ 149 % 2 = 0)) t (t / 2 ^ 149 * 2 ^ 149) ((t / 2 ^ 149 + 1) * 2 ^ 149) / 2 ^ 149 ∧
      y = (BitVec.ofInt n (max lo (min hi (if neg then -(q : Int) else q)))).toNat
  let inf : Bool := decide (x.toNat % 2 ^ 31 = 0x7F800000)
  let far (lo hi : Int) (n : Nat) : Nat := (BitVec.ofInt n (if neg then lo else hi)).toNat
  (1 ≤ k → k ≤ 7 →
    (finiteBits x → RoundsBy f mode w neg t (cast (.flt f))) ∧ (nanBits x → cast (.flt f) = f.nanBits) ∧
    (inf → cast (.flt f) = if (f = .e3m5 ∨ f = .e8m0) ∧ neg then 0 else beyond f (if mode = .sat then .sat else .rne) neg)) ∧
  (∀ n ∈ [8, 16, 32, 64],
    (finiteBits x → int n (-2 ^ (n - 1)) (2 ^ (n - 1) - 1) (cast (.int n true)) ∧ int n 0 (2 ^ n - 1) (cast (.int n false))) ∧
    (nanBits x → cast (.int n true) = 0 ∧ cast (.int n false) = 0) ∧
    (inf → cast (.int n true) = far (-2 ^ (n - 1)) (2 ^ (n - 1) - 1) n ∧ cast (.int n false) = far 0 (2 ^ n - 1) n)) ∧
  (∀ n ∈ [32, 64],
    (-2 ^ (n - 1) ≤ i → i < 2 ^ (n - 1) → RoundsBy .fp32 mode w (decide (i < 0)) (i.natAbs * 2 ^ 149)
      (convert fp (.int n true) mode (BitVec.ofInt n i).toNat w)) ∧
    (0 ≤ i → i < 2 ^ n → RoundsBy .fp32 mode w false (i.natAbs * 2 ^ 149) (convert fp (.int n false) mode i.toNat w)))

/-- FABS, FNEG and FCPS move bits (R245); FMIN, FMAX, FMINI and FMAXI use the min-max order, -0 below +0, with their NaN rules
(R232, R246); FCLASS sets the one bit of its class (R247). -/
def vectorFloatMovesAndOrder : Prop := ∀ (z : Bool) (d a b : BitVec 7),
  let lower (x y : W32) : W32 := if (orderKey x).toNat ≤ (orderKey y).toNat then x else y
  let upper (x y : W32) : W32 := if (orderKey x).toNat ≤ (orderKey y).toNat then y else x
  let zero (x : W32) : Bool := decide (x.toNat % 2 ^ 31 = 0)
  let inf (x : W32) : Bool := decide (x.toNat % 2 ^ 31 = 0x7F800000)
  let tiny (x : W32) : Bool := decide (x.toNat / 2 ^ 23 % 256 = 0) && !zero x
  SetsVector (.fabs z d a) d.toNat (ofV1 a fun x => BitVec.ofNat 32 (x.toNat % 2 ^ 31)) ∧
  SetsVector (.fneg z d a) d.toNat (ofV1 a fun x => BitVec.ofNat 32 (x.toNat + 2 ^ 31)) ∧
  SetsVector (.fcps z d a b) d.toNat (ofV2 a b fun x y => BitVec.ofNat 32 (x.toNat % 2 ^ 31 + y.toNat / 2 ^ 31 * 2 ^ 31)) ∧
  SetsVector (.fmin z d a b) d.toNat (ofV2 a b fun x y => if nanBits x || nanBits y then 0x7FC00000 else lower x y) ∧
  SetsVector (.fmax z d a b) d.toNat (ofV2 a b fun x y => if nanBits x || nanBits y then 0x7FC00000 else upper x y) ∧
  SetsVector (.fmini z d a b) d.toNat (ofV2 a b fun x y =>
    if nanBits x && nanBits y then 0x7FC00000 else if nanBits x then y else if nanBits y then x else lower x y) ∧
  SetsVector (.fmaxi z d a b) d.toNat (ofV2 a b fun x y =>
    if nanBits x && nanBits y then 0x7FC00000 else if nanBits x then y else if nanBits y then x else upper x y) ∧
  SetsVector (.fclass z d a) d.toNat (ofV1 a fun x =>
    if nanBits x then 0x100
    else if inf x then (if x.getLsbD 31 then 0x001 else 0x080)
    else if zero x then (if x.getLsbD 31 then 0x008 else 0x010)
    else if tiny x then (if x.getLsbD 31 then 0x004 else 0x020)
    else if x.getLsbD 31 then 0x002 else 0x040)

/-! ## Lanes, alphabets and numbers -/

/-- The Weaver (R215, R216): WEAVE moves lanes of the pair a, a + 1 as the draft says, whatever lanes are active, and SHFL by
the indices of b; only active lanes of d are written. WDRAFT replaces a draft whole, or raises ILL when a lane of a holds
more than a byte, naming the first such lane. -/
def weaverMoves : Prop := ∀ (z : Bool) (d a b : BitVec 7) (n : BitVec 2),
  SetsVector (.weave z d a n) d.toNat (fun c s l =>
    let e := (s.block c.bid).draft n.toNat l
    if e.getLsbD 7 then 0 else c.b.getV (a.toNat + e.toNat / 64 % 2) (e.toNat % 64)) ∧
  SetsVector (.shfl z d a b) d.toNat (fun c _ l =>
    if (srcV b c l).toNat < 64 then srcV a c (srcV b c l).toNat else 0) ∧
  ∀ c s, ready (.wdraft z n a) s = some c →
    ((∀ l < 64, (srcV a c l).toNat < 256) → ∃ k, Completes (.wdraft z n a) s c (s.modBlock c.bid fun _ => k) (c.pc + 4) ∧
      { k with drafts := (s.block c.bid).drafts } = s.block c.bid ∧
      ∀ m l, l < 64 → k.draft m l = if m = n.toNat then (srcV a c l).setWidth 8 else (s.block c.bid).draft m l) ∧
    ∀ l < 64, 256 ≤ (srcV a c l).toNat → (∀ j < l, (srcV a c j).toNat < 256) →
      exec (.wdraft z n a) s = .next (s.fail c {
        cls := .ill, lane := some l, detail := BitVec.ofNat 64 (l * 2 ^ 32 + (srcV a c l).toNat) })

/-- The sums of neighbours. -/
def pairSums (add : W32 → W32 → W32) : List W32 → List W32
  | x :: y :: r => add x y :: pairSums add r
  | _ => []

/-- Level k of the adder tree over the 64 leaves (R254). -/
def treeLevel (add : W32 → W32 → W32) (leaves : List W32) : Nat → List W32
  | 0 => leaves
  | k + 1 => pairSums add (treeLevel add leaves k)

/-- The leaves of a: an inactive lane counts as the identity, -0 for f32 and 0 for i32 (R254). -/
def leavesOf (a : BitVec 7) (ident : W32) (c : Ctx) : List W32 :=
  (List.range 64).map fun l => if c.slot.lanes.getLsbD l then srcV a c l else ident

/-- The prefix sum of lane l from the nodes of the set bits of l + 1, highest first (R255). -/
def prefixSum (add : W32 → W32 → W32) (leaves : List W32) (l : Nat) : W32 :=
  ([6, 5, 4, 3, 2, 1, 0].foldl
    (fun (r : Option W32 × Nat) k =>
      if (l + 1).testBit k then
        let x := (treeLevel add leaves k).getD (r.2 / 2 ^ k) 0
        (some (match r.1 with | none => x | some y => add y x), r.2 + 2 ^ k)
      else r)
    (none, 0)).1.getD 0

/-- RSUM and SCAN (R253 to R255): the fixed tree; the sum is zero-extended for f32 and sign-extended for i32; the prefix sums
go to the active lanes, a NaN as the canonical one (R230). -/
def laneSums : Prop := ∀ (z : Bool) (d a : BitVec 7),
  let add32 (x y : W32) : W32 := BitVec.ofNat 32 (x.toNat + y.toNat)
  SetsScalar (.rsum z d a 0) d.toNat
    (fun c _ => ((treeLevel fadd (leavesOf a 0x80000000 c) 6).getD 0 0).setWidth 64) ∧
  SetsScalar (.rsum z d a 1) d.toNat (fun c _ => ((treeLevel add32 (leavesOf a 0 c) 6).getD 0 0).signExtend 64) ∧
  SetsVector (.scan z d a 0) d.toNat (fun c _ l =>
    let x := prefixSum fadd (leavesOf a 0x80000000 c) l
    if nanBits x then 0x7FC00000 else x) ∧
  SetsVector (.scan z d a 1) d.toNat (fun c _ l => prefixSum add32 (leavesOf a 0 c) l)

/-- x lies strictly before y in the order of type t: f32 by the min-max order, i32, n32. -/
def precedes (t : BitVec 2) (x y : W32) : Prop :=
  if t = 0 then (orderKey x).toNat < (orderKey y).toNat else if t = 1 then x.toInt < y.toInt else x.toNat < y.toNat

/-- RMIN, RMAX, ARGMIN and ARGMAX (R232, R253): an active element that no active one precedes (follows), the lowest lane of
equal ones; with a NaN among active f32 elements the canonical NaN and the first NaN's lane. -/
def laneExtremes : Prop := ∀ (z : Bool) (d a : BitVec 7) (t : BitVec 2),
  let some_nan (c : Ctx) : Prop := t = 0 ∧ ∃ l ∈ c.lanes, nanBits (srcV a c l)
  let widened (v : W64) (x : W32) : Prop := v = if t = 1 then x.signExtend 64 else x.setWidth 64
  let best (before : W32 → W32 → Prop) (c : Ctx) (l : Nat) : Prop :=
    l ∈ c.lanes ∧ ∀ j ∈ c.lanes, ¬ before (srcV a c j) (srcV a c l) ∧ (j < l → before (srcV a c l) (srcV a c j))
  let first_nan (c : Ctx) (l : Nat) : Prop :=
    l ∈ c.lanes ∧ nanBits (srcV a c l) ∧ ∀ j ∈ c.lanes, j < l → ¬ nanBits (srcV a c j)
  let above (x y : W32) : Prop := precedes t y x
  GivesScalar (.rmin z d a t) d.toNat (fun c _ v => (some_nan c → v = 0x7FC00000) ∧
    (¬ some_nan c → ∃ l, best (precedes t) c l ∧ widened v (srcV a c l))) ∧
  GivesScalar (.rmax z d a t) d.toNat (fun c _ v => (some_nan c → v = 0x7FC00000) ∧
    (¬ some_nan c → ∃ l, best above c l ∧ widened v (srcV a c l))) ∧
  GivesScalar (.argmin z d a t) d.toNat (fun c _ v =>
    (some_nan c → ∃ l, first_nan c l ∧ v.toNat = l * 2 ^ 32 + 0x7FC00000) ∧
    (¬ some_nan c → ∃ l, best (precedes t) c l ∧ v.toNat = l * 2 ^ 32 + (srcV a c l).toNat)) ∧
  GivesScalar (.argmax z d a t) d.toNat (fun c _ v =>
    (some_nan c → ∃ l, first_nan c l ∧ v.toNat = l * 2 ^ 32 + 0x7FC00000) ∧
    (¬ some_nan c → ∃ l, best above c l ∧ v.toNat = l * 2 ^ 32 + (srcV a c l).toNat))

/-- The alphabet fields of R200. -/
def alphabetOk (v : W64) : Prop :=
  let k : Nat := v.toNat / 2 ^ 48 + 1
  let g := v.toNat / 2 ^ 41 % 128
  let w := 8 * 2 ^ (v.toNat / 2 ^ 39 % 4)
  let off := ((BitVec.ofNat 16 v.toNat).toInt : Int)
  let sub := (BitVec.ofNat 20 (v.toNat / 2 ^ 18)).toInt
  v.toNat / 2 ^ 16 % 4 = 0 ∧ 2 ≤ k ∧ 1 ≤ g ∧ g ≤ 64 ∧ k ^ g ≤ 2 ^ w ∧
    (v.getLsbD 38 → off ≤ sub ∧ sub ≤ off + (k : Int) - 1)

/-- ALSET and ALGET (R201, R205): a value that forms no valid alphabet register raises ILL and changes nothing; ALSET waits
for the packed accesses of the block that other slots have issued. -/
def alphabetRegisters : Prop := ∀ (z : Bool) (d a : BitVec 7) (g : BitVec 3),
  SetsScalar (.alget z d g) d.toNat (fun c s => (s.block c.bid).getAl g.toNat) ∧
  ∀ c s, ready (.alset z g a) s = some c →
    (alphabetOk (srcS a c) → s.packedBusy c.bid c.g c.sl → ∃ t, exec (.alset z g a) s = .next t ∧
      Parked (.alset z g a) c s t .packed) ∧
    (alphabetOk (srcS a c) → ¬ s.packedBusy c.bid c.g c.sl →
      ∃ k, Completes (.alset z g a) s c (s.modBlock c.bid fun _ => k) (c.pc + 4) ∧
      { k with al := (s.block c.bid).al } = s.block c.bid ∧
      ∀ n, k.getAl n = if n = g.toNat then srcS a c else (s.block c.bid).getAl n) ∧
    (¬ alphabetOk (srcS a c) → exec (.alset z g a) s = .next (s.fail c { cls := .ill, detail := srcS a c }))

/-- PKX and PKI (R50, R58, R214) where every active lane passes its checks: PKX gives each active lane the symbol at its
position, PKI the container that holds the old symbols but for the new one at its position; an invalid code under the
substitute policy reads as substitutes and sets the block's flag. A 64-bit container in an odd register raises ILL before any
other check (R41). -/
def symbolsInRegisters : Prop := ∀ (z : Bool) (d a : BitVec 7) (g : BitVec 3) (c : Ctx) (s : State),
  let al := (s.block c.bid).getAl g.toNat
  let code (r : BitVec 7) (l : Nat) : Nat :=
    if alWidth al = 64 then (srcV2 r c l).toNat else (srcV r c l).toNat % 2 ^ alWidth al
  let flagged (r : BitVec 7) : State :=
    if c.lanes.any fun l => badCode al (code r l) then
      s.modBlock c.bid fun k => { k with alflags := k.alflags ||| BitVec.ofNat 8 (2 ^ g.toNat) }
    else s
  let illegal (i : Instr) : Prop := ∃ w, encode i = some w ∧
    exec i s = .next (s.fail c { cls := .ill, detail := BitVec.ofNat 64 w })
  (ready (.pkx z d a g) s = some c →
    (∀ l ∈ c.lanes, (srcV d c l).toNat < alGroup al ∧ (badCode al (code a l) → alSubst al)) →
    ∃ t, exec (.pkx z d a g) s = .next t ∧ Wrote c (flagged a) t (c.pc + 4) [] (c.written d.toNat) [] [] ∧
      ∀ l ∈ c.lanes, ((t.grp c.g).b.getV d.toNat l).toInt =
        if badCode al (code a l) then alSymbol al
        else ((code a l / alRadix al ^ (srcV d c l).toNat % alRadix al : Nat) : Int) + alOffset al) ∧
  (ready (.pki z d a g) s = some c → alphabetOk al →
    (∀ l ∈ c.lanes, (c.b.getV (a.toNat + 1) l).toNat < alGroup al ∧ symOk al (srcV a c l).toInt ∧
      (badCode al (code d l) → alSubst al)) →
    ∃ t, exec (.pki z d a g) s = .next t ∧
      Wrote c (flagged d) t (c.pc + 4) [] (c.written d.toNat ++ if alWidth al = 64 then c.written (d.toNat + 1) else []) [] [] ∧
      ∀ l ∈ c.lanes,
        let new := if alWidth al = 64 then ((t.grp c.g).b.getV2 d.toNat l).toNat else ((t.grp c.g).b.getV d.toNat l).toNat
        new < alRadix al ^ alGroup al ∧ ∀ i < alGroup al,
          ((new / alRadix al ^ i % alRadix al : Nat) : Int) + alOffset al =
            if i = (c.b.getV (a.toNat + 1) l).toNat then (srcV a c l).toInt
            else if badCode al (code d l) then alSymbol al
            else ((code d l / alRadix al ^ i % alRadix al : Nat) : Int) + alOffset al) ∧
  (s.issuing = some c → c.grp.ahead = none → alWidth al = 64 →
    (a.toNat % 2 = 1 → illegal (.pkx z d a g)) ∧ (d.toNat % 2 = 1 → illegal (.pki z d a g)))

/-- One input bit of a reflected CRC-32C register. -/
def crcBit (r : Nat) (b : Bool) : Nat := if r.testBit 0 != b then r / 2 ^^^ 0x82F63B78 else r / 2

/-- The limb index and the contribution of an FP32 value in the order-free sum (R365). -/
def limbOf (x : W32) : Nat × Int :=
  let e := x.toNat / 2 ^ 23 % 256
  let m := x.toNat % 2 ^ 23
  let q := e - 1
  if nanBits x then (20, 1)
  else if e = 255 then (if x.getLsbD 31 then 19 else 18, 1)
  else (q / 16, (if x.getLsbD 31 then -1 else 1) * (((if e = 0 then m else 2 ^ 23 + m) * 2 ^ (q % 16) : Nat) : Int))

/-- RAND, FXSPLIT, FXJOIN, CRC and CLK (R364 to R368): the ChaCha20 word of the lane's block; the limb of a value; the limbs
joined, under RNE to the nearest value of their exact sum; n bytes folded into the CRC; the clocks as they stand. -/
def numbersAndClocks : Prop := ∀ (z : Bool) (d a b : BitVec 7),
  SetsVector (.rand z d a b) d.toNat (fun c s l =>
    let lane := 64 * s.flatOf c.g + l
    (chaBlock ((List.range 8).map fun i => (c.b.getS (a.toNat + i)).setWidth 32) (srcV b c l)
      [(c.l.record.getD 4 0).setWidth 32, BitVec.ofNat 32 lane, BitVec.ofNat 32 (lane / 2 ^ 32)]).getD
        ((c.b.getV (b.toNat + 1) l).toNat % 16) 0) ∧
  (∀ c s, ready (.fxsplit z d a) s = some c → ∃ t, exec (.fxsplit z d a) s = .next t ∧
    Wrote c s t (c.pc + 4) [] (c.written d.toNat ++ c.written (d.toNat + 1) ++ c.written (d.toNat + 2) ++
      c.written (d.toNat + 3)) [] [] ∧
    ∀ l ∈ c.lanes, ((t.grp c.g).b.getV2 d.toNat l).toInt = (limbOf (srcV a c l)).2 ∧
      ((t.grp c.g).b.getV (d.toNat + 2) l).toNat = (limbOf (srcV a c l)).1 ∧
      ((t.grp c.g).b.getV (d.toNat + 3) l).toNat = 8 * (limbOf (srcV a c l)).1) ∧
  SetsScalar (.fxjoin z d a b) d.toNat (fun c _ => (fxJoin (srcV2 a c) (cvtMode b.toNat c.b.rmode)).setWidth 64) ∧
  GivesScalar (.fxjoin z d a 1) d.toNat (fun c _ v =>
    let limb (i : Nat) : Int := (srcV2 a c i).toInt
    limb 18 = 0 → limb 19 = 0 → limb 20 = 0 →
      let sum := ((List.range 18).map fun i => limb i * 2 ^ (16 * i)).sum
      v.toNat < 2 ^ 32 ∧ if sum = 0 then v = 0 else RoundsRne sum 1 (v.setWidth 32)) ∧
  (∀ c s, ready (.crc z d a b) s = some c →
    (8 < (srcS b c).toNat → exec (.crc z d a b) s = .next (s.fail c { cls := .ill, detail := srcS b c })) ∧
    ((srcS b c).toNat ≤ 8 → ∃ t, exec (.crc z d a b) s = .next t ∧ Wrote c s t (c.pc + 4) [d.toNat] [] [] [] ∧
      (t.grp c.g).b.getS d.toNat =
        if d.toNat = 0 then 0
        else if srcS b c = 0 then srcS d c
        else BitVec.ofNat 64 ((List.range (8 * (srcS b c).toNat)).foldl
          (fun r i => crcBit r ((srcS a c).getLsbD i)) ((srcS d c).toNat % 2 ^ 32)))) ∧
  ∀ c s, ready (.clk z d b) s = some c →
    if (srcS b c).toNat ≤ 1 then ∃ t, exec (.clk z d b) s = .next t ∧ Wrote c s t (c.pc + 4) [d.toNat] [] [] [] ∧
      (t.grp c.g).b.getS d.toNat =
        if d.toNat = 0 then 0 else BitVec.ofNat 64 (if srcS b c = 0 then s.cycle else s.nanos)
    else exec (.clk z d b) s = .next (s.fail c { cls := .ill, detail := srcS b c })
/-! ## Memory -/

/-- The launch of the group is not ticketed, and in a token launch the group holds the commit token (R353, R361): its
writes go to memory when they are made. -/
def direct (c : Ctx) (s : State) : Prop := c.ticketed = false ∧ (c.tokened → s.holdsToken c.g)

/-- Each active lane's access translates through register x to pa l, and the home slice serves it. -/
def lanesReach (c : Ctx) (s : State) (x n : Nat) (kind : Kind) (va pa : Nat → Nat) : Prop :=
  ∀ l ∈ c.lanes, c.Maps x n kind (va l) (pa l) ∧ s.Serves c.q.part (pa l)

/-- LD and LDS (R174, R293, R296): each active lane reads n little-endian bytes of memory at its address, zero-extended, or
into an aligned pair for n = 8; LDS reads one address for the group. Nothing else changes but the lines of the caches. -/
def loadsReadMemory : Prop := ∀ (z : Bool) (la : BitVec 4) (d a : BitVec 7) (x : BitVec 3) (w h : BitVec 2)
    (c : Ctx) (s : State) (pa : Nat → Nat),
  let n := 2 ^ w.toNat
  (ready (.ld z la d a x w h) s = some c → c.ticketed = false →
    lanesReach c s x.toNat n .read (fun l => low 64 ((c.b.getX x.toNat).base64 + (srcV a c l).toInt)) pa →
    ∃ u, CachesOnly s u ∧ Completes (.ld z la d a x w h) s c
      (u.modBank c.g fun k =>
        if n = 8 then k.setV2 d.toNat c.lanes fun l => BitVec.ofNat 64 (loadN s.mem (pa l) 8)
        else k.setV d.toNat c.lanes fun l => BitVec.ofNat 32 (loadN s.mem (pa l) n)) (c.pc + 4)) ∧
  (ready (.lds z la d a x w h) s = some c → c.ticketed = false →
    c.Maps x.toNat n .read (low 64 ((c.b.getX x.toNat).base64 + (srcS a c).toInt)) (pa 0) → s.Serves c.q.part (pa 0) →
    ∃ u, CachesOnly s u ∧ Completes (.lds z la d a x w h) s c
      (u.modBank c.g fun k => k.setS d.toNat (BitVec.ofNat 64 (loadN s.mem (pa 0) n))) (c.pc + 4))

/-- ST and STS (R174, R175, R51) where no monitor watches the lines: each active lane, ascending, writes the low n bytes of
its element at its address, so that the higher lane's value remains; STS writes s(d) once. Every other byte of memory reads
as before. -/
def storesWriteMemory : Prop := ∀ (z : Bool) (la : BitVec 4) (d a : BitVec 7) (x : BitVec 3) (w h : BitVec 2)
    (c : Ctx) (s : State) (pa : Nat → Nat),
  let n := 2 ^ w.toNat
  let v (l : Nat) : Nat := if n = 8 then (srcV2 d c l).toNat else (srcV d c l).toNat % 2 ^ (8 * n)
  (ready (.st z la d a x w h) s = some c → direct c s →
    lanesReach c s x.toNat n .write (fun l => low 64 ((c.b.getX x.toNat).base64 + (srcV a c l).toInt)) pa →
    (∀ l ∈ c.lanes, s.Unwatched (pa l) n) →
    ∃ u, CachesOnly { s with mem := rmwLanes n pa (fun l _ => some (v l)) c.lanes s.mem } u ∧
      Completes (.st z la d a x w h) s c u (c.pc + 4) ∧
      (∀ k, (∀ l ∈ c.lanes, k < pa l ∨ pa l + n ≤ k) → u.byte k = s.byte k) ∧
      (∀ l ∈ c.lanes, (∀ l' ∈ c.lanes, l < l' → pa l' + n ≤ pa l ∨ pa l + n ≤ pa l') → loadN u.mem (pa l) n = v l)) ∧
  (ready (.sts z la d a x w h) s = some c → direct c s →
    c.Maps x.toNat n .write (low 64 ((c.b.getX x.toNat).base64 + (srcS a c).toInt)) (pa 0) → s.Serves c.q.part (pa 0) →
    s.Unwatched (pa 0) n →
    ∃ u, CachesOnly { s with mem := storeN s.mem (pa 0) ((srcS d c).toNat % 2 ^ (8 * n)) n } u ∧
      Completes (.sts z la d a x w h) s c u (c.pc + 4) ∧
      (∀ k, k < pa 0 ∨ pa 0 + n ≤ k → u.byte k = s.byte k) ∧ loadN u.mem (pa 0) n = (srcS d c).toNat % 2 ^ (8 * n))

/-- LDP and STP (R171 to R173): each active lane's n bytes at offset V(a)[l] of the scratchpad of gang peer p; the first
lane whose offset is misaligned, or whose bytes pass the block's S bytes, raises ALIGN or LIMIT and nothing is written. -/
def scratchpadLoadsAndStores : Prop := ∀ (z : Bool) (la : BitVec 4) (d a : BitVec 7) (p : BitVec 3)
    (w h : BitVec 2) (c : Ctx) (s : State),
  let n := 2 ^ w.toNat
  let off (l : Nat) : Nat := (srcV a c l).toNat
  let good (l : Nat) : Prop := off l % n = 0 ∧ off l + n ≤ c.scratch
  let peer : BId :=
    { c.bid with flat := c.bid.flat - c.bid.flat % c.l.gangSize + (c.bid.flat % c.l.gangSize + p.toNat) % c.l.gangSize }
  let v (l : Nat) : Nat := if n = 8 then (srcV2 d c l).toNat else (srcV d c l).toNat % 2 ^ (8 * n)
  let stops (i : Instr) : Prop := ∀ l ∈ c.lanes, (∀ l' ∈ c.lanes, l' < l → good l') →
    (off l % n ≠ 0 → exec i s = .next (s.fail c { cls := .align, lane := some l, detail := BitVec.ofNat 64 (off l) })) ∧
    (off l % n = 0 → c.scratch < off l + n →
      exec i s = .next (s.fail c { cls := .limit, lane := some l, detail := BitVec.ofNat 64 (off l) }))
  (ready (.ldp z la d a p w h) s = some c →
    ((∀ l ∈ c.lanes, good l) → Completes (.ldp z la d a p w h) s c
      (s.modBank c.g fun k =>
        if n = 8 then k.setV2 d.toNat c.lanes fun l => BitVec.ofNat 64 (loadN (s.block peer).scratch (off l) 8)
        else k.setV d.toNat c.lanes fun l => BitVec.ofNat 32 (loadN (s.block peer).scratch (off l) n)) (c.pc + 4)) ∧
    stops (.ldp z la d a p w h)) ∧
  (ready (.stp z la d a p w h) s = some c →
    ((∀ l ∈ c.lanes, good l) → Completes (.stp z la d a p w h) s c
      (s.modBlock peer fun k => { k with scratch := rmwLanes n off (fun l _ => some (v l)) c.lanes k.scratch })
      (c.pc + 4)) ∧
    stops (.stp z la d a p w h))

/-- A container with the symbol at a position replaced (R50, R210); an invalid code reads as substitutes first. -/
def withSymbol (al : W64) (old pos : Nat) (x : Int) : Nat :=
  (List.range (alGroup al)).foldl (fun sum i => sum + alRadix al ^ i * (
    if i = pos then (x - alOffset al).toNat
    else if badCode al old then (alSymbol al - alOffset al).toNat
    else old / alRadix al ^ i % alRadix al)) 0

/-- PKLD and PKST (R203, R207 to R213) through a register in scratchpad form, where every lane's container lies in the
block's scratchpad and no invalid code meets the fault policy: PKLD gives the symbol of each element; PKST writes each
symbol into its container, lane by lane; a substituted invalid code sets the block's sticky flag (R58). -/
def packedScratchpad : Prop := ∀ (z : Bool) (la : BitVec 4) (d a : BitVec 7) (x g : BitVec 3) (h : BitVec 1)
    (c : Ctx) (s : State),
  let al := (s.block c.bid).getAl g.toNat
  let n := alWidth al / 8
  let ca (l : Nat) : Nat := (c.b.getX x.toNat).base + (srcV a c l).toNat / alGroup al * n
  let pos (l : Nat) : Nat := (srcV a c l).toNat % alGroup al
  let f (l old : Nat) : Option Nat := some (withSymbol al old (pos l) (srcV d c l).toInt)
  let scr := (s.block c.bid).scratch
  let at_ (l : Nat) : SMap Byte := rmwLanes n ca f (c.lanes.filter (· < l)) scr
  let flag (m : Nat → SMap Byte) (k : Block) : Block :=
    if c.lanes.any fun l => badCode al (loadN (m l) (ca l) n) then
      { k with alflags := k.alflags ||| BitVec.ofNat 8 (2 ^ g.toNat) } else k
  alphabetOk al → c.slot.al = none → (c.b.getX x.toNat).sp = true → (∀ l ∈ c.lanes, ca l % n = 0 ∧ ca l + n ≤ c.scratch) →
    (∀ l ∈ c.lanes, badCode al (loadN scr (ca l) n) → alSubst al) →
  (ready (.pkld z la d a x g h) s = some c → Completes (.pkld z la d a x g h) s c
    ((s.modBlock c.bid (flag fun _ => scr)).modBank c.g fun k => k.setV d.toNat c.lanes fun l =>
      BitVec.ofInt 32 (if badCode al (loadN scr (ca l) n) then alSymbol al
        else ((loadN scr (ca l) n / alRadix al ^ pos l % alRadix al : Nat) : Int) + alOffset al)) (c.pc + 4)) ∧
  (ready (.pkst z la d a x g h) s = some c → c.ticketed = false → (∀ l ∈ c.lanes, symOk al (srcV d c l).toInt) →
    Completes (.pkst z la d a x g h) s c
      (s.modBlock c.bid fun k => flag at_ { k with scratch := rmwLanes n ca f c.lanes k.scratch }) (c.pc + 4))

/-- The vector words that read, change and write elements: operation (none for CAS), element bytes, d, a, x, and whether the
old values are written to d. -/
noncomputable def rmwWord : Instr → Option (Option AOp × Nat × BitVec 7 × BitVec 7 × BitVec 3 × Bool)
  | .atomAdd _ w _ d a x => some (some .add, w64Bytes w, d, a, x, true)
  | .atomAnd _ w _ d a x => some (some .and, w64Bytes w, d, a, x, true)
  | .atomOr _ w _ d a x => some (some .or, w64Bytes w, d, a, x, true)
  | .atomXor _ w _ d a x => some (some .xor, w64Bytes w, d, a, x, true)
  | .atomMin _ w _ d a x => some (some .min, w64Bytes w, d, a, x, true)
  | .atomMax _ w _ d a x => some (some .max, w64Bytes w, d, a, x, true)
  | .atomMinn _ w _ d a x => some (some .minn, w64Bytes w, d, a, x, true)
  | .atomMaxn _ w _ d a x => some (some .maxn, w64Bytes w, d, a, x, true)
  | .atomXchg _ w _ d a x => some (some .xchg, w64Bytes w, d, a, x, true)
  | .atomInc _ w _ d a x => some (some .inc, w64Bytes w, d, a, x, true)
  | .atomDec _ w _ d a x => some (some .dec, w64Bytes w, d, a, x, true)
  | .atomFadd _ _ d a x => some (some .fadd, 4, d, a, x, true)
  | .cas _ _ d a x w _ => some (none, w64Bytes w, d, a, x, true)
  | .redAdd _ w _ d a x => some (some .add, w64Bytes w, d, a, x, false)
  | .redAnd _ w _ d a x => some (some .and, w64Bytes w, d, a, x, false)
  | .redOr _ w _ d a x => some (some .or, w64Bytes w, d, a, x, false)
  | .redXor _ w _ d a x => some (some .xor, w64Bytes w, d, a, x, false)
  | .redMin _ w _ d a x => some (some .min, w64Bytes w, d, a, x, false)
  | .redMax _ w _ d a x => some (some .max, w64Bytes w, d, a, x, false)
  | .redMinn _ w _ d a x => some (some .minn, w64Bytes w, d, a, x, false)
  | .redMaxn _ w _ d a x => some (some .maxn, w64Bytes w, d, a, x, false)
  | .redXchg _ w _ d a x => some (some .xchg, w64Bytes w, d, a, x, false)
  | .redInc _ w _ d a x => some (some .inc, w64Bytes w, d, a, x, false)
  | .redDec _ w _ d a x => some (some .dec, w64Bytes w, d, a, x, false)
  | .redFadd _ _ d a x => some (some .fadd, 4, d, a, x, false)
  | _ => none

/-- The new value of an element of w bits (R300). -/
def newElement (op : AOp) (w old v : Nat) : Nat :=
  match op with
  | .add => (old + v) % 2 ^ w
  | .and => old &&& v
  | .or => old ||| v
  | .xor => old ^^^ v
  | .min => if (BitVec.ofNat w v).slt (BitVec.ofNat w old) then v else old
  | .max => if (BitVec.ofNat w old).slt (BitVec.ofNat w v) then v else old
  | .minn => min old v
  | .maxn => max old v
  | .xchg => v
  | .inc => if old ≥ v then 0 else old + 1
  | .dec => if old = 0 ∨ old > v then v else old - 1
  | .fadd => (fadd (BitVec.ofNat 32 old) (BitVec.ofNat 32 v)).toNat

/-- The element of lane l of a vector operand of n bytes. -/
def elementOf (n : Nat) (c : Ctx) (r l : Nat) : Nat :=
  if n = 8 then (c.b.getV2 r l).toNat else (c.b.getV r l).toNat

/-- What an ATOM, RED or CAS writes over an element (R300, R303). -/
def elementAfter (op : Option AOp) (n : Nat) (c : Ctx) (d l old : Nat) : Option Nat :=
  match op with
  | some op => some (newElement op (8 * n) old (elementOf n c d l))
  | none => if old = elementOf n c d l then some (elementOf n c (d + n / 4) l) else none

/-- The condition, operands and timed bit of a WAITC (R306). -/
noncomputable def waitWord : Instr → Option (WCond × BitVec 7 × BitVec 7 × BitVec 3 × Bool)
  | .waitcEq _ d a x t => some (.eq, d, a, x, t == 1)
  | .waitcNe _ d a x t => some (.ne, d, a, x, t == 1)
  | .waitcLt _ d a x t => some (.lt, d, a, x, t == 1)
  | .waitcGe _ d a x t => some (.ge, d, a, x, t == 1)
  | .waitcLtn _ d a x t => some (.ltn, d, a, x, t == 1)
  | .waitcGen _ d a x t => some (.gen, d, a, x, t == 1)
  | .waitcAny _ d a x t => some (.any, d, a, x, t == 1)
  | _ => none

/-- Whether element e meets a condition with comparand v (R306). -/
def meets (k : WCond) (e v : W64) : Prop :=
  match k with
  | .eq => e = v
  | .ne => e ≠ v
  | .lt => e.toInt < v.toInt
  | .ge => e.toInt ≥ v.toInt
  | .ltn => e.toNat < v.toNat
  | .gen => e.toNat ≥ v.toNat
  | .any => e &&& v ≠ 0

/-- The vector words that access memory through a translation register: x, a, element bytes, kind. -/
noncomputable def laneAccess (i : Instr) : Option (BitVec 3 × BitVec 7 × Nat × Kind) :=
  match i with
  | .ld _ _ _ a x w _ => some (x, a, 2 ^ w.toNat, .read)
  | .st _ _ _ a x w _ => some (x, a, 2 ^ w.toNat, .write)
  | _ => (rmwWord i).map fun e => (e.2.2.2.2.1, e.2.2.2.1, e.2.1, .rmw)

/-! ## Control -/

/-- A branch target: 4 times the signed offset after the word's own address (R25). -/
def branchTo {n : Nat} (c : Ctx) (i : BitVec n) : W64 := BitVec.ofInt 64 (c.pc.toInt + 4 * i.toInt)

/-- BRU, JMP, JR, NOP and YIELD (R25, R337 to R339): a branch goes to its target or to the next word; JR goes to s(a), and an
address that is not canonical or not a multiple of 4 raises ALIGN; nothing else changes. -/
def branchesAndJumps : Prop := ∀ (z : Bool) (a : BitVec 7) (i : BitVec 14) (j : BitVec 21) (c : Ctx) (s : State),
  let goes (w : Instr) (p : Prop) : Prop := ready w s = some c →
    (p → Completes w s c s (branchTo c i)) ∧ (¬ p → Completes w s c s (c.pc + 4))
  goes (.bruEqz z a i) (srcS a c = 0) ∧ goes (.bruNez z a i) (srcS a c ≠ 0) ∧
  goes (.bruLtz z a i) ((srcS a c).toInt < 0) ∧ goes (.bruGez z a i) (0 ≤ (srcS a c).toInt) ∧
  goes (.bruGtz z a i) (0 < (srcS a c).toInt) ∧ goes (.bruLez z a i) ((srcS a c).toInt ≤ 0) ∧
  goes (.bruAlw z i) True ∧
  (ready (.jmp z j) s = some c → Completes (.jmp z j) s c s (branchTo c j)) ∧
  (ready (.jr z a) s = some c →
    (canonical (srcS a c).toNat ∧ (srcS a c).toNat % 4 = 0 → Completes (.jr z a) s c s (srcS a c)) ∧
    (¬ (canonical (srcS a c).toNat ∧ (srcS a c).toNat % 4 = 0) →
      exec (.jr z a) s = .next (s.fail c { cls := .align, detail := srcS a c }))) ∧
  (ready (.nop z) s = some c → Completes (.nop z) s c s (c.pc + 4)) ∧
  (ready (.yield z) s = some c → Completes (.yield z) s c s (c.pc + 4))

/-- The stack has room for an entry more (R176, R177). -/
def roomy (b : Bank) : Prop := b.stkbase.toNat + 16 * (b.depth + 1) ≤ b.stklim.toNat

/-- BRD (R333): not taken, taken by all lanes, or split: the other slot, when occupied, is pushed as a kind 1 entry, the issuing
slot keeps the lanes that do not branch, and the other slot takes those that do. A push past stklim raises STACK with the
entry's number, and both slots stay as they were; a fault that background work kept pending is raised in place of the wait for a
spill (R178). -/
def branchesDiverge : Prop := ∀ (z set : Bool) (a : BitVec 3) (i : BitVec 14) (c : Ctx) (s : State),
  let w : Instr := if set then .brdSet z a i else .brdClr z a i
  let taken := c.slot.lanes &&& (if set then srcM a c else ~~~ srcM a c)
  let other := c.b.slot (otherSlot c.sl)
  let entry : SEntry :=
    { pending := true, pc := if other.wait = .join then other.pc - 4 else other.pc, lanes := other.lanes }
  let split (stk : List SEntry) : State := (s.modBank c.g fun b =>
    { (b.modSlot c.sl fun x => { x with pc := c.pc + 4, lanes := c.slot.lanes &&& ~~~ taken, wait := .none, waited := 0 }).modSlot
        (otherSlot c.sl) (fun x => { x with pc := branchTo c i, lanes := taken, wait := .none, waited := 0 }) with
      stk := stk }).cancelMonitors c.g (some (otherSlot c.sl))
  ready w s = some c →
    (taken = 0 → Completes w s c s (c.pc + 4)) ∧
    (taken ≠ 0 → taken = c.slot.lanes → Completes w s c s (branchTo c i)) ∧
    (taken ≠ 0 → taken ≠ c.slot.lanes →
      (other.empty → Leaves w s c (split c.b.stk)) ∧
      (¬ other.empty → roomy c.b → c.b.stk.length < 128 →
        Leaves w s c (split (entry :: c.b.stk))) ∧
      (¬ other.empty → ¬ roomy c.b →
        exec w s = .next (s.fail c { cls := .stack, detail := BitVec.ofNat 64 c.b.depth })) ∧
      (¬ other.empty → roomy c.b → 128 ≤ c.b.stk.length →
        (c.grp.stkFault = none → ∃ t, exec w s = .next t ∧ Parked w c s t .spill) ∧
        ∀ f, c.grp.stkFault = some f → exec w s = .next ((s.modGrp c.g fun r => { r with stkFault := none }).fail c f)))

/-- JOIN (R334), by the other slot: parked after a JOIN at the same PC, the slots merge into slot A; parked at another, both go
on; running, this slot parks; empty, a kind 1 entry on top of the stack is popped into it and this slot parks, and without
one JOIN acts as NOP. Where the entries lie in memory it waits for a fill, or raises the fault that one left pending (R178). -/
def joinsReunite : Prop := ∀ (z : Bool) (c : Ctx) (s : State), ready (.join z) s = some c →
  let w : Instr := .join z
  let o := c.b.slot (otherSlot c.sl)
  let parks (b : Bank) : Bank := b.modSlot c.sl fun x => { x with pc := c.pc + 4, wait := .join, waited := 0 }
  (¬ o.empty → o.wait = .join → o.pc = c.pc + 4 → Leaves w s c (s.modBank c.g fun b =>
    { b with slotA := { pc := c.pc + 4, lanes := b.slotA.lanes ||| b.slotB.lanes, gpc := b.slotA.gpc },
             slotB := { pc := b.slotB.gpc, gpc := b.slotB.gpc } })) ∧
  (¬ o.empty → o.wait = .join → o.pc ≠ c.pc + 4 →
    Completes w s c (s.modSlot c.g (otherSlot c.sl) fun x => { x with wait := .none, waited := 0 }) (c.pc + 4)) ∧
  (¬ o.empty → o.wait ≠ .join → Leaves w s c (s.modBank c.g parks)) ∧
  (o.empty → ∀ e r, c.b.stk = e :: r → e.pending → Leaves w s c (s.modBank c.g fun b =>
    { (parks b).modSlot (otherSlot c.sl) (fun x => { pc := e.pc, lanes := e.lanes, gpc := x.gpc }) with stk := r })) ∧
  (o.empty → (∀ e r, c.b.stk = e :: r → ¬ e.pending) → (c.b.stk = [] → c.b.spilled = 0) →
    Completes w s c s (c.pc + 4)) ∧
  (o.empty → c.b.stk = [] → c.b.spilled ≠ 0 →
    (c.grp.stkFault = none → ∃ t, exec w s = .next t ∧ Parked w c s t (.fill c.b.spilled)) ∧
    ∀ f, c.grp.stkFault = some f → exec w s = .next ((s.modGrp c.g fun r => { r with stkFault := none }).fail c f))

/-- CALL, CALLR and RET (R177, R336, R339): a call pushes the other slot, when occupied, and the return address, and goes to
its target; RET pops the return address and pushes the other slot in its place. A push past stklim, an empty stack at RET and
a kind 1 entry on top there raise STACK. -/
def callsReturn : Prop := ∀ (z : Bool) (a : BitVec 7) (j : BitVec 21) (c : Ctx) (s : State),
  let o := c.b.slot (otherSlot c.sl)
  let entry : SEntry := { pending := true, pc := if o.wait = .join then o.pc - 4 else o.pc, lanes := o.lanes }
  let back : SEntry := { pending := false, pc := c.pc + 4, lanes := 0 }
  let pushed (l : List SEntry) : State := (s.modBank c.g fun b =>
    { (if o.empty then b else b.modSlot (otherSlot c.sl) fun x => { pc := x.gpc, gpc := x.gpc }) with stk := l }).cancelMonitors
      c.g (some (otherSlot c.sl))
  let calls (w : Instr) (pc : W64) : Prop :=
    (o.empty → roomy c.b → c.b.stk.length < 128 → Completes w s c (pushed (back :: c.b.stk)) pc) ∧
    (¬ o.empty → roomy { c.b with stk := entry :: c.b.stk } → c.b.stk.length < 127 →
      Completes w s c (pushed (back :: entry :: c.b.stk)) pc) ∧
    (¬ roomy c.b → exec w s = .next (s.fail c { cls := .stack, detail := BitVec.ofNat 64 c.b.depth }))
  (ready (.call z j) s = some c → calls (.call z j) (branchTo c j)) ∧
  (ready (.callr z a) s = some c →
    (canonical (srcS a c).toNat ∧ (srcS a c).toNat % 4 = 0 → calls (.callr z a) (srcS a c)) ∧
    (¬ (canonical (srcS a c).toNat ∧ (srcS a c).toNat % 4 = 0) →
      exec (.callr z a) s = .next (s.fail c { cls := .align, detail := srcS a c }))) ∧
  (ready (.ret z) s = some c →
    (∀ e r, c.b.stk = e :: r → ¬ e.pending → o.empty →
      Completes (.ret z) s c (s.modBank c.g fun b => { b with stk := r }) e.pc) ∧
    (∀ e r, c.b.stk = e :: r → ¬ e.pending → ¬ o.empty → Completes (.ret z) s c (pushed (entry :: r)) e.pc) ∧
    ((c.b.stk = [] ∧ c.b.spilled = 0) ∨ (∃ e r, c.b.stk = e :: r ∧ e.pending) →
      ∃ f, f.cls = .stack ∧ exec (.ret z) s = .next (s.fail c f)))

/-- EXIT (R165, R309, R335): behind accesses beyond the package it waits. With lanes in the other slot the issuing slot
empties, or takes the kind 1 entry on top of the stack. The last lanes of a group with an empty stack wait for its matrix
instructions; then the group has exited, with both slots empty, no monitor or wake left and every error that no MWAIT
collected posted, and a block whose groups have all exited holds no pin, no shadow and no copy. -/
def exitsRetire : Prop := ∀ (z : Bool) (c : Ctx) (s : State), ready (.exit z) s = some c → isHdl c.g = false →
  let w : Instr := .exit z
  let o := c.b.slot (otherSlot c.sl)
  (s.remotePending c.g true → ∃ t, exec w s = .next t ∧ Parked w c s t (.remote true)) ∧
  (¬ s.remotePending c.g true → ¬ o.empty → o.wait ≠ .join → (∀ e r, c.b.stk = e :: r → ¬ e.pending) →
    (c.b.stk = [] → c.b.spilled = 0) →
    Leaves w s c ((s.modSlot c.g c.sl fun x => { pc := x.gpc, gpc := x.gpc }).barAfterExit c.g c.sl)) ∧
  (¬ s.remotePending c.g true → ¬ o.empty → ∀ e r, c.b.stk = e :: r → e.pending →
    Leaves w s c ((s.modBank c.g fun b =>
      { b.modSlot c.sl (fun x => { pc := e.pc, lanes := e.lanes, gpc := x.gpc }) with stk := r }).barAfterExit c.g c.sl)) ∧
  (¬ s.remotePending c.g true → o.empty → (∀ e ∈ c.b.stk, ¬ e.pending) → c.b.spilled = 0 →
    ((∃ m ∈ s.matq, m.g = c.g) → ∃ t, exec w s = .next t ∧ Parked w c s t .drain) ∧
    ((∀ m ∈ s.matq, m.g ≠ c.g) → ∃ t, exec w s = .next t ∧ (t.grp c.g).run = .exited ∧
      (t.grp c.g).b.slotA.empty ∧ (t.grp c.g).b.slotB.empty ∧ (t.grp c.g).b.stk = [] ∧ (t.grp c.g).merrs = [] ∧
      (∀ m ∈ t.monitors, m.g ≠ c.g) ∧ (∀ k ∈ t.wakes, k.g ≠ c.g) ∧
      (t.part c.q.part).nextRid = (s.part c.q.part).nextRid + c.grp.merrs.length ∧
      ((s.groups.map (·.1)).Nodup → (∀ e ∈ s.groups, e.1 ≠ c.g → bidOf e.1 = c.bid → isHdl e.1 = false → e.2.run = .exited) →
        (s.block? c.bid).isSome →
        (t.block c.bid).exited ∧ (t.block c.bid).pins = [] ∧ (t.block c.bid).shadows = [] ∧ ∀ k ∈ t.copies, k.bid ≠ c.bid)))

/-- BRK and TRAP (R339, R369, R374, R382): BRK takes exception BRK to the on-core trap handler, while no PUBLISH of the group
waits for engine writes. TRAP waits behind accesses
beyond the package and at a full ring; otherwise it parks the group on a fresh tag, advances the ring's tail, and writes no
byte of memory but those of the ring entry, which lies in the package and meets no memory error and no update-only copy. That one
entry of the ring is kept free, so that a ring of size 0 or with its tail one before its head is full, is the model's choice (log
entry 24). -/
def breaksAndSystemCalls : Prop := ∀ (z : Bool) (d a : BitVec 7) (i : BitVec 11) (c : Ctx) (s : State),
  isHdl c.g = false →
  (ready (.brk z) s = some c → (∀ n, (c.b.slot (otherSlot c.sl)).wait ≠ .engine n) → ∃ t, exec (.brk z) s = .next t ∧
    Trapped c { cls := .brk } s t) ∧
  (ready (.trap z d a i) s = some c →
    let w : Instr := .trap z d a i
    let p := s.part c.q.part
    let full : Prop := p.scsize = 0 ∨ (p.sctail.toNat + 1) % p.scsize.toNat = p.schead.toNat % p.scsize.toNat
    let at_ := p.scbase.toNat + 32 * (p.sctail.toNat % p.scsize.toNat)
    (s.remotePending c.g true → ∃ t, exec w s = .next t ∧ Parked w c s t (.remote true)) ∧
    (¬ s.remotePending c.g true → full → ∃ t, exec w s = .next t ∧ Parked w c s t .ring) ∧
    (¬ s.remotePending c.g true → ¬ full → s.Quiet → (∀ u ∈ s.updates, u.line ≠ at_ / 256 ∧ u.line ≠ (at_ + 31) / 256) →
      at_ + 32 ≤ 2 ^ 50 → ∃ t, exec w s = .next t ∧
      (t.grp c.g).run = .syscall (p.nextTag % 2 ^ 64) d.toNat ∧ (t.grp c.g).epc = c.pc ∧ (t.grp c.g).eslot = c.sl ∧
      c.b.Keeps (t.grp c.g).b [] [] [] [] ∧ (∀ g, g ≠ c.g → (t.grp g).b = (s.grp g).b) ∧
      (t.part c.q.part).sctail = BitVec.ofNat 64 ((p.sctail.toNat + 1) % p.scsize.toNat) ∧
      (t.part c.q.part).calls = p.calls ++ [p.nextTag] ∧ (t.part c.q.part).nextTag = p.nextTag + 1 ∧
      ∀ k, k < at_ ∨ at_ + 32 ≤ k → t.byte k = s.byte k))

/-! ## The issue-priority token, barriers, the commit token, LAUNCH -/

/-- PASS, TAKE and QUERY (R290, R291) on the token of the group's quadrant: PASS hands it to a group of its block in the
quadrant, whose TAKE that waits ends with 1, or to none where no group waits, and answers 1; without the token it answers 0, at
any other target 2. TAKE takes a token that is its own or none, else answers 0 or waits; a value past 1 raises ILL. QUERY answers
bit 1 for none and bit 0 for its own. -/
def priorityToken : Prop := ∀ (z : Bool) (d a : BitVec 7) (c : Ctx) (s : State),
  let at_ := s.whereIs c.g
  let token := (s.quad at_.1 at_.2.1 at_.2.2).prio
  let give (h : Option GId) : State := s.modQuad at_.1 at_.2.1 at_.2.2 fun q => { q with prio := h }
  let out (i : Instr) (u : State) (v : W64) : Prop := Completes i s c (u.modBank c.g fun b => b.setS d.toNat v) (c.pc + 4)
  let v := srcS a c
  let mate : GId := .grp c.bid.launch c.bid.flat v.toNat
  let resident : Prop := isHdl c.g = false ∧ v.toNat < 16 ∧
    ∃ r, s.grp? mate = some r ∧ r.quad = c.grp.quad ∧ r.run ≠ .exited
  let waits (b : Bank) (sl : SlotId) : Prop := ∃ d', (b.slot sl).wait = .prio d'
  let waiting : Prop := ∃ e ∈ s.groups, waits e.2.b .a ∨ waits e.2.b .b
  (ready (.pass z d a) s = some c →
    (token ≠ some c.g → out (.pass z d a) s 0) ∧
    (token = some c.g → v = BitVec.allOnes 64 → ¬ waiting → out (.pass z d a) (give none) 1) ∧
    (token = some c.g → resident → ¬ waits (s.grp mate).b .a → ¬ waits (s.grp mate).b .b →
      out (.pass z d a) (give (some mate)) 1) ∧
    (token = some c.g → resident → ∀ sl d', ((s.grp mate).b.slot sl).wait = .prio d' → (s.grp mate).run = .running →
      ¬ waits (s.grp mate).b (otherSlot sl) →
        out (.pass z d a) ((give (some mate)).settle mate sl fun b => b.setS d' 1) 1) ∧
    (token = some c.g → v ≠ BitVec.allOnes 64 → ¬ resident → out (.pass z d a) s 2)) ∧
  (ready (.take z d a) s = some c →
    (1 < v.toNat → exec (.take z d a) s = .next (s.fail c { cls := .ill, detail := v })) ∧
    (v.toNat ≤ 1 → token = some c.g ∨ token = none → ¬ waits c.b (otherSlot c.sl) → out (.take z d a) (give (some c.g)) 1) ∧
    (v = 0 → token ≠ some c.g → token ≠ none → out (.take z d a) s 0) ∧
    (v = 1 → token ≠ some c.g → token ≠ none → ∃ t, exec (.take z d a) s = .next t ∧
      Parked (.take z d a) c s t (.prio d.toNat))) ∧
  (ready (.query z d) s = some c →
    out (.query z d) s (BitVec.ofNat 64 ((if token = none then 2 else 0) + if token = some c.g then 1 else 0)))

/-- The barrier words: their selector, whether they wait for the completion, and the scalar that receives the generation. -/
noncomputable def barrierWord (c : Ctx) : Instr → Option (W64 × Bool × Option Nat)
  | .bar _ => some (blockSel, true, none)
  | .gbar _ a => if srcS a c = blockSel then none else some (srcS a c, true, none)
  | .arrive _ d a => some (srcS a c, false, some d.toNat)
  | _ => none

/-- The generation and the count of a barrier in a state (R347): block state, or the doubleword at the selector's offset in
the scratchpad of the gang's block of index 0. -/
def barrierReads (c : Ctx) (s : State) (sel : W64) (gen cnt : Nat) : Prop :=
  gen < 2 ^ 32 ∧ cnt < 2 ^ 32 ∧
    if sel = blockSel then (s.block c.bid).bgen = gen ∧ (s.block c.bid).bcnt = cnt
    else loadN (s.block { c.bid with flat := (s.launch c.bid.launch).unitOf c.bid.flat * (s.launch c.bid.launch).gangSize }).scratch
      sel.toNat 8 = gen * 2 ^ 32 + cnt

/-- A selector names a barrier that the group may use (R346). -/
def goodSelector (c : Ctx) (sel : W64) : Prop := sel = blockSel ∨ (c.l.hasGang ∧ sel.toNat % 8 = 0 ∧ sel.toNat < c.scratch)

/-- The faults of a selector (R346): a counter offset that is no multiple of 8 raises ALIGN and one not below scratch LIMIT; a
gang selector in a launch without a gang level raises ILL, also at an offset not below scratch: that order is the model's reading
(log entry 41). -/
def selectorFaults (i : Instr) (s : State) (c : Ctx) (sel : W64) : Prop :=
  (c.l.hasGang → sel.toNat % 8 ≠ 0 → exec i s = .next (s.fail c { cls := .align, detail := sel })) ∧
  (c.l.hasGang → sel.toNat % 8 = 0 → c.scratch ≤ sel.toNat → exec i s = .next (s.fail c { cls := .limit, detail := sel })) ∧
  (¬ c.l.hasGang → sel.toNat % 8 = 0 →
    ∃ w, encode i = some w ∧ exec i s = .next (s.fail c { cls := .ill, detail := BitVec.ofNat 64 w }))

/-- BAR, GBAR and ARRIVE (R346 to R348) with no access beyond the package on its way. A slot whose other slot has not executed the
word in the current generation parks. When the other slot is empty, or waits there in that generation for an arrival that is not
counted yet, the group arrives: while other groups are missing the count rises by 1, a waiting word parks, and ARRIVE writes the
generation and goes on; the last arrival sets the count to 0, raises the generation, and goes on with every slot released that
waited in that generation, the group's other slot among them. A word that was cancelled executes again against the generation in
which it executed first: it parks, uncounted, where its group's arrival there stands, and goes on where the barrier has
completed. -/
def barriersMeet : Prop := ∀ (i : Instr) (sel : W64) (waits : Bool) (d : Option Nat) (gen cnt : Nat) (c : Ctx)
    (s : State), ready i s = some c → isHdl c.g = false → barrierWord c i = some (sel, waits, d) →
  s.remotePending c.g true = false →
    let o := c.b.slot (otherSlot c.sl)
    let wrote (gen : Nat) (u : State) : State := match d with
      | some n => u.modBank c.g fun b => b.setS n (BitVec.ofNat 64 gen)
      | none => u
    let out := wrote gen
    let fresh : Prop := ∀ g, c.slot.redo = some (sel, g) → g = gen ∧ ¬ c.grp.arrivedIn sel gen
    let here : Prop := (∃ d', o.wait = .barrier sel gen d') ∧ ¬ c.grp.arrivedIn sel gen
    (sel ≠ blockSel → selectorFaults i s c sel) ∧
    (goodSelector c sel → barrierReads c s sel gen cnt → (s.block? c.bid).isSome →
      (sel ≠ blockSel →
        (s.block? { c.bid with flat := (s.launch c.bid.launch).unitOf c.bid.flat * (s.launch c.bid.launch).gangSize }).isSome) →
      (fresh → ¬ o.empty → ¬ here → ∃ t, exec i s = .next t ∧ Parked i c s t (.barrier sel gen d)) ∧
      (fresh → o.empty ∨ here → cnt + 1 < s.members c.bid sel → cnt + 1 < 2 ^ 32 →
        ∃ u, { u with blocks := s.blocks, groups := s.groups } = s ∧ barrierReads c u sel gen (cnt + 1) ∧
          (∀ g, g ≠ c.g → u.grp? g = s.grp? g) ∧ { u.grp c.g with arrived := c.grp.arrived } = c.grp ∧ (u.grp c.g).arrivedIn sel gen ∧
          (waits → ∃ t, exec i s = .next t ∧ Parked i c u t (.barrier sel gen d)) ∧
          (waits = false → Completes i s c (out u) (c.pc + 4))) ∧
      (fresh → o.empty ∨ here → s.members c.bid sel ≤ cnt + 1 → cnt + 1 < 2 ^ 32 → (s.groups.map (·.1)).Nodup →
        ∃ u, { u with blocks := s.blocks, groups := s.groups } = s ∧ barrierReads c u sel ((gen + 1) % 2 ^ 32) 0 ∧
          Completes i s c (out u) (c.pc + 4) ∧
          ∀ e ∈ s.groups, s.member c.bid sel e → ∀ sl d', (e.2.b.slot sl).wait = .barrier sel gen d' →
            (u.grp e.1).b.slot sl = { e.2.b.slot sl with pc := (e.2.b.slot sl).pc + 4, wait := .none, waited := 0,
                                                            until_ := none, al := none, pend := [], redo := none }) ∧
      (c.slot.redo = some (sel, gen) → c.grp.arrivedIn sel gen →
        ∃ t, exec i s = .next t ∧ Parked i c s t (.barrier sel gen d)) ∧
      (∀ g, g ≠ gen → c.slot.redo = some (sel, g) → Completes i s c (wrote g s) (c.pc + 4)))

/-- AWAIT (R346, R348) with no access beyond the package on its way, at a barrier that is not complete: it goes on when the
barrier's generation is not s(b)[31:0], and waits while it is. -/
def awaitsGeneration : Prop := ∀ (z : Bool) (a b : BitVec 7) (gen cnt : Nat) (c : Ctx) (s : State),
  let i : Instr := .await z a b
  let sel := srcS a c
  let g := (srcS b c).toNat % 2 ^ 32
  ready i s = some c → isHdl c.g = false → s.remotePending c.g true = false →
    (sel ≠ blockSel → selectorFaults i s c sel) ∧
    (goodSelector c sel → barrierReads c s sel gen cnt → cnt = 0 ∨ cnt < s.members c.bid sel →
      (g ≠ gen → Completes i s c s (c.pc + 4)) ∧
      (g = gen → ∃ t, exec i s = .next t ∧ Parked i c s t (.gen sel gen)))

/-- TOKW, TOKP and TICKQ (R360, R363): in a token launch the holder goes on and TOKP passes the token to the next group in
ascending flat number, wrapping, that has not retired; a group without it waits in TOKW and goes on at TOKP. In any other
launch TOKW and TOKP raise ILL. TICKQ reads what its selector names. -/
def commitToken : Prop := ∀ (z : Bool) (d b : BitVec 7) (c : Ctx) (s : State),
  let ill (i : Instr) : Prop :=
    ∃ w, encode i = some w ∧ exec i s = .next (s.fail c { cls := .ill, detail := BitVec.ofNat 64 w })
  let key := c.bid.launch
  let l := s.launch key
  (ready (.tokw z) s = some c →
    (c.tokened → s.holdsToken c.g → Completes (.tokw z) s c s (c.pc + 4)) ∧
    (c.tokened → ¬ s.holdsToken c.g → ∃ t, exec (.tokw z) s = .next t ∧ Parked (.tokw z) c s t .token) ∧
    (¬ c.tokened → ill (.tokw z))) ∧
  (ready (.tokp z) s = some c →
    (c.tokened → s.holdsToken c.g → l.token < l.groups → ¬ s.groupRetired key l.token → (s.launch? key).isSome →
      ∃ u j, Completes (.tokp z) s c u (c.pc + 4) ∧ { u with launches := s.launches } = s ∧ 1 ≤ j ∧ j ≤ l.groups ∧
        (u.launch key).token = (l.token + j) % l.groups ∧ ¬ s.groupRetired key ((l.token + j) % l.groups) ∧
        ∀ k, 1 ≤ k → k < j → s.groupRetired key ((l.token + k) % l.groups)) ∧
    (c.tokened → ¬ s.holdsToken c.g → Completes (.tokp z) s c s (c.pc + 4)) ∧
    (¬ c.tokened → ill (.tokp z))) ∧
  (ready (.tickq z d b) s = some c →
    let out (v : Nat) : Prop :=
      Completes (.tickq z d b) s c (s.modBank c.g fun k => k.setS d.toNat (BitVec.ofNat 64 v)) (c.pc + 4)
    (srcS b c = 0 → out (if c.ticketed then l.miller else 0)) ∧
    (srcS b c = 1 → out (if c.ticketed then (s.block c.bid).staged.length else 0)) ∧
    (srcS b c = 2 → out c.bid.flat) ∧
    (2 < (srcS b c).toNat → exec (.tickq z d b) s = .next (s.fail c { cls := .ill, detail := srcS b c })))

/-- The TLB of a requester's core translates va for an access of a kind to pa in the package: a canonical address in a page,
not replicated, that both stages allow (R85, R88). -/
def tlbHolds (q : Req) (s : State) (va : Nat) (kind : Kind) (pa : Nat) : Prop :=
  canonical va ∧ isRemote pa = false ∧
    ∃ e, (s.core q.die q.core).tlb.find? (fun e => e.hits q (va57 va)) = some e ∧
      e.tr.p1.allows kind ∧ e.tr.p2.allows kind ∧ e.tr.repl = false ∧ pa = e.tr.frame + (va57 va - e.tr.vbase)

/-- The same for the issuing group. -/
def tlbMaps (c : Ctx) (s : State) (va : Nat) (kind : Kind) (pa : Nat) : Prop := tlbHolds c.q s va kind pa

/-- LAUNCH (R349, R361) where the record's page is in the core's TLB and its doublewords are served: a record address that is
no multiple of 256 raises ALIGN; otherwise the 32 doublewords read are posted to the partition's device queue with the next
launch identifier, which d receives; at a queue of 256 records d receives 0 and nothing is posted; in a ticketed launch the
posting is staged. -/
def launchPosts : Prop := ∀ (z : Bool) (d a : BitVec 7) (c : Ctx) (s : State) (pa : Nat),
  let i : Instr := .launch z d a
  let v := srcS a c
  let p := s.part c.q.part
  let rec_ : List W64 := (List.range 32).map fun k => BitVec.ofNat 64 (loadN s.mem (pa + 8 * k) 8)
  let out (u : State) (n : Nat) : State := u.modBank c.g fun b => b.setS d.toNat (BitVec.ofNat 64 n)
  ready i s = some c →
    (v.toNat % 256 ≠ 0 → exec i s = .next (s.fail c { cls := .align, detail := v })) ∧
    (v.toNat % 256 = 0 → tlbMaps c s v.toNat .read pa → (∀ k < 32, s.Serves c.q.part (pa + 8 * k)) →
      (c.tokened → ¬ s.holdsToken c.g → exec i s = .next (s.fail c
        { cls := .perm, sub := 2, detail := BitVec.ofNat 64 (2 ^ 63 + v.toNat % 2 ^ 57) })) ∧
      (direct c s → p.devq.length < 256 → ∃ u, CachesOnly s u ∧ Completes i s c (out (u.modPart c.q.part fun p =>
        { p with nextLaunch := p.nextLaunch + 1
                 devq := p.devq ++ [{ id := p.nextLaunch, prio := c.l.prio, record := rec_ }] }) p.nextLaunch) (c.pc + 4)) ∧
      (direct c s → 256 ≤ p.devq.length → ∃ u, CachesOnly s u ∧ Completes i s c (out u 0) (c.pc + 4)) ∧
      (c.ticketed → (s.block c.bid).staged = [] → s.copies = [] → s.matq = [] → ∃ u, CachesOnly s u ∧
        Completes i s c (out ((u.modPart c.q.part fun p => { p with nextLaunch := p.nextLaunch + 1 }).modBlock c.bid fun k =>
          { k with staged := [.launch p.nextLaunch rec_], stagedBy := distinct k.stagedBy }) p.nextLaunch) (c.pc + 4)))

/-! ## Copy channels, shadows, ordering, maintenance, batches, mailboxes -/

/-- COPY (R179, R180, R182): the first of a reserved control word, a bad length, a misaligned or non-canonical global operand
and a scratchpad range past S that applies raises its fault; behind eight queued copies of its channel it waits; a channel in
error discards it; otherwise the copy joins the queue as the operands stand. -/
def copiesQueue : Prop := ∀ (z : Bool) (la : BitVec 4) (d a b : BitVec 7) (c : Ctx) (s : State),
  let i : Instr := .copy z la d a b
  let ctl := c.b.getS (b.toNat + 1)
  let len := (srcS b c).toNat
  let ch := ctl.toNat % 4
  let kind := ctl.toNat / 4 % 4
  let op := ctl.toNat / 16 % 4
  let e := if kind = 2 ∧ op = 2 then 8 else 4
  let reserved : Prop := 64 ≤ ctl.toNat ∨ op = 3 ∨ (op ≠ 0 ∧ kind ≠ 2)
  let badLen : Prop := len % e ≠ 0 ∨ 2 ^ 40 ≤ len
  let badGlobal (v : W64) : Prop := v.toNat % e ≠ 0 ∨ ¬ canonical v.toNat
  let past (v : W64) : Prop := c.scratch < v.toNat + len
  let dst := srcS d c
  let src := srcS a c
  let x : Copy := { seq := s.seq, bid := c.bid, ch := ch, kind := kind, op := op, src := src, dst := dst, len := len }
  let queued := s.copies.filter fun y => y.bid == c.bid && y.ch == ch && !y.begun
  let good : Prop := ¬ reserved ∧ ¬ badLen ∧ (if kind = 0 then ¬ past dst else ¬ badGlobal dst) ∧
    (if kind = 0 ∨ kind = 3 then ¬ badGlobal src else ¬ past src)
  ready i s = some c →
    (reserved → exec i s = .next (s.fail c { cls := .ill, detail := ctl })) ∧
    (¬ reserved → badLen → exec i s = .next (s.fail c { cls := .ill, detail := srcS b c })) ∧
    (¬ reserved → ¬ badLen → (kind ≠ 0 ∧ badGlobal dst) ∨ ((kind = 0 ∨ kind = 3) ∧ badGlobal src) →
      ∃ f, f.cls = .align ∧ exec i s = .next (s.fail c f)) ∧
    (¬ reserved → ¬ badLen → ¬ (kind ≠ 0 ∧ badGlobal dst) → ¬ ((kind = 0 ∨ kind = 3) ∧ badGlobal src) → ¬ good →
      ∃ f, f.cls = .limit ∧ exec i s = .next (s.fail c f)) ∧
    (good → 8 ≤ queued.length → ∃ t, exec i s = .next t ∧ Parked i c s t (.copyRoom ch)) ∧
    (good → queued.length < 8 → ((s.block c.bid).ch ch).err ≠ none → Completes i s c s (c.pc + 4)) ∧
    (good → queued.length < 8 → ((s.block c.bid).ch ch).err = none → c.ticketed = false →
      Completes i s c { s with seq := s.seq + 1, copies := s.copies ++ [x] } (c.pc + 4))

/-- CWAIT and CSTAT (R184, R185): CWAIT gives the counter once it has reached s(a), raises the recorded error of a channel that
has not, and waits otherwise; CSTAT reads a counter or the status word, and bit 4 clears the error, not the counters. -/
def copiesReport : Prop := ∀ (z : Bool) (d a b : BitVec 7) (c : Ctx) (s : State),
  let v := (srcS b c).toNat
  let ch := v % 4
  let x := (s.block c.bid).ch ch
  let out (u : State) (n : Nat) : State := u.modBank c.g fun k => k.setS d.toNat (BitVec.ofNat 64 n)
  let running := s.copies.find? fun y => y.bid == c.bid && y.ch == ch && y.begun
  let queued := (s.copies.filter fun y => y.bid == c.bid && y.ch == ch && !y.begun).length
  let state : Nat := match x.err with
    | some (.abort, _) => 4
    | some _ => 3
    | none => match running with
      | none => 0
      | some y => if y.held = none then 1 else 2
  (ready (.cwait z d a b) s = some c →
    let counter := if v < 4 then x.rdone else x.wptr
    let need := (srcS a c).toNat
    (8 ≤ v → exec (.cwait z d a b) s = .next (s.fail c { cls := .ill, detail := srcS b c })) ∧
    (v < 8 → need ≤ counter → Completes (.cwait z d a b) s c (out s counter) (c.pc + 4)) ∧
    (v < 8 → counter < need → ∀ k, x.err = some k → exec (.cwait z d a b) s = .next (s.fail c
      { cls := k.1, sub := k.2, detail := BitVec.ofNat 64 (ch * 2 ^ 62 + x.off % 2 ^ 40), cwd := some d.toNat
        table := x.table })) ∧
    (v < 8 → counter < need → x.err = none →
      ∃ t, exec (.cwait z d a b) s = .next t ∧ Parked (.cwait z d a b) c s t (.copy ch (decide (4 ≤ v)) need))) ∧
  (ready (.cstat z d b) s = some c →
    let i : Instr := .cstat z d b
    (v < 4 → Completes i s c (out s x.rdone) (c.pc + 4)) ∧
    (4 ≤ v → v < 8 → Completes i s c (out s x.wptr) (c.pc + 4)) ∧
    (8 ≤ v → v < 12 → Completes i s c
      (out s (state * 2 ^ 61 + queued * 2 ^ 57 + if x.err = none then 0 else x.off % 2 ^ 40)) (c.pc + 4)) ∧
    (24 ≤ v → v < 28 → Completes i s c
      (out (s.modBlock c.bid fun k => k.modCh ch fun y => { y with err := none, off := 0, table := none })
        (state * 2 ^ 61 + queued * 2 ^ 57 + if x.err = none then 0 else x.off % 2 ^ 40)) (c.pc + 4)) ∧
    (12 ≤ v → (v < 24 ∨ 28 ≤ v) → exec i s = .next (s.fail c { cls := .ill, detail := srcS b c })))

/-- SHADOW (R186) of pages that the core's TLB holds and whose lines the home slices serve: a base or length that is no multiple
of 64 KiB, or a length past 64 MiB, raises ILL; a block with four shadows, a range that overlaps an open shadow, and a short pool
give 0 and change nothing; otherwise the shadow opens on frames of the pool, whose lines the home slices serve too and which then
hold what the pages read as, and every other byte reads as before. That the frames are the pool's first, in order, is the model's
choice (log entry 51), and that two ranges overlap where they share an intermediate page is its reading (log entry 26). -/
def shadowsOpen : Prop := ∀ (z : Bool) (d a b : BitVec 7) (c : Ctx) (s : State) (live : Nat → Nat) (e : Nat →
  TlbEntry),
  let i : Instr := .shadow z d a b
  let va := (srcS a c).toNat
  let len := (srcS b c).toNat
  let n := len / 65536
  let badLen : Prop := len % 65536 ≠ 0 ∨ len = 0 ∨ 2 ^ 26 < len
  let at_ (k : Nat) : Nat := (va + 65536 * k) % 2 ^ 64
  let ipa (k : Nat) : Nat := (e k).tr.ipa + va57 (at_ k) % PSizeBytes (e k).tr.size
  let mapped : Prop := ∀ k < n, tlbMaps c s (at_ k) .write (live k) ∧ (e k).tr.host = false ∧ (e k).tr.size2 = .k64 ∧
    (s.core c.q.die c.q.core).tlb.find? (fun e => e.hits c.q (va57 (at_ k))) = some (e k)
  let pool := (s.part c.q.part).shadowPool
  let open_ := (s.block c.bid).shadows
  let overlaps : Prop := ∃ k < n, s.shadowed c.q.part (ipa k)
  let out (u : State) (v : Nat) : State := u.modBank c.g fun k => k.setS d.toNat (BitVec.ofNat 64 v)
  ready i s = some c →
    (va % 65536 ≠ 0 → exec i s = .next (s.fail c { cls := .ill, detail := srcS a c })) ∧
    (va % 65536 = 0 → badLen → exec i s = .next (s.fail c { cls := .ill, detail := srcS b c })) ∧
    (va % 65536 = 0 → ¬ badLen → mapped → c.ticketed ∨ 4 ≤ open_.length ∨ overlaps ∨ pool.length < n →
      Completes i s c (out s 0) (c.pc + 4)) ∧
    (va % 65536 = 0 → ¬ badLen → mapped → c.ticketed = false → open_.length < 4 → ¬ overlaps → n ≤ pool.length →
      (∀ k < n, (∀ j < 256, s.Serves c.q.part (live k + 256 * j)) ∧ live k % 65536 = 0 ∧ ∀ f ∈ pool, f ≠ live k) →
      (∀ f ∈ pool, f % 65536 = 0 ∧ ∀ j < 256, s.Serves c.q.part (f + 256 * j)) → pool.Nodup → (s.block? c.bid).isSome →
      ∃ u h, Completes i s c (out u h) (c.pc + 4) ∧ 1 ≤ h ∧ h ≤ 4 ∧ (∀ x ∈ open_, x.handle ≠ h) ∧
        (u.part c.q.part).shadowPool = pool.drop n ∧
        (u.block c.bid).shadows = open_ ++ [{ handle := h, pages := (List.range n).map fun k =>
          { va := va57 (at_ k), ipa := ipa k, live := live k, shadow := pool.getD k 0 } }] ∧
        (∀ k < n, ∀ j < 65536, u.byte (pool.getD k 0 + j) = s.byte (live k + j)) ∧
        ∀ m, (∀ k < n, m < pool.getD k 0 ∨ pool.getD k 0 + 65536 ≤ m) → u.byte m = s.byte m)

/-- PUBLISH (R188): a value that is no open handle raises ILL, as does that of a shadow that a PUBLISH is closing, by the model's
choice (log entry 26); with engine writes of the block into the range outstanding it
waits for those that had issued; otherwise the stage-2 leaf of a one-page shadow names the shadow frame, and the slot waits
for the invalidation of the intermediate pages, which has begun, holds the old frames for the pool, and closes the shadow. -/
def publishSwapsFrames : Prop := ∀ (z : Bool) (a : BitVec 7) (c : Ctx) (s : State),
  let i : Instr := .publish z a
  let v := srcS a c
  let found := (s.block c.bid).shadows.find? fun x => x.handle == v.toNat && x.closing.isNone
  let with_ (sh : Shadow) : State := s.modBlock c.bid fun k =>
    { k with shadows := k.shadows.map fun x => if x.handle = v.toNat then sh else x }
  ready i s = some c →
    (found = none → exec i s = .next (s.fail c { cls := .ill, detail := v })) ∧
    (∀ sh, found = some sh →
      let seq := sh.pub.getD s.seq
      let sh := { sh with pub := some seq }
      (s.engineWrites c.bid sh seq → ∃ t, exec i s = .next t ∧ Parked i c (with_ sh) t (.engine seq)) ∧
      (¬ s.engineWrites c.bid sh seq → (s.block? c.bid).isSome → ∃ u t id, exec i s = .next t ∧ Parked i c u t (.inval id) ∧
        (u.block c.bid).shadows = ((with_ { sh with closing := some id }).block c.bid).shadows ∧
        (u.part c.q.part).shadowPool = (s.part c.q.part).shadowPool ∧
        (∃ x ∈ (u.part c.q.part).invs, x.id = id ∧ x.ext = .pages (sh.pages.map (·.ipa)) ∧ x.asker = .group c.g c.sl ∧
          x.frames = sh.pages.map (·.live)) ∧
        ∀ p leaf, sh.pages = [p] → p.shadow % 256 = 0 → p.shadow < 2 ^ 52 → s.Quiet → s.updates = [] →
          leaf2From s c.q.part p.ipa 3 (s.part c.q.part).s2root = some leaf →
          loadN u.mem leaf 8 = loadN s.mem leaf 8 - entryAddr (loadN s.mem leaf 8) + p.shadow ∧
          ∀ k, k < leaf ∨ leaf + 8 ≤ k → u.byte k = s.byte k))

/-- FENCE (R309): scopes 0 to 4 change nothing; domain and system go on once no access of the group to a peer, and for system
to the host, is on its way, and wait until then. -/
def fenceOrders : Prop := ∀ (z : Bool) (k : BitVec 3) (c : Ctx) (s : State), ready (.fence z k) s = some c →
  let pending : Prop := ∃ r ∈ s.remote, r.g = c.g ∧ (k.toNat = 6 ∨ r.dest ≠ 0)
  (k.toNat < 5 ∨ ¬ pending → Completes (.fence z k) s c s (c.pc + 4)) ∧
  (5 ≤ k.toNat → pending → ∃ t, exec (.fence z k) s = .next t ∧ Parked (.fence z k) c s t (.remote (k.toNat == 6)))

/-- The maintenance words: what they do, level, start and length. -/
noncomputable def maintWord : Instr → Option (Maint × BitVec 2 × BitVec 7 × BitVec 7)
  | .clean _ v a b => some (.clean, v, a, b)
  | .inval _ v a b => some (.inval, v, a, b)
  | .clinv _ v a b => some (.clinv, v, a, b)
  | _ => none

/-- CLEAN, INVAL and CLINV (R310, R311) of a range in one page that the core's TLB holds, with no update-only copy in it: a
length past 2^32 raises ILL and a length of 0 does nothing. CLEAN changes no byte that loads read, and leaves no dirty byte in
the issuing core's L1, nor from level 1 on in any L2 of the partition; INVAL and CLINV leave none of the lines there, and no
byte outside the 2-KiB sectors of the range changes. No memory error stands in the way. -/
def maintenanceOfLines : Prop := ∀ (i : Instr) (m : Maint) (v : BitVec 2) (a b : BitVec 7) (c : Ctx) (s : State)
    (pa : Nat), maintWord i = some (m, v, a, b) → ready i s = some c →
  let va := (srcS a c).toNat
  let n := (srcS b c).toNat
  let hit (lo len : Nat) : Prop := lo < pa + n ∧ pa < lo + len
  (2 ^ 32 < n → exec i s = .next (s.fail c { cls := .ill, detail := srcS b c })) ∧
  (n = 0 → Completes i s c s (c.pc + 4)) ∧
  (0 < n → va % 65536 + n ≤ 65536 → tlbMaps c s va (if m = .clean then .read else .write) pa → s.updates = [] →
    s.Quiet → c.q.core < 256 →
    (m = .clean → ∃ u, CachesOnly s u ∧ Completes i s c u (c.pc + 4) ∧
      (v = 0 ∨ c.q.die ∈ (s.part c.q.part).dies → ∀ l ∈ (u.core c.q.die c.q.core).l1, hit (64 * l.line) 64 → l.mask = 0) ∧
      (1 ≤ v.toNat → ∀ d ∈ (s.part c.q.part).dies, ∀ l ∈ (u.die d).l2, hit (256 * l.line) 256 → l.dirty = 0)) ∧
    (m ≠ .clean → ∃ u, Completes i s c u (c.pc + 4) ∧
      (v = 0 ∨ c.q.die ∈ (s.part c.q.part).dies → ∀ l ∈ (u.core c.q.die c.q.core).l1, ¬ hit (64 * l.line) 64) ∧
      (1 ≤ v.toNat → ∀ d ∈ (s.part c.q.part).dies, ∀ l ∈ (u.die d).l2, ¬ hit (256 * l.line) 256) ∧
      ∀ k, ¬ hit (k / 2048 * 2048) 2048 → u.byte k = s.byte k))

/-- MBATCH and MWAIT (R273, R274): MBATCH counts and writes the new count; MWAIT raises ILL past the counter, waits for the
instructions of its batches, then raises the earliest error among them and clears it, or goes on. -/
def batchesAreAwaited : Prop := ∀ (z : Bool) (d a : BitVec 7) (c : Ctx) (s : State),
  (ready (.mbatch z d) s = some c →
    Completes (.mbatch z d) s c ((s.modGrp c.g fun r => { r with batch := c.grp.batch + 1 }).modBank
    c.g fun k => k.setS d.toNat (BitVec.ofNat 64 (c.grp.batch + 1))) (c.pc + 4)) ∧
  (ready (.mwait z a) s = some c →
    let i : Instr := .mwait z a
    let n := (srcS a c).toNat
    let busy : Prop := ∃ m ∈ s.matq, m.g = c.g ∧ m.batch ≤ n
    (c.grp.batch < n → exec i s = .next (s.fail c { cls := .ill, detail := srcS a c })) ∧
    (n ≤ c.grp.batch → busy → ∃ t, exec i s = .next t ∧ Parked i c s t (.batches n)) ∧
    (n ≤ c.grp.batch → ¬ busy → (∀ m ∈ c.grp.merrs, n < m.batch) → Completes i s c s (c.pc + 4)) ∧
    (n ≤ c.grp.batch → ¬ busy → ∀ m ∈ c.grp.merrs, m.batch ≤ n →
      (∀ x ∈ c.grp.merrs, x.batch ≤ n → x ≠ m → m.seq < x.seq) →
      exec i s = .next ((s.modGrp c.g fun r => { r with merrs := r.merrs.filter fun x => x.seq != m.seq }).fail c
        { cls := m.cls, sub := m.sub, table := m.table,
          detail := BitVec.ofNat 64 (m.tile % 16 * 2 ^ 60 + m.progress % 2 ^ 24 * 2 ^ 36 + m.detail.toNat % 2 ^ 36) })))

/-- MBX and MSQ (R147, R189): a message joins the mailbox with its sender when fewer than 64 stand there, and d receives 1,
else 0; the Chandler's mailbox is privileged, other numbers raise ILL. MSQ gives the Cooper's size, and of an address in the
partition's LPDDR tier the state of its sector, of which no fill is in progress. -/
def mailboxesAndTierQueries : Prop := ∀ (z : Bool) (d a b : BitVec 7) (c : Ctx) (s : State) (pa : Nat),
  let p := s.part c.q.part
  let v := (srcS b c).toNat
  let out (u : State) (n : Nat) : State := u.modBank c.g fun k => k.setS d.toNat (BitVec.ofNat 64 n)
  let msg : Msg := { v := srcS a c, die := c.q.die, core := c.q.core, launch := c.l.id }
  (ready (.mbx z d a b) s = some c →
    let i : Instr := .mbx z d a b
    let done : Prop := ¬ s.remotePending c.g true ∧ (c.grp.priv ∨ v ≠ 0)
    (1 < v → exec i s = .next (s.fail c { cls := .ill, detail := srcS b c })) ∧
    (v = 0 → ¬ c.grp.priv → exec i s = .next (s.fail c { cls := .priv, detail := 0 })) ∧
    (v = 1 → s.remotePending c.g true → ∃ t, exec i s = .next t ∧ Parked i c s t (.remote true)) ∧
    (done → v = 0 → p.mbox0.length < 64 → Completes i s c (out (s.modPart c.q.part fun p =>
      { p with mbox0 := p.mbox0 ++ [msg] }) 1) (c.pc + 4)) ∧
    (done → v = 1 → p.mbox1.length < 64 → Completes i s c (out (s.modPart c.q.part fun p =>
      { p with mbox1 := p.mbox1 ++ [msg] }) 1) (c.pc + 4)) ∧
    (done → (v = 0 ∧ 64 ≤ p.mbox0.length) ∨ (v = 1 ∧ 64 ≤ p.mbox1.length) →
      ∃ u, (∀ q, u.part q = s.part q) ∧ Completes i s c (out u 0) (c.pc + 4))) ∧
  (ready (.msq z d a b) s = some c →
    let i : Instr := .msq z d a b
    let pos := s.coopPos c.q.part pa
    let x := s.sector pos.die pos.slot
    let held : Prop := x.v ∧ pos.slot ∉ (s.die pos.die).blocked
    (v = 1 → Completes i s c (out s (p.dies.length * s.cfg.share * 2 ^ 30)) (c.pc + 4)) ∧
    (1 < v → exec i s = .next (s.fail c { cls := .ill, detail := srcS b c })) ∧
    (v = 0 → tlbMaps c s (srcS a c).toNat .read pa → (∀ n off, region pa = .lpddr n off → n ∉ p.dies) →
      Completes i s c (out s 0) (c.pc + 4)) ∧
    (v = 0 → tlbMaps c s (srcS a c).toNat .read pa → (∃ n off, region pa = .lpddr n off ∧ n ∈ p.dies) → ¬ s.coopBusy pos →
      ∃ w : W64, Completes i s c (s.modBank c.g fun k => k.setS d.toNat w) (c.pc + 4) ∧ w.getLsbD 63 ∧
        (w.getLsbD 62 ↔ held ∧ x.tag = pos.tag) ∧ (w.getLsbD 61 ↔ held) ∧ (w.getLsbD 60 ↔ x.d) ∧
        w.toNat / 2 ^ 48 % 2 ^ 12 = x.tag % 2 ^ 12 ∧ w.toNat / 2 ^ 44 % 16 = pos.die % 16 ∧
        w.toNat % 2 ^ 44 = pos.index % 2 ^ 27))

/-! ## Tiles and the matrix queue -/

/-- TWR and TRD (R195 to R198) with i = (s(k) + imm) mod 64: while a matrix instruction of the block names the tile they wait;
TWR writes each active lane to column or row i of the tile and no other element, TRD reads them into the vector. -/
def tileSlices : Prop := ∀ (z : Bool) (t : BitVec 5) (r : BitVec 1) (k v : BitVec 7) (m : BitVec 5) (c : Ctx)
    (s : State),
  let i := ((srcS k c).toNat + m.toNat) % 64
  let b := s.block c.bid
  let column : Prop := r = 1
  let waits (w : Instr) : Prop := s.tileBusy c.bid t.toNat → ∃ t', exec w s = .next t' ∧ Parked w c s t' (.tile t.toNat)
  (ready (.twr z t r k v m) s = some c →
    waits (.twr z t r k v m) ∧
    (s.tileBusy c.bid t.toNat = false → ∃ b', Completes (.twr z t r k v m) s c (s.modBlock c.bid fun _ => b') (c.pc + 4) ∧
      { b' with tile := b.tile } = b ∧
      ∀ n x y, x < 64 → y < 64 → b'.getT n x y =
        if n = t.toNat ∧ column ∧ y = i ∧ x ∈ c.lanes then srcV v c x
        else if n = t.toNat ∧ ¬ column ∧ x = i ∧ y ∈ c.lanes then srcV v c y
        else b.getT n x y)) ∧
  (ready (.trd z t r k v m) s = some c →
    waits (.trd z t r k v m) ∧
    (s.tileBusy c.bid t.toNat = false → ∃ u, exec (.trd z t r k v m) s = .next u ∧
      Wrote c s u (c.pc + 4) [] (c.written v.toNat) [] [] ∧
      ∀ l ∈ c.lanes, (u.grp c.g).b.getV v.toNat l = if column then b.getT t.toNat l i else b.getT t.toNat i l))

/-- The value of a tile setting or of a QNT statistic in block state (R278, R279). -/
def tileSetting (b : Block) (q t sel : Nat) : Option W64 :=
  let x := b.getTs t
  let y := b.getQs q
  match sel with
  | 0 => some (x.thr.setWidth 64)
  | 1 => some (x.zcnt.setWidth 64)
  | 2 => some x.tdst
  | 3 => some (x.tdctl ||| if x.split then 8 else 0)
  | 8 => some y.clip
  | 9 => some y.total
  | 10 => some y.under
  | 11 => some (y.max.setWidth 64)
  | 12 => some (if y.flags then 1 else 0)
  | _ => none

/-- What TSETS may write by selector (R279). -/
def settingOk (sel : Nat) (v : W64) : Prop :=
  match sel with
  | 0 => v.toNat < 2 ^ 32 ∧ ¬ nanBits (v.setWidth 32)
  | 1 | 11 => v.toNat < 2 ^ 32
  | 2 => canonical v.toNat ∧ v.toNat % 64 = 0
  | 3 => v.toNat < 2 ^ 32 ∧ v.toNat / 2 ^ 8 % 64 = 0 ∧ v.toNat / 16 % 16 = 0 ∧ v.toNat % 4 ≠ 3
  | 12 => v.toNat < 2
  | _ => True

/-- TSTAT and TSETS (R41, R279, R280): a tile that is not granted raises LIMIT, but for selectors 8 to 12, with which a tile field
other than 0 raises ILL; of a granted tile a selector that is none raises ILL; both wait for the matrix instructions that name
the tile, or for the QNTs of the block on the quadrant. TSTAT then reads the value; TSETS writes a value that its rule allows, so
that TSTAT reads it back, and any other raises ILL; every other setting stays. -/
def tileSettings : Prop := ∀ (z : Bool) (d a b : BitVec 7) (c : Ctx) (s : State),
  let sel := (srcS b c).toNat
  let q := c.grp.quad
  let k := s.block c.bid
  let qnts := s.matq.filter fun m => bidOf m.g == c.bid && s.whereIs m.g == s.whereIs c.g && (match m.op with | .qnt _ => true | _ => false)
  let checks (i : Instr) (t : Nat) : Prop :=
    (¬ (sel ≤ 3 ∨ (8 ≤ sel ∧ sel ≤ 12)) → t < c.l.tiles → exec i s = .next (s.fail c { cls := .ill, detail := srcS b c })) ∧
    (8 ≤ sel → sel ≤ 12 → t ≠ 0 →
      ∃ w, encode i = some w ∧ exec i s = .next (s.fail c { cls := .ill, detail := BitVec.ofNat 64 w })) ∧
    (¬ (8 ≤ sel ∧ sel ≤ 12) → c.l.tiles ≤ t →
      ∃ w, encode i = some w ∧ exec i s = .next (s.fail c { cls := .limit, detail := BitVec.ofNat 64 w })) ∧
    (8 ≤ sel → sel ≤ 12 → t = 0 → qnts ≠ [] → ∃ t', exec i s = .next t' ∧ Parked i c s t' .qnt) ∧
    (sel ≤ 3 → t < c.l.tiles → s.tileBusy c.bid t → ∃ t', exec i s = .next t' ∧ Parked i c s t' (.tile t))
  let free (t : Nat) : Prop := (sel ≤ 3 ∧ t < c.l.tiles ∧ s.tileBusy c.bid t = false) ∨ (8 ≤ sel ∧ sel ≤ 12 ∧ t = 0 ∧ qnts = [])
  (ready (.tstat z d a b) s = some c → checks (.tstat z d a b) a.toNat ∧
    (free a.toNat → ∃ v, tileSetting k q a.toNat sel = some v ∧
      Completes (.tstat z d a b) s c (s.modBank c.g fun r => r.setS d.toNat v) (c.pc + 4))) ∧
  (ready (.tsets z d a b) s = some c → checks (.tsets z d a b) d.toNat ∧
    (free d.toNat → ¬ settingOk sel (srcS a c) → exec (.tsets z d a b) s = .next (s.fail c { cls := .ill, detail := srcS a c })) ∧
    (free d.toNat → settingOk sel (srcS a c) → ∃ k', Completes (.tsets z d a b) s c (s.modBlock c.bid fun _ => k') (c.pc + 4) ∧
      { k' with tset := k.tset, qst := k.qst } = k ∧
      ∀ q' t' sel', tileSetting k' q' t' sel' =
        if sel' = sel ∧ (if sel ≤ 3 then t' = d.toNat else q' = q) then some (srcS a c) else tileSetting k q' t' sel'))

/-- The format classes of R261 and the pairings it allows. -/
def pairing (fa fb : Nat) : Prop :=
  (fa < 6 ∧ (fb < 6 ∨ fb = 10)) ∨ (fa = 6 ∧ fb = 6) ∨ (fa = 7 ∧ fb = 7) ∨ ((fa = 8 ∨ fa = 9) ∧ (fb = 8 ∨ fb = 9 ∨ fb = 10))

/-- A loop descriptor that check 2 of R258 passes (R260, R261). -/
def goodLoop (v al : W64) (d : Nat) : Prop :=
  let fa := v.toNat % 16
  let fb := v.toNat / 16 % 16
  v.toNat < 2 ^ 18 ∧ pairing fa fb ∧ (v.getLsbD 13 → d % 2 = 0 ∧ fa < 8) ∧ (v.getLsbD 12 → 8 ≤ fa) ∧
    (fb = 10 → alphabetOk al ∧ alRadix al ≤ 16 ∧ -8 ≤ alOffset al ∧ alOffset al + alRadix al - 1 ≤ 7)

/-- Parameter k of a loop keeps the rules of R259 and R284. -/
def goodParam (v : W64) (p : Nat → W64) (k : Nat) : Prop :=
  let strip (x : W64) : Prop := canonical x.toNat ∧ x.toNat % 64 = 0
  let inc (x : W64) : Prop := x.toNat / 2 ^ 50 = 0 ∧ x.toNat / 2 ^ 24 % 256 = 0
  match k with
  | 0 => v.getLsbD 14 ∨ strip (p 0)
  | 1 => v.getLsbD 15 ∨ strip (p 1)
  | 2 => if v.getLsbD 14 then inc (p 2) else (p 2).toNat % 64 = 0
  | 3 => if v.getLsbD 15 then inc (p 3) else (p 3).toNat % 64 = 0
  | 4 => (p 4).toNat < 2 ^ 24
  | 5 => (p 5).toNat < 2 ^ 46 ∧ (p 5).toNat / 2 ^ 38 % 4 = 0
  | 6 => if v.getLsbD 12 then canonical (p 6).toNat ∧ (p 6).toNat % 128 = 0 else p 6 = 0
  | _ => True

/-- The matrix instructions that only check a control scalar: what enters the queue, d, a, and the condition of issue with the
value that ILL reports (R275, R276, R280, R281). -/
noncomputable def matrixWord (c : Ctx) : Instr → Option (MOp × Nat × Nat × Prop × W64)
  | .had _ d a b =>
    some (.had (srcS b c), d.toNat, a.toNat, (srcS b c).toNat < 8 ∧ (srcS b c).toNat % 4 ≠ 3, srcS b c)
  | .qnt _ d a b =>
    let n := (srcS b c).toNat
    some (.qnt (srcS b c), d.toNat, a.toNat,
      n < 2 ^ 32 ∧ n / 4 % 64 = 0 ∧ 0x80 ≤ n / 2 ^ 16 ∧ n / 2 ^ 16 < 0x7F80 ∧ (n % 2 = 1 → n / 2 ^ 8 % 256 = 0) ∧
        (n / 2 % 2 = 1 → n / 2 ^ 8 % 256 ≠ 0xFF), srcS b c)
  | .tdrDiff _ d a => some (.tdr 0, d.toNat, a.toNat, True, 0)
  | .tdrCanc _ d a => some (.tdr 1, d.toNat, a.toNat, True, 0)
  | .tdrAgree _ d a => some (.tdr 2, d.toNat, a.toNat, True, 0)
  | .tdrRaw _ d a => some (.tdr 3, d.toNat, a.toNat, True, 0)
  | .tzero _ d => some (.tzero, d.toNat, d.toNat, True, 0)
  | .tcopy _ d a => some (.tcopy, d.toNat, a.toNat, True, 0)
  | _ => none

/-- What a matrix instruction leaves (R267, R273): behind four in its quadrant's queue it waits; otherwise it joins the queue
and the group's open batch with what it read at issue, and the group goes on. -/
def entersQueue (i : Instr) (s : State) (c : Ctx) (op : MOp) (d a : Nat) : Prop :=
  let queue := s.matq.filter fun m => (s.block (bidOf m.g)).at?.isSome && s.whereIs m.g == s.whereIs c.g
  (4 ≤ queue.length → ∃ t, exec i s = .next t ∧ Parked i c s t .queueRoom) ∧
  (queue.length < 4 → ∃ e : MEntry, Completes i s c { s with seq := s.seq + 1, matq := s.matq ++ [e] } (c.pc + 4) ∧
    e.seq = s.seq ∧ e.g = c.g ∧ e.pc = c.pc ∧ e.batch = c.grp.batch + 1 ∧ some e.word = encode i ∧ e.op = op ∧ e.d = d ∧ e.a = a ∧
    e.started = false ∧ e.progress = 0 ∧ e.held = none)

/-! ## The KV space -/

/-- A table read at a gives v (R113). -/
def tableWord (s : State) (part a v : Nat) : Prop := s.Serves part a ∧ loadN s.mem a 8 = v

/-- The tables of a partition give space descriptor d and sequence record r for the space and sequence of a coordinate, laid
out as R108 and R110 say, and the coordinate lies in their ranges. -/
structure KvTables (s : State) (part : Nat) (co : W64) (d : KvSpace) (r : KvSeq) : Prop where
  at_ : d.addr = (s.part part).spaces + 32 * (co.toNat / 2 ^ 60)
  dw0 : tableWord s part d.addr (1 + d.fmt * 2 ^ 8 + d.seqtab)
  dw1 : tableWord s part (d.addr + 8) (d.nseqm1 * 2 ^ 12 + d.headsm1 * 2 ^ 32 + d.layersm1 * 2 ^ 40 + d.rowbytes * 2 ^ 48)
  dw2 : tableWord s part (d.addr + 16) d.voff
  dw3 : tableWord s part (d.addr + 24) 0
  rows : d.fmt ≤ 4 ∧ 64 ≤ d.rowbytes ∧ d.rowbytes ≤ 16384 ∧ d.rowbytes % 64 = 0 ∧ d.voff % 64 = 0 ∧ d.voff < d.rowbytes
  sizes : d.layersm1 < 2 ^ 8 ∧ d.headsm1 < 2 ^ 8 ∧ d.nseqm1 < 2 ^ 20 ∧ d.seqtab % 2 ^ 16 = 0 ∧ d.seqtab < 2 ^ 52
  seq : co.toNat / 2 ^ 40 % 2 ^ 20 ≤ d.nseqm1
  lane : co.toNat / 2 ^ 32 % 2 ^ 8 ≤ d.layersm1 ∧ co.toNat / 2 ^ 24 % 2 ^ 8 ≤ d.headsm1
  entry : tableWord s part (d.seqtab + 8 * (co.toNat / 2 ^ 40 % 2 ^ 20)) (1 + r.addr)
  record : tableWord s part r.addr r.length ∧ tableWord s part (r.addr + 8) (1 + r.ldir) ∧
    tableWord s part (r.addr + 16) (b01 r.fk * 2 ^ 20 + r.parent)
  fits : r.addr % 2 ^ 6 = 0 ∧ r.addr < 2 ^ 52 ∧ r.length ≤ 2 ^ 24 ∧ r.ldir % 2 ^ 12 = 0 ∧ r.ldir < 2 ^ 52 ∧ r.parent < 2 ^ 20

/-- Entry k of the layer directory of r names a page list of cap entries (R111). -/
structure KvList (s : State) (part : Nat) (r : KvSeq) (k plist cap : Nat) : Prop where
  dw0 : tableWord s part (r.ldir + 16 * k) (1 + plist)
  dw1 : tableWord s part (r.ldir + 16 * k + 8) cap
  fits : plist % 2 ^ 8 = 0 ∧ plist < 2 ^ 52 ∧ cap < 2 ^ 23

/-- f is a frame of the pool, and its frame-table entry stands at fa (R112). -/
def poolFrame (s : State) (part f fa : Nat) : Prop :=
  let p := s.part part
  p.poolBase ≤ f ∧ f < p.poolBase + p.poolSize ∧ fa = p.frameTable + 8 * ((f - p.poolBase) / 2 ^ 16)

/-- The page entry at pe names frame f of the pool (R111), whose frame-table entry stands at fa (R112). -/
structure KvPaged (s : State) (part pe f fa : Nat) : Prop where
  entry : tableWord s part pe (f + 1)
  fits : f % 2 ^ 16 = 0 ∧ f < 2 ^ 52
  pool : poolFrame s part f fa

/-- The frame-table entry at fa: refs, pins and state (R112). -/
structure KvFrame (s : State) (part fa refs pins st : Nat) : Prop where
  word : tableWord s part fa (refs * 2 ^ 48 + pins * 2 ^ 32 + st * 2 ^ 30)
  fits : refs < 2 ^ 16 ∧ pins < 2 ^ 16 ∧ st < 4

/-- Token position, directory index and page number of a coordinate (R106, R109, R111). -/
def kvPos (co : W64) : Nat := co.toNat % 2 ^ 24
/-- The index of a coordinate's layer and head. -/
def kvHeadIndex (co : W64) (d : KvSpace) : Nat := co.toNat / 2 ^ 32 % 2 ^ 8 * (d.headsm1 + 1) + co.toNat / 2 ^ 24 % 2 ^ 8
/-- The page of a coordinate. -/
def kvPageNo (co : W64) (d : KvSpace) : Nat := kvPos co / (65536 / d.rowbytes)
/-- The row of a coordinate in a frame. -/
def kvRow (co : W64) (d : KvSpace) (f : Nat) : Nat := f + kvPos co % (65536 / d.rowbytes) * d.rowbytes

/-- The die's KV translation cache holds an entry of the coordinate's page (R114). -/
def kvCached (c : Ctx) (s : State) (co : W64) (d : KvSpace) : Option KvEntry :=
  (s.die c.q.die).kv.find? fun e => e.part == c.q.part && e.space == co.toNat / 2 ^ 60 && e.seq == co.toNat / 2 ^ 40 % 2 ^ 20 &&
    e.layer == co.toNat / 2 ^ 32 % 2 ^ 8 && e.head == co.toNat / 2 ^ 24 % 2 ^ 8 && e.page == kvPageNo co d

/-- The cache after a walk that found the page entry at pe naming f (R114; replacement is log entry 9). -/
def kvFilled (c : Ctx) (s : State) (co : W64) (d : KvSpace) (r : KvSeq) (pe f : Nat) : State :=
  s.modDie c.q.die fun x => { x with kv := (if x.kv.length < 4096 then x.kv else x.kv.drop 1) ++ [{
    part := c.q.part, space := co.toNat / 2 ^ 60, seq := co.toNat / 2 ^ 40 % 2 ^ 20, layer := co.toNat / 2 ^ 32 % 2 ^ 8
    head := co.toNat / 2 ^ 24 % 2 ^ 8, page := kvPageNo co d, entry := BitVec.ofNat 64 (f + 1), entryPa := pe
    length := r.length }] }

/-- A KV exception with its coordinate and the entry at which the walk stopped (R121, R122). -/
def kvStop (co : W64) (cause entry : Nat) : FaultRec := { cls := .kv, sub := cause, kv := some (co, entry) }

/-- Two ranges of memory share no byte. -/
def apart (a n b m : Nat) : Prop := a + n ≤ b ∨ b + m ≤ a

/-- KVLD (R113, R114, R125): reserved control bits raise ILL and a chunk past the row RANGE; a walk past the length raises
BEYOND and one to an absent page MISSING; otherwise each active lane within the row receives its 4 bytes of the chunk and a
lane past it 0, through the die's cache when it holds the page, which else receives it. That a BEYOND by the record's length names
the record, and which entry a full cache drops, are the model's choice (log entries 57 and 9). -/
def kvLoads : Prop := ∀ (z : Bool) (la : BitVec 4) (d a b : BitVec 7) (c : Ctx) (s : State) (D : KvSpace)
    (r : KvSeq) (plist cap f fa : Nat),
  let i : Instr := .kvld z la d a b
  let co := srcS a c
  let ch := (srcS b c).toNat
  let pe := plist + 8 * kvPageNo co D
  let at_ (f l : Nat) : Nat := kvRow co D f + 256 * ch + 4 * l
  let within (l : Nat) : Prop := 256 * ch + 4 * l < D.rowbytes
  let row (f : Nat) (u : State) : State := u.modBank c.g fun k => k.setV d.toNat c.lanes fun l =>
    if 256 * ch + 4 * l < D.rowbytes then BitVec.ofNat 32 (loadN s.mem (at_ f l) 4) else 0
  ready i s = some c →
    (128 ≤ ch → exec i s = .next (s.fail c { cls := .ill, detail := srcS b c })) ∧
    (ch < 128 → KvTables s c.q.part co D r →
      (D.rowbytes ≤ 256 * ch → exec i s = .next (s.fail c (kvStop co 5 D.addr))) ∧
      (256 * ch < D.rowbytes → ∀ e, kvCached c s co D = some e → kvPos co < e.length → e.entry.toNat = f + 1 →
        f % 2 ^ 16 = 0 → f < 2 ^ 52 → (∀ l ∈ c.lanes, within l → s.Serves c.q.part (at_ f l)) →
        ∃ u, CachesOnly s u ∧ Completes i s c (row f u) (c.pc + 4)) ∧
      (256 * ch < D.rowbytes → kvCached c s co D = none →
        (r.length ≤ kvPos co → exec i s = .next (s.fail c (kvStop co 2 r.addr))) ∧
        (kvPos co < r.length → KvList s c.q.part r (kvHeadIndex co D) plist cap →
          (cap ≤ kvPageNo co D → exec i s = .next (s.fail c (kvStop co 0 (r.ldir + 16 * kvHeadIndex co D)))) ∧
          (kvPageNo co D < cap → tableWord s c.q.part pe 0 → exec i s = .next (s.fail c (kvStop co 0 pe))) ∧
          (kvPageNo co D < cap → KvPaged s c.q.part pe f fa → (∀ l ∈ c.lanes, within l → s.Serves c.q.part (at_ f l)) →
            ∃ u, CachesOnly (kvFilled c s co D r pe f) u ∧ Completes i s c (row f u) (c.pc + 4)))))

/-- Memory after the row's chunk and the length, if they are to be written (R127). -/
def kvAppended (c : Ctx) (D : KvSpace) (r : KvSeq) (co : W64) (ctl f : Nat) (v : Nat → W32) (m : SMap Byte) : SMap Byte :=
  let ch := ctl % 128
  let lanes := c.lanes.filter fun l => decide (256 * ch + 4 * l < D.rowbytes)
  let m := lanes.foldl (fun m l => storeN m (kvRow co D f + 256 * ch + 4 * l) (v l).toNat 4) m
  if ctl / 256 = 1 ∧ r.length < kvPos co + 1 then storeN m r.addr (kvPos co + 1) 8 else m

/-- The state after a core has taken the oldest frame of its cache, which leaves `rest`: a count that falls to 4 posts a refill,
unless one is outstanding, or tries again 2,048 cycles later at a full mailbox (R116). -/
def kvTook (c : Ctx) (s : State) (rest : List Nat) : State :=
  let s' := s.modCore c.q.die c.q.core fun k => { k with frames := rest }
  let part := s.partOfDie c.q.die
  let room : Bool := decide ((s.part part).mbox0.length < 64)
  let msg : Msg := {
    v := BitVec.ofNat 64 (2 ^ 56 + c.q.die % 16 * 2 ^ 52 + c.q.core % 256 * 2 ^ 44 + 4), die := c.q.die, core := c.q.core, launch := 0 }
  if rest.length = 4 ∧ (s.core c.q.die c.q.core).refill = false then
    (s'.modPart part fun p => { p with mbox0 := p.mbox0 ++ if room then [msg] else [] }).modCore c.q.die c.q.core fun k =>
      { k with refill := true, deferAt := none, retryAt := if room then none else some (s.cycle + 2048) }
  else s'

/-- KVAPP (R116 to R118, R127): reserved control bits raise ILL, a chunk past the row RANGE and an offloaded page OFFLOADED. A page
that no other entry shares is written in place. An absent page takes the oldest frame of the core's cache, which its page entry
then names with refs 1; a page that others share has its 65,536 bytes copied into that frame first, and its own frame loses 1 of
its refs; each raises NOFRAME when the cache is empty, and a cache count that falls from 5 to 4 posts a refill. The active lanes
of d go to the row, a commit raises the length, and the KV caches of the partition drop the sequence. -/
def kvAppends : Prop := ∀ (z : Bool) (d a b : BitVec 7) (c : Ctx) (s : State) (D : KvSpace)
    (r : KvSeq) (plist cap f fa ga refs pins st : Nat),
  let i : Instr := .kvapp z d a b
  let co := srcS a c
  let ctl := (srcS b c).toNat
  let ch := ctl % 128
  let pe := plist + 8 * kvPageNo co D
  let frames := (s.core c.q.die c.q.core).frames
  let at_ (f l : Nat) : Nat := kvRow co D f + 256 * ch + 4 * l
  let quiet (f : Nat) : Prop := s.Unwatched r.addr 8 ∧ ∀ l ∈ c.lanes, 256 * ch + 4 * l < D.rowbytes →
    s.Serves c.q.part (at_ f l) ∧ s.Unwatched (at_ f l) 4
  let done (u : State) (f : Nat) (m : SMap Byte) : State :=
    ({ u with mem := kvAppended c D r co ctl f (srcV d c) m }).kvDrop c.q.part (co.toNat / 2 ^ 60) (co.toNat / 2 ^ 40 % 2 ^ 20)
  ready i s = some c →
    (512 ≤ ctl ∨ ctl.testBit 7 → exec i s = .next (s.fail c { cls := .ill, detail := srcS b c })) ∧
    (¬ (512 ≤ ctl ∨ ctl.testBit 7) → KvTables s c.q.part co D r → KvList s c.q.part r (kvHeadIndex co D) plist cap →
      kvPageNo co D < cap →
      (KvPaged s c.q.part pe f fa → KvFrame s c.q.part fa refs pins st → refs ≤ 1 →
        (D.rowbytes ≤ 256 * ch → exec i s = .next (s.fail c (kvStop co 5 D.addr))) ∧
        (256 * ch < D.rowbytes → quiet f → ∃ u, CachesOnly (done s f s.mem) u ∧ Completes i s c u (c.pc + 4))) ∧
      (tableWord s c.q.part pe 0 → 256 * ch < D.rowbytes →
        (frames = [] → exec i s = .next (s.fail c (kvStop co 3 pe))) ∧
        (∀ g rest, frames = g :: rest → quiet g → s.Unwatched pe 8 → s.Unwatched ga 8 → poolFrame s c.q.part g ga →
          s.Serves c.q.part ga →
          ∃ u, CachesOnly (done (kvTook c s rest) g (storeN (storeN s.mem ga (2 ^ 48 + 2 ^ 30) 8) pe (g + 1) 8)) u ∧
            Completes i s c u (c.pc + 4))) ∧
      (tableWord s c.q.part pe (f + 3) → f % 2 ^ 16 = 0 → f < 2 ^ 52 → 256 * ch < D.rowbytes →
        exec i s = .next (s.fail c (kvStop co 1 pe))) ∧
      (KvPaged s c.q.part pe f fa → KvFrame s c.q.part fa refs pins st → 1 < refs → 256 * ch < D.rowbytes →
        (frames = [] → exec i s = .next (s.fail c (kvStop co 3 pe))) ∧
        (∀ g rest, frames = g :: rest → g % 65536 = 0 → apart f 65536 g 65536 → apart g 65536 fa 8 → apart ga 8 fa 8 →
          (∀ j < 256, s.Serves c.q.part (f + 256 * j) ∧ s.Serves c.q.part (g + 256 * j)) →
          (∀ m ∈ s.monitors, apart m.pa 8 g 65536) → quiet g →
          s.Unwatched pe 8 → s.Unwatched ga 8 → s.Unwatched fa 8 → poolFrame s c.q.part g ga → s.Serves c.q.part ga →
          ∃ u m, (∀ k, mget 0 m k = if g ≤ k ∧ k < g + 65536 then s.byte (f + (k - g)) else s.byte k) ∧
            CachesOnly (done (kvTook c s rest) g (storeN (storeN (storeN m ga (2 ^ 48 + 2 ^ 30) 8)
              fa ((refs - 1) * 2 ^ 48 + pins * 2 ^ 32 + st * 2 ^ 30) 8) pe (g + 1) 8)) u ∧
            Completes i s c u (c.pc + 4))))

/-- KVFORK (R128), in a space of one layer and one head: a fork length past the parent's length raises BEYOND, a child that
has rows STATE; otherwise the child's page entries below the fork's last page are the parent's, each frame named gains 1 in
refs, the child's record has the length, fk and the parent, and d the number of pages shared. The coordinate that a MISSING reports, with
layer and head 0 and position L, and the entry that a BEYOND names are the model's choice (log entry 57). -/
def kvForks : Prop := ∀ (z : Bool) (d a b : BitVec 7) (c : Ctx) (s : State) (D : KvSpace) (p k : KvSeq)
    (pl pcap kl kcap : Nat) (f fa refs pins st : Nat → Nat),
  let i : Instr := .kvfork z d a b
  let co := srcS a c
  let sq := (srcS b c).toNat
  let L := kvPos co
  let n := (L + 65536 / D.rowbytes - 1) / (65536 / D.rowbytes)
  let child : W64 := BitVec.ofNat 64 (co.toNat / 2 ^ 60 * 2 ^ 60 + sq * 2 ^ 40 + L)
  let share (m : SMap Byte) (j : Nat) : SMap Byte :=
    let m := storeN m (kl + 8 * j) (f j + 1) 8
    let e := loadN m (fa j) 8
    storeN m (fa j) (fEntry (fRefs e + 1) (fPins e) (fState e)) 8
  let m := (List.range n).foldl share s.mem
  let m := storeN (storeN m k.addr L 8) (k.addr + 16) (2 ^ 20 + co.toNat / 2 ^ 40 % 2 ^ 20) 8
  ready i s = some c →
    (2 ^ 20 ≤ sq → exec i s = .next (s.fail c { cls := .ill, detail := srcS b c })) ∧
    (sq < 2 ^ 20 → (co.toNat / 2 ^ 24) % 2 ^ 16 ≠ 0 → exec i s = .next (s.fail c (kvStop co 5 0))) ∧
    (sq < 2 ^ 20 → (co.toNat / 2 ^ 24) % 2 ^ 16 = 0 → D.layersm1 = 0 → D.headsm1 = 0 → KvTables s c.q.part co D p →
      KvTables s c.q.part child D k →
      (p.length < L → exec i s = .next (s.fail c (kvStop co 2 p.addr))) ∧
      (L ≤ p.length → KvList s c.q.part k 0 kl kcap → (∀ j < kcap, tableWord s c.q.part (kl + 8 * j) 0) →
        (k.length ≠ 0 → exec i s = .next (s.fail c (kvStop child 6 k.addr))) ∧
        (k.length = 0 → 0 < n → kcap < n → exec i s = .next (s.fail c (kvStop child 0 k.ldir))) ∧
        (k.length = 0 → n ≤ kcap → KvList s c.q.part p 0 pl pcap → n ≤ pcap →
          (∀ j < n, KvPaged s c.q.part (pl + 8 * j) (f j) (fa j) ∧ KvFrame s c.q.part (fa j) (refs j) (pins j) (st j)) →
          (∀ j < n, refs j = 65535 → (∀ j' < j, refs j' < 65535) → exec i s = .next (s.fail c (kvStop co 6 (fa j)))) ∧
          ((∀ j < n, refs j < 65535 ∧ s.Unwatched (kl + 8 * j) 8 ∧ s.Unwatched (fa j) 8) →
            s.Unwatched k.addr 8 → s.Unwatched (k.addr + 16) 8 →
            ∃ u, CachesOnly (({ s with mem := m }).kvDrop c.q.part (co.toNat / 2 ^ 60) sq) u ∧
              Completes i s c (u.modBank c.g fun b => b.setS d.toNat (BitVec.ofNat 64 n)) (c.pc + 4)))))

/-- KVTRIM (R115, R119, R129), in a space of one layer and one head: a length that is not below the sequence's gives 0 and
changes nothing; otherwise the record has the new length, the entries of later pages are cleared, and a frame that others
still name loses 1 of its refs; a frame that nothing names or pins any more is zeroed and joins the core's cache, which d
counts. -/
def kvTrims : Prop := ∀ (z : Bool) (d a : BitVec 7) (c : Ctx) (s : State) (D : KvSpace) (r : KvSeq)
    (plist cap : Nat) (f fa refs pins st : Nat → Nat),
  let i : Instr := .kvtrim z d a
  let co := srcS a c
  let L := kvPos co
  let n := (L + 65536 / D.rowbytes - 1) / (65536 / D.rowbytes)
  let out (u : State) (v : Nat) : State := u.modBank c.g fun b => b.setS d.toNat (BitVec.ofNat 64 v)
  let frames := (s.core c.q.die c.q.core).frames
  let drop (m : SMap Byte) (j : Nat) : SMap Byte :=
    let m := storeN m (plist + 8 * j) 0 8
    let e := loadN m (fa j) 8
    storeN m (fa j) (fEntry (fRefs e - 1) (fPins e) (fState e)) 8
  ready i s = some c →
    ((co.toNat / 2 ^ 24) % 2 ^ 16 ≠ 0 → exec i s = .next (s.fail c (kvStop co 5 0))) ∧
    ((co.toNat / 2 ^ 24) % 2 ^ 16 = 0 → KvTables s c.q.part co D r →
      (r.length ≤ L → ∃ u, CachesOnly s u ∧ Completes i s c (out u 0) (c.pc + 4)) ∧
      (L < r.length → D.layersm1 = 0 → D.headsm1 = 0 → KvList s c.q.part r 0 plist cap →
        (∀ j < cap, n ≤ j →
          KvPaged s c.q.part (plist + 8 * j) (f j) (fa j) ∧ KvFrame s c.q.part (fa j) (refs j) (pins j) (st j)) →
        (∀ j < cap, n ≤ j → s.Unwatched (plist + 8 * j) 8 ∧ s.Unwatched (fa j) 8 ∧
          apart (fa j) 8 r.addr 8 ∧ ∀ j' < cap, n ≤ j' → apart (fa j) 8 (plist + 8 * j') 8 ∧ (j ≠ j' → fa j ≠ fa j')) →
        s.Unwatched r.addr 8 →
        ((∀ j < cap, n ≤ j → 1 < refs j) →
          ∃ u, CachesOnly (({ s with mem := ((List.range cap).filter (n ≤ ·)).foldl drop (storeN s.mem r.addr L 8) }).kvDrop
              c.q.part (co.toNat / 2 ^ 60) (co.toNat / 2 ^ 40 % 2 ^ 20)) u ∧ Completes i s c (out u 0) (c.pc + 4)) ∧
        (n + 1 = cap → refs n = 1 → pins n = 0 → frames.length < 16 → (∀ j < 256, s.Serves c.q.part (f n + 256 * j)) → apart (f n) 65536 (fa n) 8 →
          apart (f n) 65536 (plist + 8 * n) 8 → apart (f n) 65536 r.addr 8 → apart (plist + 8 * n) 8 r.addr 8 →
          ∃ u, Completes i s c (out u 1) (c.pc + 4) ∧ (u.core c.q.die c.q.core).frames = frames ++ [f n] ∧
            loadN u.mem (fa n) 8 = 3 * 2 ^ 30 ∧ loadN u.mem (plist + 8 * n) 8 = 0 ∧ loadN u.mem r.addr 8 = L ∧
            ∀ k < 65536, u.byte (f n + k) = 0)))

/-- KVQ (R130): the length, tpp, the frames of the core's cache, refs and pins of the page's frame (0 without a page, 2^63 of
an offloaded one), fk and parent; any other selector raises ILL. -/
def kvQueries : Prop := ∀ (z : Bool) (d a b : BitVec 7) (c : Ctx) (s : State) (D : KvSpace) (r : KvSeq)
    (plist cap f fa refs pins st : Nat),
  let i : Instr := .kvq z d a b
  let co := srcS a c
  let v := (srcS b c).toNat
  let pe := plist + 8 * kvPageNo co D
  let gives (n : Nat) : Prop := ∃ u, CachesOnly s u ∧
    Completes i s c (u.modBank c.g fun k => k.setS d.toNat (BitVec.ofNat 64 n)) (c.pc + 4)
  ready i s = some c →
    (5 ≤ v → exec i s = .next (s.fail c { cls := .ill, detail := srcS b c })) ∧
    (v = 2 → gives (s.core c.q.die c.q.core).frames.length) ∧
    (KvTables s c.q.part co D r →
      (v = 0 → gives r.length) ∧ (v = 1 → gives (65536 / D.rowbytes)) ∧ (v = 4 → gives (b01 r.fk * 2 ^ 20 + r.parent)) ∧
      (v = 3 → KvList s c.q.part r (kvHeadIndex co D) plist cap →
        (cap ≤ kvPageNo co D → gives 0) ∧
        (kvPageNo co D < cap → tableWord s c.q.part pe 0 → gives 0) ∧
        (kvPageNo co D < cap → tableWord s c.q.part pe (f + 3) → f % 2 ^ 16 = 0 → f < 2 ^ 52 → gives (2 ^ 63)) ∧
        (kvPageNo co D < cap → KvPaged s c.q.part pe f fa → KvFrame s c.q.part fa refs pins st →
          gives (refs * 2 ^ 16 + pins))))

/-- KVPIN and KVUNPIN (R119, R131): a pin joins the block's table and the frame's pins; with 8 pins held, or 65,535 on the
frame, KVPIN raises STATE, and so does KVUNPIN without a matching entry; otherwise KVUNPIN takes the first match from the
table and 1 from the frame's pins, and frees a draining frame with the last. The entry that a full cache drops is the model's
choice (log entry 9). -/
def kvPins : Prop := ∀ (z : Bool) (a : BitVec 7) (c : Ctx) (s : State) (D : KvSpace) (r : KvSeq)
    (plist cap f fa refs pins st : Nat),
  let co := srcS a c
  let pe := plist + 8 * kvPageNo co D
  let held := (s.block c.bid).pins
  let pin : Pin := {
    space := co.toNat / 2 ^ 60, seq := co.toNat / 2 ^ 40 % 2 ^ 20, layer := co.toNat / 2 ^ 32 % 2 ^ 8
    head := co.toNat / 2 ^ 24 % 2 ^ 8, page := kvPageNo co D, frame := f, tpp := 65536 / D.rowbytes }
  let same (p : Pin) : Prop := p.space = co.toNat / 2 ^ 60 ∧ p.seq = co.toNat / 2 ^ 40 % 2 ^ 20 ∧
    p.layer = co.toNat / 2 ^ 32 % 2 ^ 8 ∧ p.head = co.toNat / 2 ^ 24 % 2 ^ 8 ∧ p.page = kvPos co / p.tpp
  let put (u : State) (refs pins st : Nat) : State := { u with mem := storeN s.mem fa (refs * 2 ^ 48 + pins * 2 ^ 32 + st * 2 ^ 30) 8 }
  (ready (.kvpin z a) s = some c → KvTables s c.q.part co D r → kvCached c s co D = none → kvPos co < r.length →
    KvList s c.q.part r (kvHeadIndex co D) plist cap → kvPageNo co D < cap → KvPaged s c.q.part pe f fa →
    KvFrame s c.q.part fa refs pins st →
    (8 ≤ held.length ∨ pins = 65535 → exec (.kvpin z a) s = .next (s.fail c (kvStop co 6 pe))) ∧
    (held.length < 8 → pins < 65535 → s.Unwatched fa 8 →
      ∃ u, CachesOnly (put ((kvFilled c s co D r pe f).modBlock c.bid fun k => { k with pins := held ++ [pin] })
          refs (pins + 1) st) u ∧ Completes (.kvpin z a) s c u (c.pc + 4))) ∧
  (ready (.kvunpin z a) s = some c →
    ((∀ p ∈ held, ¬ same p) → exec (.kvunpin z a) s = .next (s.fail c (kvStop co 6 0))) ∧
    (∀ l p m, held = l ++ p :: m → (∀ x ∈ l, ¬ same x) → same p → p.frame = f → poolFrame s c.q.part f fa →
      KvFrame s c.q.part fa refs pins st → s.Unwatched fa 8 →
      let u := s.modBlock c.bid fun k => { k with pins := l ++ m }
      (st ≠ 2 ∨ 1 < pins → ∃ w, CachesOnly (put u refs (pins - 1) st) w ∧ Completes (.kvunpin z a) s c w (c.pc + 4)) ∧
      (st = 2 → pins = 1 → ∃ w, CachesOnly { put u refs 0 0 with outbox := s.outbox ++ [.freed f] } w ∧
        Completes (.kvunpin z a) s c w (c.pc + 4))))

/-! ## The privileged instructions -/

/-- A group is stopped (R379): trapped, parked, stopped by GRES, or held by a break notice or a system call. -/
def halted (r : Grp) : Prop :=
  r.run = .trapped ∨ r.run = .stopped ∨ ∃ k, r.run = .parked k ∨ r.run = .brk k ∨ ∃ x, r.run = .syscall k x

/-- A slot of a group that resumes (R206, R212, R292, R340): its wait count starts anew, and a TAKE, an ALSET, a packed access and
an instruction stalled by an interlock are executed again. -/
def restarted (x : Slot) : Slot :=
  let y : Slot := { x with waited := 0, al := none }
  match x.wait with
  | .prio _ => { y with wait := .none, pend := [] }
  | .packed => { y with wait := .none, pend := [] }
  | .interlock => { y with wait := .none, pend := [] }
  | _ => y

/-- A stopped group that resumes at its epc (R378). -/
def resumed (r : Grp) : Grp := { r with
  run := .running
  b := ((r.b.modSlot .a restarted).modSlot .b restarted).modSlot r.eslot fun x => if x.empty then x else { x with pc := r.epc } }

/-- ERET (R374, R378): in the handler, the trapping group resumes at epc, the handler leaves, and the next fault of the
quadrant has its turn 40 cycles later, with tgroup naming its group. Stated where the handler holds no issue-priority token and
waits for no pre-emption. That ERET elsewhere has no effect is the model's reading (log entry 31). -/
def returnsFromTraps : Prop := ∀ (z : Bool) (c : Ctx) (s : State), ready (.eret z) s = some c →
  (isHdl c.g = false → Completes (.eret z) s c s (c.pc + 4)) ∧
  (∀ d k q, c.g = .hdl d k q → (s.quad d k q).prio ≠ some c.g → (∀ p ∈ s.pends, p.by_ ≠ some c.g) →
    ((s.quad d k q).traps = [] → ∃ t, exec (.eret z) s = .next t ∧ (t.grp c.g).run = .idle ∧
      (t.quad d k q).active = false ∧ (t.quad d k q).entry = none ∧ ∀ h, h ≠ c.g → t.grp? h = s.grp? h) ∧
    (∀ g rest r, (s.quad d k q).traps = g :: rest → isHdl g = false → s.grp? g = some r → r.run = .trapped →
      ∃ t, exec (.eret z) s = .next t ∧ t.grp? g = some (resumed r) ∧ (t.grp c.g).run = .idle ∧ t.mem = s.mem ∧
        (t.quad d k q).active = false ∧ (t.quad d k q).traps = rest ∧
        (t.quad d k q).entry = (if rest = [] then none else some (s.cycle + 40)) ∧
        (∀ h, h ≠ g → h ≠ c.g → t.grp? h = s.grp? h) ∧
        ∀ h tl, rest = h :: tl → (s.block? (bidOf h)).isSome → (t.block (bidOf h)).tgroup = (s.grp h).idx1))

/-- What a selector of GRD and GWR names (R379): scalars, elements of physical vector registers, masks, and the PC slots'
pcs and lanes. -/
inductive Named where
  | scalar (n : Nat)
  | element (n l : Nat)
  | mask (n : Nat)
  | pc (sl : SlotId)
  | lanes (sl : SlotId)

/-- A register is what a selector names in a group. -/
def selects (r : Grp) (v : W64) : Named → Prop
  | .scalar n => n < 64 ∧ v.toNat = n
  | .element n l => n < r.valloc ∧ n < 2 ^ 12 ∧ l < 64 ∧ v.toNat = 2 ^ 20 + l * 2 ^ 12 + n
  | .mask n => n < 8 ∧ v.toNat = 2 * 2 ^ 20 + n
  | .pc sl => v.toNat = 3 * 2 ^ 20 + if sl = .a then 0 else 2
  | .lanes sl => v.toNat = 3 * 2 ^ 20 + if sl = .a then 1 else 3

/-- What a slot holds of an instruction is gone (R379). -/
def freed (y : Slot) : Slot := { y with wait := .none, waited := 0, until_ := none, al := none, pend := [], redo := none }

/-- GRD and GWR (R379): of a stopped target GRD gives the register that the selector names, an empty slot's being 0, and GWR
writes it; a selector that names none, and a target that is not stopped, raise ILL with the selector. A write of a pc
that is not a canonical multiple of 4, or of lanes that the other slot has, raises ILL; an empty slot is occupied by lanes at the pc
last written for it, and lanes alone leave an occupied slot as it is. That a slot given a pc or emptied no longer waits, that its
monitors are cancelled, and the details of the ILLs are the model's choice (log entries 34 and 55). -/
def reachesGroups : Prop := ∀ (z : Bool) (d a b : BitVec 7) (c : Ctx) (s : State),
  let g := s.target c
  let v := srcS a c
  let w := srcS b c
  let bad (i : Instr) : Prop := exec i s = .next (s.fail c { cls := .ill, detail := v })
  (ready (.grd z d a) s = some c →
    (s.grp? g = none → bad (.grd z d a)) ∧ ∀ r, s.grp? g = some r →
      (¬ halted r ∨ (∀ x, ¬ selects r v x) → bad (.grd z d a)) ∧
      (halted r → ∀ x, selects r v x → Completes (.grd z d a) s c (s.modBank c.g fun k => k.setS d.toNat (match x with
        | .scalar n => r.b.getS n
        | .element n l => (r.b.getP n l).setWidth 64
        | .mask n => r.b.getM n
        | .pc sl => if (r.b.slot sl).empty then 0 else (r.b.slot sl).pc
        | .lanes sl => (r.b.slot sl).lanes)) (c.pc + 4))) ∧
  (ready (.gwr z a b) s = some c →
    (s.grp? g = none → bad (.gwr z a b)) ∧ ∀ r, s.grp? g = some r →
      (¬ halted r ∨ (∀ x, ¬ selects r v x) → bad (.gwr z a b)) ∧
      (halted r → ∀ x, selects r v x →
        match x with
        | .scalar n => Completes (.gwr z a b) s c (s.modBank g fun k => k.setS n w) (c.pc + 4)
        | .element n l => Completes (.gwr z a b) s c (s.modBank g fun k => k.setP n l (w.setWidth 32)) (c.pc + 4)
        | .mask n => Completes (.gwr z a b) s c (s.modBank g fun k => k.setM n w) (c.pc + 4)
        | .pc sl =>
          (canonical w.toNat ∧ w.toNat % 4 = 0 → Completes (.gwr z a b) s c
            ((s.modSlot g sl fun y => { freed y with pc := w, gpc := w }).cancelMonitors g (some sl)) (c.pc + 4)) ∧
          (¬ (canonical w.toNat ∧ w.toNat % 4 = 0) → bad (.gwr z a b))
        | .lanes sl =>
          (w &&& (r.b.slot (otherSlot sl)).lanes ≠ 0 → bad (.gwr z a b)) ∧
          (w &&& (r.b.slot (otherSlot sl)).lanes = 0 → w = 0 → Completes (.gwr z a b) s c
            (((s.modBank g fun k => { k.modSlot sl (fun y => { pc := y.gpc, gpc := y.gpc }) with
              wins := k.wins.filter fun x => decide (x.sl ≠ sl) }).cancelMonitors g (some sl)).barAfterExit g sl) (c.pc + 4)) ∧
          (w &&& (r.b.slot (otherSlot sl)).lanes = 0 → w ≠ 0 → Completes (.gwr z a b) s c (s.modSlot g sl fun y =>
            if y.empty then { freed y with pc := y.gpc, lanes := w } else { y with lanes := w }) (c.pc + 4))))

/-- GRES (R378, R379): 0 resumes a stopped target at its epc, and one that waited for the handler leaves its queue; 1 stops a
running target at its next run boundary, at once when no run of it is in progress; any other action, a missing target, and 0 of a
target that is not stopped raise ILL. That 1 leaves a stopped target as it is, whose slot gives epc, and the details of the ILLs
are the model's choice (log entries 34 and 55). -/
def stopsAndResumes : Prop := ∀ (z : Bool) (a : BitVec 7) (c : Ctx) (s : State), ready (.gres z a) s = some c →
  let i : Instr := .gres z a
  let g := s.target c
  let v := srcS a c
  let w := s.whereIs g
  let q := s.quad w.1 w.2.1 w.2.2
  let busy : Prop := ∃ sl n, q.cur = some (g, sl, n) ∨ q.held = some (g, sl, n)
  (s.grp? g = none ∨ 1 < v.toNat → exec i s = .next (s.fail c { cls := .ill, detail := v })) ∧
  ∀ r, s.grp? g = some r →
    (v = 0 → ¬ halted r → exec i s = .next (s.fail c { cls := .ill, detail := v })) ∧
    (v = 0 → halted r → Completes i s c ((s.modQuad w.1 w.2.1 w.2.2 fun q =>
      { q with traps := q.traps.take 1 ++ (q.traps.drop 1).filter fun x => decide (x ≠ g) }).modGrp g resumed) (c.pc + 4)) ∧
    (v = 1 → r.run ≠ .running → Completes i s c s (c.pc + 4)) ∧
    (v = 1 → r.run = .running → r.ahead = none → busy →
      Completes i s c (s.modGrp g fun r => { r with run := .stopping }) (c.pc + 4)) ∧
    (v = 1 → r.run = .running → r.ahead = none → ¬ busy →
      let sl : SlotId := if r.b.slotA.empty then .b else .a
      Completes i s c (s.modGrp g fun r => { r with run := .stopped, epc := (r.b.slot sl).pc, eslot := sl }) (c.pc + 4))

/-- The unit of block flat of a launch l is killed with class cls, n of its relaunches being counted (R331, R362, R372): where one
is wanted and allowed, which it is not for a sequential unit that ever held the commit token, its blocks go with their groups and
it is to be placed again; otherwise the launch is aborted with the class as reason and a fatal record is posted. -/
def gangKilled (s t : State) (key flat : Nat) (l : Launch) (cls n : Nat) : Prop :=
  let unit := l.unitOf flat
  let again : Prop := n = 1 ∧ l.relaunches + 1 ≤ l.rlim ∧
    ¬ (l.grade = 2 ∧ ∃ G ∈ l.everHeld, l.unitOf (G / l.groupsPerBlock) = unit)
  (t.launch key).relaunches = l.relaunches + n ∧ (t.launch key).relaunchOf unit = l.relaunchOf unit + n ∧
  (again → (t.launch key).ended = none ∧ (t.launch key).again = l.again ++ [unit] ∧
    (∀ k, k ≠ key → t.launch k = s.launch k) ∧
    ∀ f ∈ l.blocksOf unit, t.block? ⟨key, f⟩ = none ∧ ∀ j, t.grp? (.grp key f j) = none) ∧
  (¬ again → (t.launch key).ended = some { status := 3, reason := cls } ∧
    (∀ f, t.block? ⟨key, f⟩ = none ∧ ((s.block? ⟨key, f⟩).isSome → ∀ j, t.grp? (.grp key f j) = none)) ∧
    ((s.part l.part).tq.length < 256 → ∃ e ∈ (t.part l.part).tq, e.2.rid = (s.part l.part).nextRid ∧
      e.2.kind = .fatal ∧ e.2.code = some cls ∧ e.2.launch = l.id))

/-- GKILL (R331, R362, R372, R378): the blocks of the target's gang go with their groups, in mode 0 to be placed again, in mode 1
with the launch aborted; any other mode raises ILL. That a relaunch which the limit or the commit token refuses is counted too, and
the detail of the ILL, are the model's choice (log entries 32 and 55). -/
def killsGangs : Prop := ∀ (z : Bool) (a b : BitVec 7) (c : Ctx) (s : State) (l : Launch), ready (.gkill z a b) s = some c →
  let i : Instr := .gkill z a b
  let key := c.bid.launch
  (1 < (srcS a c).toNat → exec i s = .next (s.fail c { cls := .ill, detail := srcS a c })) ∧
  ((srcS a c).toNat ≤ 1 → s.launch? key = some l → l.ended = none → ∃ t, exec i s = .next t ∧
    gangKilled s t key c.bid.flat l ((srcS b c).toNat % 256) (if srcS a c = 0 then 1 else 0))

/-- TQPOP (R98, R373, R380): function 0 writes the 512 bytes of the oldest unpopped record to an address that the core's TLB holds
and gives its id, 0 when none waits, and pops it; a misaligned address raises ALIGN. Functions 1 and 2 give 0 and change
nothing when no record of the id is outstanding; else they give 1, drop it, and a group that it parked resumes at epc, with its PRG
Response where the record has Page Requests, or goes to the on-core handler. Others raise ILL. Function 0 is stated where no record
waits for a slot. -/
def popsAndReleases : Prop := ∀ (z : Bool) (d a b : BitVec 7) (c : Ctx) (s : State) (pa : Nat),
  let i : Instr := .tqpop z d a b
  let v := srcS a c
  let fn := (srcS b c).toNat
  let p := s.part c.q.part
  let out (u : State) (n : W64) : State := u.modBank c.g fun k => k.setS d.toNat n
  ready i s = some c →
    (2 < fn → exec i s = .next (s.fail c { cls := .ill, detail := srcS b c })) ∧
    (fn = 0 → v.toNat % 512 ≠ 0 → exec i s = .next (s.fail c { cls := .align, detail := v })) ∧
    (fn = 0 → v.toNat % 512 = 0 → tlbMaps c s v.toNat .write pa →
      (p.oldest = none → Completes i s c (out s 0) (c.pc + 4)) ∧
      (∀ slot r, p.oldest = some (slot, r) → direct c s → p.tqWait = [] → (∀ e ∈ p.tq, e.2.prg → e.2.asked) →
        (∀ k < 64, s.Serves c.q.part (pa + 8 * k) ∧ s.Unwatched (pa + 8 * k) 8) →
        ∃ u, CachesOnly { s.modPart c.q.part (fun p => p.popped slot r) with
            mem := (List.range 64).foldl (fun m k => storeN m (pa + 8 * k) ((r.dws slot).getD k 0).toNat 8) s.mem } u ∧
          Completes i s c (out u (BitVec.ofNat 64 (r.rid * 256 + slot))) (c.pc + 4))) ∧
    (fn = 1 ∨ fn = 2 → p.outstanding v = none → Completes i s c (out s 0) (c.pc + 4)) ∧
    (fn = 1 ∨ fn = 2 → ∀ r g x, p.outstanding v = some r → r.owner = .group g → s.grp? g = some x → x.run = .parked r.rid →
      g ≠ c.g → isHdl g = false → (s.block (bidOf g)).at?.isSome →
      (∀ sl n, (x.b.slot sl).wait ≠ .engine n) → ∃ u, Completes i s c (out u 1) (c.pc + 4) ∧
        (∀ e ∈ (u.part c.q.part).tq, e.2.rid ≠ r.rid) ∧ (fn = 1 → u.grp? g = some (if r.prg then x else resumed x)) ∧
        (fn = 2 → ∃ y, u.grp? g = some y ∧ y.run = .trapped ∧ y.epc = x.epc ∧ y.b = x.b.cancel))

/-- XSET (R101, R381): reserved kind bits and, for a range, a length that is no multiple of 64 KiB raise ILL; otherwise the
invalidation of the range, context or partition has begun and the slot waits for it. The details of the ILLs are the model's choice
(log entry 55). -/
def invalidates : Prop := ∀ (z : Bool) (a b : BitVec 7) (c : Ctx) (s : State),
  let i : Instr := .xset z a b
  let len := srcS b c
  let kind := c.b.getS (b.toNat + 1)
  let q := s.reqOf (s.target c)
  let ext : Extent := match kind.toNat with
    | 0 => .virt q.asid q.pasid ((srcS a c).toNat % 2 ^ 57) len.toNat
    | 1 => .ctx q.asid q.pasid
    | 2 => .ipa (srcS a c).toNat len.toNat
    | _ => .all
  ready i s = some c →
    (4 ≤ kind.toNat → exec i s = .next (s.fail c { cls := .ill, detail := kind })) ∧
    (kind.toNat < 4 → kind.toNat % 2 = 0 → len.toNat % 65536 ≠ 0 →
      exec i s = .next (s.fail c { cls := .ill, detail := len })) ∧
    (kind.toNat < 4 → kind.toNat % 2 = 1 ∨ len.toNat % 65536 = 0 → ∃ u t, exec i s = .next t ∧
      Parked i c u t (.inval s.seq) ∧ u.mem = s.mem ∧
      (u.part c.q.part).invs = (s.part c.q.part).invs ++ [{ id := s.seq, ext := ext, asker := .group c.g c.sl }])

/-- CKPT (R36, R375, R386): ILL for a launch that is not pre-emptible, ALIGN for an area that does not start at a multiple of 64 KiB;
behind the handler at work on a core of the launch, and behind a load of its groups that has not landed, it waits. Otherwise the blocks are pre-empted, and where the core's TLB
holds the pages of the area, all of which is served, d receives the size of the checkpoint written, which starts with the CRC
of what follows, the generation and the launch record; an area whose first page is not writable gives 0. The ALIGN, the ILL's
detail, and that CKPT does not wait for the handler that executes it are the model's choice (log entries 30 and 55). -/
def takesCheckpoints : Prop := ∀ (z : Bool) (d a b : BitVec 7) (c : Ctx) (s : State),
  let i : Instr := .ckpt z d a b
  let key := c.bid.launch
  let l := s.launch key
  let va := (srcS a c).toNat
  let le (v n : Nat) : List Byte := (List.range n).map fun j => BitVec.ofNat 8 (v / 256 ^ j)
  let busy := s.handlerBusy (s.blocksOf key) (some c.g) ∨
    ∃ b ∈ s.blocksOf key, ∃ e ∈ s.groupsOf b, e.2.b.loads
  let q : State := State.ckptSettle { s with pends := s.pends.filter fun p => decide (p.launch ≠ key) } key
  let q' : State := { q with free := q.free + (q.launch key).blocks }
  let n := 8 + (q'.ckptBody q.free key (srcS b c).toNat (q'.blocksOf key)).length
  let out (u : State) (v : Nat) : Prop :=
    Completes i s c (u.modBank c.g fun k => k.setS d.toNat (BitVec.ofNat 64 v)) (c.pc + 4)
  ready i s = some c →
    (l.pre = false → ∃ w, encode i = some w ∧
      exec i s = .next (s.fail c { cls := .ill, detail := BitVec.ofNat 64 w })) ∧
    (l.pre → (srcS a c).toNat % 65536 ≠ 0 → exec i s = .next (s.fail c { cls := .align, detail := srcS a c })) ∧
    (l.pre → va % 65536 = 0 → busy → ∃ u t, exec i s = .next t ∧ Parked i c u t (.ckpt key d.toNat none) ∧
      { u with pends := s.pends } = s) ∧
    (l.pre → va % 65536 = 0 → ¬ busy →
      (∀ e, (q'.core c.q.die c.q.core).tlb.find? (fun e => e.hits c.q (va57 va)) = some e → canonical va →
        ¬ e.tr.p1.allows .write → ∃ u, out u 0 ∧ u.ckpts = s.ckpts) ∧
      ∀ pa : Nat → Nat, l.record.length = 32 →
        (∀ k, 65536 * k < n → tlbHolds c.q q' (va + 65536 * k) .write (pa k) ∧ ∀ j < 65536, q'.Serves c.q.part (pa k + j)) →
        ∃ u k, out u n ∧ u.ckpts = s.ckpts ++ [k] ∧ k.bytes.length = n ∧ k.launch.1 = key ∧
          k.bytes.take 8 = le (crcOf (k.bytes.drop 8)) 8 ∧ (k.bytes.drop 8).take 8 = le (srcS b c).toNat 8 ∧
          (k.bytes.drop 16).take 256 = l.record.flatMap fun v => le v.toNat 8)

/-! ## The engines at work -/

/-- The copy whose turn it is on a channel of a core: the one it performs, else the first issued (R181). -/
def turnOf (s : State) (die core ch : Nat) : Option Copy :=
  let mine := s.copies.filter fun y => y.ch == ch &&
    ((s.block y.bid).place == .core die core || (s.block y.bid).place == .leaving die core)
  (mine.find? (·.active)).or mine.head?

/-- The core's TLB holds the page of va for a requester, and stage 1 refuses the access (R85, R89). -/
def tlbRefuses (q : Req) (s : State) (va : Nat) (kind : Kind) : Prop :=
  canonical va ∧ ∃ e, (s.core q.die q.core).tlb.find? (fun e => e.hits q (va57 va)) = some e ∧ ¬ e.tr.p1.allows kind

/-- What an operation leaves of its identity, as an update-only copy begins with it (R167). -/
def identity (op : AOp) (n : Nat) : Nat :=
  match op with
  | .and | .minn => 2 ^ (8 * n) - 1
  | .min => 2 ^ (8 * n - 1) - 1
  | .max => 2 ^ (8 * n - 1)
  | .fadd => 0x80000000
  | _ => 0

/-- COPY_START and COPY_ELEMENT_WRITTEN (R166, R167, R179 to R182), of the copy whose turn it is on its channel: a copy of length 0
completes with its start, another begins; each element of the one that is performed then moves between the scratchpad and pages that
the core's TLB holds, or between two such pages: it is read, which rdone counts, and written, or added at its home slice or at an
update-only copy of the core's die, which wptr counts; the copy ends with its last element. PERM of an element, and ABORT at a write,
put the channel into its error state at that element and discard the block's copies from it on; XLATE posts a record with one page
and holds the copy. Where no copy is due nothing happens. That rdone counts an element which was read and whose write fails is the
model's reading (log entry 40). -/
def copiesMove : Prop := ∀ (die core ch : Nat) (s : State) (x : Copy) (pa pb : Nat),
  let head := turnOf s die core ch
  let i : Instr := .copyStart die core ch
  let j : Instr := .copyElementWritten die core ch
  let q := { s.reqOf (.grp x.bid.launch x.bid.flat 0) with die := die, core := core }
  let e := if x.kind = 2 ∧ x.op = 2 then 8 else 4
  let l := s.launch x.bid.launch
  let off (v : W64) : Nat := v.toNat + x.done
  let from_ : Nat := off x.src % 2 ^ 64
  let dest : Nat := off x.dst % 2 ^ 64
  let op : AOp := if x.op = 0 then .fadd else .add
  let own : Nat := s.scLoad x.bid (off x.src) e
  let took : State := { s.modBlock x.bid fun b => b.modCh x.ch fun k => { k with rdone := k.rdone + e } with
    copies := s.copies.map fun y => if y.seq = x.seq then { y with val := some (BitVec.ofNat 64 own) } else y }
  let moved (u : State) : State :=
    let u := u.modBlock x.bid fun b => b.modCh x.ch fun k => { k with rdone := k.rdone + e, wptr := k.wptr + e }
    { u with copies := if x.len ≤ x.done + e then s.copies.filter fun y => decide (y.seq ≠ x.seq)
        else s.copies.map fun y => if y.seq = x.seq then { y with done := y.done + e, val := none } else y }
  (head = none → exec i s = .next s ∧ exec j s = .next s) ∧
  (head = some x → x.held = none →
    (x.active → exec i s = .next s) ∧ (x.active = false → exec j s = .next s) ∧
    (x.active = false → x.len = 0 →
      exec i s = .next { s with copies := s.copies.filter fun y => y.seq != x.seq }) ∧
    (x.active = false → x.len ≠ 0 → exec i s = .next { s with
      copies := s.copies.map fun y => if y.seq = x.seq then { y with begun := true, active := true } else y })) ∧
  let fails (u : State) (cls : FClass) : Prop := exec j s = .next { u.modBlock x.bid fun b => b.modCh x.ch fun k =>
      { k with err := some (cls, 0), off := x.done, table := none } with
    copies := s.copies.filter fun y => !(y.bid == x.bid && y.ch == x.ch && decide (x.seq ≤ y.seq)) }
  let holds (u : State) (va : Nat) (kind : Kind) (code : Nat) : Prop := ∀ (f : FaultRec) (host : Bool),
    u.translateTlb q va kind = .fault f → f.cls = .xlate → f.s2 = none → f.page = some (kind, host) →
    (s.part l.part).tqWait = [] → (s.part l.part).tq.length < 254 →
    ∃ t, exec j s = .next t ∧ t.mem = s.mem ∧ t.blocks = u.blocks ∧
      t.copies = u.copies.map (fun y => if y.seq = x.seq then { y with held := some (s.part l.part).nextRid } else y) ∧
      ∃ r ∈ (t.part l.part).tq, r.2.rid = (s.part l.part).nextRid ∧ r.2.cls = .xlate ∧ r.2.kind = .replayable ∧ r.2.src = 1 ∧
        r.2.owner = .copy x.seq ∧ r.2.detail = f.detail ∧ r.2.payload =
          [BitVec.ofNat 64 (l.ctxNo * 2 ^ 36 + 2 ^ 30 + 3 * 2 ^ 18), BitVec.ofNat 64 (2 ^ 63 + code * 2 ^ 61 +
            (if host then 2 ^ 60 else 0) + f.detail.toNat / 65536 % 2 ^ 41 * 2 ^ 16)]
  (head = some x → x.held = none → x.active → x.val = none → (∀ y ∈ s.copies, y.seq = x.seq → y = x) →
    (s.launch x.bid.launch).grade = 0 → (s.block x.bid).shadows = [] →
    (x.kind = 1 → tlbHolds q s dest .write pa →
      (s.Serves q.part pa → s.Unwatched pa e →
        ∃ u, CachesOnly (moved { s with mem := storeN s.mem pa own e }) u ∧ exec j s = .next u) ∧
      (s.reach q.part pa = false → ∃ f, fails { took with fabric := f } .abort)) ∧
    (x.kind = 0 → tlbHolds q s from_ .read pa → s.Serves q.part pa →
      ∃ u, CachesOnly (moved (s.scStore x.bid (off x.dst) e (loadN s.mem pa e))) u ∧ exec j s = .next u) ∧
    (x.kind = 2 → tlbHolds q s dest .rmw pa → s.Serves q.part pa → s.Unwatched pa e →
      (s.homeDie q.part pa = die → ∃ u, CachesOnly (moved { s with
        mem := storeN s.mem pa (newElement op (8 * e) (loadN s.mem pa e) own) e }) u ∧ exec j s = .next u) ∧
      (s.homeDie q.part pa ≠ die → (∀ m ∈ s.updates, m.die = die → l2Set (256 * m.line) ≠ l2Set pa) →
        ∃ u p, CachesOnly (moved { s with updates := s.updates ++ [p] }) u ∧ exec j s = .next u ∧
          p.die = die ∧ p.line = pa / 256 ∧ p.op = op ∧ p.w64 = (e == 8) ∧
          ∀ k, mget (BitVec.ofNat 64 (identity op e)) p.parts k =
            BitVec.ofNat 64 (if k = pa % 256 then newElement op (8 * e) (identity op e) own else identity op e))) ∧
    (x.kind = 3 → tlbHolds q s from_ .read pa → tlbHolds q s dest .write pb → s.Serves q.part pa → s.Serves q.part pb →
      s.Unwatched pb e →
      ∃ u, CachesOnly (moved { s with mem := storeN s.mem pb (loadN s.mem pa e) e }) u ∧ exec j s = .next u) ∧
    (x.kind = 0 ∨ x.kind = 3 → (tlbRefuses q s from_ .read → fails s .perm) ∧ holds s from_ .read 0) ∧
    (x.kind = 1 → (tlbRefuses q s dest .write → fails took .perm) ∧ holds took dest .write 1) ∧
    (x.kind = 2 → (tlbRefuses q s dest .rmw → fails took .perm) ∧ holds took dest .rmw 2))

/-- The matrix queue of a quadrant, in arrival order (R267). -/
def quadrantQueue (s : State) (die core quad : Nat) : List MEntry :=
  s.matq.filter fun m => (s.block (bidOf m.g)).at?.isSome && s.whereIs m.g == (die, core, quad)

/-- The engine of the quadrant executes m. -/
def executes (s : State) (die core quad : Nat) (m : MEntry) : Prop :=
  (quadrantQueue s die core quad).find? (fun m => m.started && m.held.isNone) = some m ∧ m.pins = [] ∧
    (s.block? (bidOf m.g)).isSome

/-- Block k' is k but for tile t, which holds values v, counts n and the split mark. -/
def tileBecomes (k k' : Block) (t : Nat) (v : Nat → Nat → W32) (n : Nat → Nat → BitVec 16) (mark : Bool) : Prop :=
  (∀ i < 64, ∀ j < 64, k'.getT t i j = v i j ∧ k'.getC t i j = n i j) ∧ (k'.getTs t).split = mark ∧
  ∀ u, u ≠ t → k'.getTs u = k.getTs u ∧ ∀ i < 64, ∀ j < 64, k'.getT u i j = k.getT u i j ∧ k'.getC u i j = k.getC u i j

/-- An event of the engine completes m: it leaves its queue, groups and memory are as before, and the block is changed as
said. -/
def engineEnds (i : Instr) (s : State) (m : MEntry) (p : Block → Block → Prop) : Prop :=
  ∃ t, exec i s = .next t ∧ t.matq = s.matq.filter (fun x => x.seq != m.seq) ∧ t.mem = s.mem ∧ t.groups = s.groups ∧
    p (s.block (bidOf m.g)) (t.block (bidOf m.g))

/-- A butterfly stage of HAD (R275). -/
def hadStage (h : Nat) (x : Nat → W32) (j : Nat) : W32 :=
  if j / h % 2 = 0 then fadd (x j) (x (j + h)) else fsub (x (j - h)) (x j)

/-- The first n stages of HAD (R275). -/
def hadStages : Nat → (Nat → W32) → Nat → W32
  | 0, x => x
  | n + 1, x => hadStage (2 ^ n) (hadStages n x)

/-- The sum of f over 0 to n - 1. -/
def sumUpTo (f : Nat → Int) : Nat → Int
  | 0 => 0
  | n + 1 => sumUpTo f n + f n

/-- The larger of two lists of |x| by their bits, from m on (R277). -/
def largest (m : Nat) (xs : List W32) : Nat := xs.foldl (fun m x => max m (x.toNat % 2 ^ 31)) m

/-- One block of QNT (R277): its scale code, the code of each element, the elements that are clipped, and whether it falls below the
smallest scale or has none that is valid. -/
structure Quantised where
  scale : Nat
  code : W32 → Nat
  clipped : W32 → Bool := fun _ => false
  under : Bool := false
  invalid : Bool := false

/-- A block under a scale: each element over scale and band, rounded to E2M1, clipped above 6 (R277). -/
def underScale (sf : Fmt) (band : Val) (sc : Nat) : Quantised :=
  let q (x : W32) : Val := (f32 x).div ((decodeFmt sf 0 sc).mul band)
  { scale := sc, code := fun x => roundTo .e2m1 .rne 0 (q x), clipped := fun x => match q x with
      | .fin _ m e => magGt m e 6 0
      | _ => true }

/-- A block of QNT under its control word (R276, R277). -/
def quantised (ctl : W64) (xs : List W32) : Quantised :=
  let e8 := ctl.getLsbD 1
  let sf : Fmt := if e8 then .e8m0 else .e3m5
  let band := decodeFmt .bf16 0 (ctl.toNat / 2 ^ 16 % 2 ^ 16)
  let sc := ctl.toNat / 2 ^ 8 % 2 ^ 8
  let mx := largest 0 xs
  if ctl.getLsbD 0 = false then (if sc = 0 then { scale := 0, code := fun _ => 0 } else underScale sf band sc)
  else if mx = 0 then { scale := 0, code := fun _ => 0 }
  else if 0x7F800000 ≤ mx then { scale := 0xFF, code := fun x => if x.getLsbD 31 then 15 else 7, invalid := true }
  else match (f32 (BitVec.ofNat 32 mx)).div ((Val.fin false 6 0).mul band) with
    | .fin _ m e =>
      if magGt 1 (if e8 then -127 else -7) m e then { scale := if e8 then 0 else 1, code := fun _ => 0, under := true }
      else if (if e8 then magGt m e 1 127 else magGt m e 63 (-1)) then underScale sf band (if e8 then 0xFE else 0xFF)
      else underScale sf band (roundTo sf .rup 0 (.fin false m e))
    | _ => { scale := 0, code := fun _ => 0 }

/-- How many of the elements of 64 rows and columns satisfy p. -/
def countOf (p : Nat → Nat → Bool) : Nat :=
  sumUpTo (fun i => sumUpTo (fun j => if p i j then 1 else 0) 64) 64 |>.toNat

/-- Block k' is k after QNT of tile a into tile d on a quadrant (R276 to R278): codes and scales of the rows, statistics raised. -/
def quantises (k k' : Block) (ctl : W64) (d a quad : Nat) : Prop :=
  let n := if ctl.getLsbD 1 then 32 else 8
  let part (i b : Nat) : List W32 := (List.range n).map fun j => k.getT a i (n * b + j)
  let blk (i b : Nat) : Quantised := quantised ctl (part i b)
  let code (i j : Nat) : Nat := (blk i (j / n)).code (k.getT a i j)
  let scale (i b : Nat) : Nat := if n * b < 64 then (blk i b).scale else 0
  let y := k.getQs quad
  let y' := k'.getQs quad
  let up (old : W64) (m : Nat) : W64 := BitVec.ofNat 64 (min (2 ^ 64 - 1) (old.toNat + m))
  let all := (List.range 64).flatMap fun i => (List.range 64).map fun j => k.getT a i j
  tileBecomes k k' d (fun i j => BitVec.ofNat 32 (
      if j < 8 then (sumUpTo (fun m => code i (8 * j + m) * 2 ^ (4 * m)) 8).toNat
      else if j < 10 then (sumUpTo (fun m => scale i (4 * (j - 8) + m) * 2 ^ (8 * m)) 4).toNat else 0))
    (fun _ _ => 0) false ∧
  (∀ q, q ≠ quad → k'.getQs q = k.getQs q) ∧
  y'.clip = up y.clip (countOf fun i j => (blk i (j / n)).clipped (k.getT a i j)) ∧ y'.total = up y.total 4096 ∧
  y'.under = up y.under (countOf fun i j => j % n = 0 && (blk i (j / n)).under) ∧
  (y.max.toNat ≤ 0x7F800000 → y'.max.toNat = largest y.max.toNat (all.filter fun x => !nanBits x)) ∧
  y'.flags = (y.flags || (List.range 64).any fun i => (List.range (64 / n)).any fun b => (blk i b).invalid)

/-- MATRIX_INSTRUCTION_START and MATRIX_INSTRUCTION_COMPLETE (R257, R267, R275 to R282). The engine executes its queue in
order, one instruction at a time, and starts none that names a tile which an earlier instruction of the block names, in any
quadrant. TZERO zeroes a tile, TCOPY copies one with its counts and mark, HAD transforms the runs of rows or columns, QNT quantises
the blocks of the rows, TDR RAW of a plain tile, and DIFF, CANC and AGREE of a split pair fill tile d. -/
def enginesComplete : Prop := ∀ (die core quad : Nat) (s : State) (m : MEntry),
  let start : Instr := .matrixInstructionStart die core quad
  let done : Instr := .matrixInstructionComplete die core quad
  let queue := quadrantQueue s die core quad
  let k := s.block (bidOf m.g)
  let plain : Prop := (match m.op with | .mloop _ _ _ => False | .tdr _ => False | _ => True)
  (((∃ x ∈ queue, x.started ∧ x.held = none) ∨ queue = []) → exec start s = .next s) ∧
  ((∀ x ∈ queue, ¬ (x.started ∧ x.held = none)) → exec done s = .next s) ∧
  ((∀ x ∈ queue, ¬ (x.started ∧ x.held = none)) → queue.head? = some m → m.held = none → plain →
    ((∃ x ∈ s.matq, bidOf x.g = bidOf m.g ∧ x.seq < m.seq ∧ m.d ∈ s.tilesOf x ∧ ¬ (x.kv ∧ x.held ≠ none)) →
      (∀ x ∈ s.matq, ¬ (x.kv ∧ x.held ≠ none)) → exec start s = .next s) ∧
    ((∀ x ∈ s.matq, bidOf x.g = bidOf m.g → x.seq < m.seq → ∀ t ∈ s.tilesOf x, t ∉ s.tilesOf m) →
      exec start s = .next { s with matq := s.matq.map fun x => if x.seq = m.seq then { x with started := true } else x })) ∧
  (executes s die core quad m →
    (m.op = .tzero → engineEnds done s m fun k k' => tileBecomes k k' m.d (fun _ _ => 0) (fun _ _ => 0) false) ∧
    (m.op = .tcopy → engineEnds done s m fun k k' =>
      tileBecomes k k' m.d (k.getT m.a) (k.getC m.a) (k.getTs m.a).split) ∧
    (∀ ctl : W64, m.op = .had ctl → ctl.toNat % 4 < 3 →
      let w := 4 + ctl.toNat % 4
      let n := 2 ^ w
      let run (x : Nat → W32) (j : Nat) : W32 :=
        toF32 ((f32 (hadStages w (fun y => x (j / n * n + y)) (j % n))).mul (.fin false 1 (if w = 6 then -3 else -2)))
      engineEnds done s m fun k k' => tileBecomes k k' m.d
        (fun i j => if ctl.getLsbD 2 then run (fun x => k.getT m.a x j) i else run (k.getT m.a i) j) (fun _ _ => 0) false) ∧
    (m.op = .tdr 3 → (k.getTs m.d).tdctl.getLsbD 2 = false → (k.getTs m.a).split = false →
      engineEnds done s m fun k k' => tileBecomes k k' m.d (k.getT m.a) (k.getC m.a) false) ∧
    (m.op = .tdr 0 → (k.getTs m.d).tdctl.getLsbD 2 = false → (k.getTs m.a).split → m.a % 2 = 0 →
      (∀ i < 64, ∀ j < 64, finiteBits (k.getT m.a i j) ∧ (k.getT m.a i j).getLsbD 31 = false ∧
        finiteBits (k.getT (m.a + 1) i j) ∧ (k.getT (m.a + 1) i j).getLsbD 31 = false) →
      ∃ v, (∀ i < 64, ∀ j < 64, RoundsRne (unitsOf (k.getT m.a i j) - unitsOf (k.getT (m.a + 1) i j)) 1 (v i j)) ∧
        engineEnds done s m fun k k' => tileBecomes k k' m.d v (fun i j => BitVec.ofNat 16
          (min 65535 ((k.getC m.a i j).toNat + (k.getC (m.a + 1) i j).toNat))) false) ∧
    (∀ ctl : W64, m.op = .qnt ctl → engineEnds done s m fun k k' => quantises k k' ctl m.d m.a quad) ∧
    (m.op = .tdr 1 ∨ m.op = .tdr 2 → (k.getTs m.d).tdctl.getLsbD 2 = false → (k.getTs m.a).split → m.a % 2 = 0 →
      (∀ i < 64, ∀ j < 64, finiteBits (k.getT m.a i j) ∧ (k.getT m.a i j).getLsbD 31 = false ∧
        finiteBits (k.getT (m.a + 1) i j) ∧ (k.getT (m.a + 1) i j).getLsbD 31 = false) →
      let P (i j : Nat) : Int := unitsOf (k.getT m.a i j)
      let N (i j : Nat) : Int := unitsOf (k.getT (m.a + 1) i j)
      let thr := (k.getTs m.a).thr
      let meets (i j : Nat) : Bool := if P i j + N i j = 0 then decide (unitsOf thr ≤ 0)
        else decide (unitsOf thr * (P i j + N i j) ≤ (P i j - N i j).natAbs * 2 ^ 149)
      let counts (i j : Nat) : BitVec 16 := BitVec.ofNat 16 (min 65535 ((k.getC m.a i j).toNat + (k.getC (m.a + 1) i j).toNat))
      (m.op = .tdr 1 → ∃ v, (∀ i < 64, ∀ j < 64, if P i j + N i j = 0 then v i j = 0
          else RoundsRne (min (P i j) (N i j) * 2 ^ 149) (max (P i j) (N i j)).toNat (v i j)) ∧
        engineEnds done s m fun k k' => tileBecomes k k' m.d v counts false) ∧
      (m.op = .tdr 2 → finiteBits thr → ∃ v, (∀ i < 64, ∀ j < 64,
          if meets i j then RoundsRne (P i j - N i j) 1 (v i j) else v i j = 0) ∧
        engineEnds done s m fun k k' => tileBecomes (k.modTs m.a fun t => { t with
            zcnt := BitVec.ofNat 32 (min (2 ^ 32 - 1) (t.zcnt.toNat + countOf fun i j => !meets i j)) }) k' m.d v counts false)))

/-- Element k of row r of a strip of i8 or n8 (R261). -/
def stripInt (f : Nat) (l : List Byte) (r k : Nat) : Int :=
  let b := l.getD (32 * r + k) 0
  if f = 8 then b.toInt else b.toNat

/-- A band scale; one that is NaN or infinite makes every product NaN (R262). -/
def bandScale (band : Nat) : Val :=
  match decodeFmt .bf16 0 band with
  | .fin n m e => .fin n m e
  | _ => .nan

/-- Element k of row r of a strip of a floating-point format, with its scales and extra value (R222, R223, R261). -/
def stripVal (f : Nat) (xv : Int) (band : Nat) (l : List Byte) (r k : Nat) : Val :=
  let b (i : Nat) : Nat := (l.getD i 0).toNat
  let code : Nat := b (16 * r + k / 2) / 16 ^ (k % 2) % 16
  match f with
  | 0 => ((decodeFmt .e2m1 xv code).mul (decodeFmt .e3m5 0 (b (1024 + 4 * r + k / 8)))).mul (bandScale band)
  | 1 => (decodeFmt .e2m1 xv code).mul (decodeFmt .e8m0 0 (b (1024 + r)))
  | 2 => decodeFmt .e4m3 0 (b (32 * r + k))
  | 3 => decodeFmt .e5m2 0 (b (32 * r + k))
  | 4 => (decodeFmt .e4m3 0 (b (32 * r + k))).mul (decodeFmt .e8m0 0 (b (2048 + r)))
  | 5 => (decodeFmt .e5m2 0 (b (32 * r + k))).mul (decodeFmt .e8m0 0 (b (2048 + r)))
  | 6 => decodeFmt .bf16 0 (b (32 * r + 2 * k) + 256 * b (32 * r + 2 * k + 1))
  | _ => decodeFmt .fp16 0 (b (32 * r + 2 * k) + 256 * b (32 * r + 2 * k + 1))

/-- Container i of a strip of an alphabet (R261). -/
def stripCode (al : W64) (l : List Byte) (i : Nat) : Nat :=
  let w := alWidth al / 8
  (sumUpTo (fun b => (l.getD (i * w + b) 0).toNat * 256 ^ b) w).toNat

/-- Symbol k of row r of a strip of an alphabet: a digit of its container, or the substitute (R202, R261). -/
def stripSymbol (al : W64) (l : List Byte) (r k : Nat) : Int :=
  let c := stripCode al l (r * ((32 + alGroup al - 1) / alGroup al) + k / alGroup al)
  if badCode al c then alSymbol al else ((c / alRadix al ^ (k % alGroup al) % alRadix al : Nat) : Int) + alOffset al

/-- Node j of level n of the fixed tree over leaves f, each sum rounded (R254, R263). -/
def treeNode (f : Nat → Val) : Nat → Nat → Val
  | 0, j => f j
  | n + 1, j => f32 (toF32 ((treeNode f n (2 * j)).add (treeNode f n (2 * j + 1))))

/-- The step total of sixteen products: the tree's root, a zero of either sign being +0 (R263). -/
def rootOf (f : Nat → Val) : Val :=
  match treeNode f 4 0 with
  | .fin n m e => .fin (n && decide (m ≠ 0)) m e
  | v => v

/-- The exact sum of the values of f over 0 to n - 1, from +0 (R262). -/
def addUpTo (f : Nat → Val) : Nat → Val
  | 0 => .fin false 0 0
  | n + 1 => (addUpTo f n).add (f n)

/-! ## The events of translation and of frames -/

/-- What an event that lets nothing happen answers. -/
def nothing (i : Instr) (s : State) : Prop := exec i s = .next s

/-- A group that a record of cause XLATE holds, and that waits in no PUBLISH, goes to the on-core handler as PERM with a detail
(R98, R100, R373). -/
def permAt (i : Instr) (s : State) (part : Nat) (r : Rec) (g : GId) (x : Grp) (detail : W64) : Prop :=
  (∀ sl n, (x.b.slot sl).wait ≠ .engine n) →
  ∃ t y, exec i s = .next t ∧ t.grp? g = some y ∧ y.run = .trapped ∧ y.epc = x.epc ∧ y.b = x.b.cancel ∧ y.ecause = r.cause + 1 ∧
    y.edetail = detail ∧ (∀ e ∈ (t.part part).tq, e.2.rid ≠ r.rid) ∧ (∀ e ∈ (t.part part).chandler, e.rid ≠ r.rid)

/-- The same group resumes at its epc, and the record is gone. -/
def resumesAt (i : Instr) (s : State) (part : Nat) (r : Rec) (g : GId) (x : Grp) : Prop :=
  ∃ t, exec i s = .next t ∧ t.grp? g = some (resumed x) ∧ (∀ h, h ≠ g → t.grp? h = s.grp? h) ∧
    (∀ e ∈ (t.part part).tq, e.2.rid ≠ r.rid) ∧ (∀ e ∈ (t.part part).chandler, e.rid ≠ r.rid)

/-- WALK_COMPLETE, RUN_AHEAD_END, ATS_TRANSLATION_COMPLETION and PRG_RESPONSE (R83, R85, R90, R95 to R98, R101, R103): the slot that
waits for a Translation Request goes on once it is answered, the fetch of its group suspended until its checks have passed; a
completion takes the place of those that it meets and of the requests that it answers, and one that a covering invalidation in
progress meets, or that a module without power receives, is not kept; at the end of run-ahead the checkpoint is back and the group is parked on a
replayable XLATE record of the pages found; a PRG Response of Success lets the record be replayed, resuming the group when
software has released it already, and any other turns the fault into PERM. -/
def walksEnd : Prop := ∀ (g : GId) (sl : SlotId) (part pasid va rid hpa : Nat) (present rd w : Bool) (size : PSize) (s : State),
  let x := (s.grp g).b.slot sl
  let q := s.reqOf g
  let i : Instr := .walkComplete g sl
  let j : Instr := .runAheadEnd g
  let ok : Instr := .prgResponse part rid true
  let no : Instr := .prgResponse part rid false
  let asked (page : Nat) : Prop := (q.part, q.pasid, page) ∈ s.atsOut
  let one : Ats := {
    part := part, pasid := pasid, va := va % 2 ^ 57, present := present, rd := rd, w := w, hpa := hpa, size := size }
  let on (a : Ats) (p d page : Nat) : Bool := a.part == p && a.pasid == d && pageBase (65536 * page) a.size == pageBase a.va a.size
  (∀ page, x.wait = .ats page → ¬ asked page → exec i s = .next (s.modSlot g sl fun y => { y with wait := .walked, waited := 0 })) ∧
  (∀ page, x.wait = .fetch page → ¬ asked page → exec i s = .next (s.modSlot g sl fun y => { y with wait := .none, waited := 0 })) ∧
  (∀ page, x.wait = .ats page ∨ x.wait = .fetch page → asked page → nothing i s) ∧
  ((∀ page, x.wait ≠ .ats page ∧ x.wait ≠ .fetch page) → nothing i s) ∧
  (s.power = false → nothing (.atsTranslationCompletion part pasid va present rd w hpa size) s) ∧
  (s.power → exec (.atsTranslationCompletion part pasid va present rd w hpa size) s = .next { s with
    ats := s.ats.filter (fun b => !(on one b.part b.pasid (b.va / 65536) || on b part pasid (va % 2 ^ 57 / 65536))) ++
      if (s.part part).invs.any (fun i => i.ext.coversAts one) then [] else [one]
    atsOut := s.atsOut.filter fun o => !on one o.1 o.2.1 o.2.2 }) ∧
  (∀ r, s.grp? g = some r →
    (r.ahead = none ∨ (∃ a, r.ahead = some a ∧ a.ended = none) → nothing j s) ∧
    (∀ a k, r.ahead = some a → a.ended = some k → a.s2 = [] → (s.part q.part).tqWait = [] →
      (s.part q.part).tq.length < 254 → ∃ t, exec j s = .next t ∧ t.mem = s.mem ∧
        t.grp? g = some { r with b := a.saved, ahead := none, run := .parked (s.part q.part).nextRid } ∧
        (t.part q.part).nextRid = (s.part q.part).nextRid + 1 ∧
        ∃ e ∈ (t.part q.part).tq, e.2.rid = (s.part q.part).nextRid ∧ e.2.cls = .xlate ∧ e.2.kind = .replayable ∧
          e.2.owner = .group g ∧ e.2.epc = r.epc ∧ e.2.cause = r.ecause ∧ e.2.detail = r.edetail ∧
          e.2.payload.length = a.pages.length + 1 ∧ e.2.payload.head? = some (BitVec.ofNat 64
            (q.ctxNo * 2 ^ 36 + a.pages.length * 2 ^ 30 + a.count * 2 ^ 21 + k * 2 ^ 18)))) ∧
  ((s.part part).findRec rid = none → nothing ok s ∧ nothing no s) ∧
  (∀ r, (s.part part).findRec rid = some r → r.prg = false ∨ r.asked = false → nothing ok s ∧ nothing no s) ∧
  (∀ n r o y, (s.part part).tq.find? (fun e => e.2.rid == rid) = some (n, r) → (s.part part).chandler = [] →
    r.cls = .xlate → r.prg → r.asked → r.s2 = [] → r.owner = .group o → isHdl o = false → s.grp? o = some y → y.run = .parked rid →
    permAt no s part r o y r.hostDetail ∧
    exec ok s = .next (s.modPart part fun p => { p with
      tq := p.tq.map fun e => (e.1, if e.2.rid = rid then { e.2 with prg := false } else e.2)
      tqWait := p.tqWait.map fun e => if e.rid = rid then { e with prg := false } else e })) ∧
  (∀ r o y, (s.part part).tq.find? (fun e => e.2.rid == rid) = none → (s.part part).tqWait = [] →
    (s.part part).chandler.find? (fun e => e.rid == rid) = some r → r.prg → r.asked → r.s2 = [] → r.owner = .group o →
    s.grp? o = some y → y.run = .parked rid → resumesAt ok s part r o y)

/-- The invalidations and the Chandler's answers (R100, R101, R103, R104, R114, R121, R188): an ATS request begins an
invalidation, unless 32 stand already; one is complete once every access that used a covered translation has been performed. As the
model reads this, no access of the partition beyond the package is on its way, no staged write stands under a covered translation, no
load is held at a replica, and no WAITC that is to translate anew still watches its old address (log entries 42, 35, 9). Its requester is answered, and a PUBLISH gives back the frames it replaced and
closes its shadow; a stage-2 fault resolved with its last record, or a KV fault, is posted to software or lets its group
resume, and otherwise becomes PERM or goes to the trap queue. -/
def invalidationsEnd : Prop := ∀ (part pasid start len iid rid k space seq : Nat) (s : State),
  let p := s.part part
  let i : Instr := .invalidationComplete part iid
  let two (b : Bool) : Instr := .stage2FaultResolved part { rid := rid, k := k } b
  let kv (b : Bool) : Instr := .kvFaultResolved part rid b
  let ats : Instr := .atsInvalidateRequest part pasid start len
  let asked : Nat := ((s.parts.map fun e => (e.2.invs.filter fun x => x.asker == .iommu).length).foldl (· + ·) 0)
  let pending (x : Extent) : Prop := (∃ r ∈ s.remote, (s.reqOf r.g).part = part) ∨
    (∃ b ∈ s.blocks, (s.launch b.1.launch).part = part ∧ b.2.staged ≠ [] ∧ ∃ e ∈ b.2.stagedBy, x.covers e.tag e.tr) ∨
    (∃ e ∈ s.groups, s.groupPart e.1 = part ∧ e.2.b.loads) ∨ ∃ m ∈ s.monitors, s.groupPart m.g = part ∧ s.repolling m
  (32 ≤ asked → nothing ats s) ∧
  (asked < 32 → ∃ t, exec ats s = .next t ∧ t.mem = s.mem ∧ t.seq = s.seq + 1 ∧
    (t.part part).invs = p.invs ++ [{ id := s.seq, ext := .ats pasid (start % 2 ^ 57) len, asker := .iommu }]) ∧
  (∃ t, exec (.kvInvalidation part space seq) s = .next t ∧ t.mem = s.mem ∧ t.groups = s.groups ∧
    ∀ d, (t.die d).kv = (s.die d).kv.filter fun e => !(e.part == part && e.space == space && e.seq == seq)) ∧
  (p.invs.find? (fun x => x.id == iid) = none → nothing i s) ∧
  (∀ x, p.invs.find? (fun x => x.id == iid) = some x →
    (pending x.ext → nothing i s) ∧
    (¬ pending x.ext → ∃ t, exec i s = .next t ∧ t.mem = s.mem ∧ (t.part part).invs = p.invs.filter (fun y => y.id != iid) ∧
      (t.part part).shadowPool = p.shadowPool ++ x.frames ∧
      (∀ g sl, x.asker = .group g sl → isHdl g = false →
        (t.block (bidOf g)).shadows = (s.block (bidOf g)).shadows.filter fun h => h.closing != some x.id) ∧
      (x.asker = .iommu → t.outbox = s.outbox ++ [.invalidated part]) ∧
      (x.asker = .host → (t.part part).invctl = if (p.invs.filter fun y => y.id != iid).any (fun y => y.asker == .host)
        then p.invctl else p.invctl &&& BitVec.ofNat 64 (2 ^ 63 - 1)) ∧
      (∀ g sl, x.asker = .group g sl → (s.grp? g).isSome → ((s.grp g).b.slot sl).wait = .inval x.id →
        ((t.grp g).b.slot sl).wait = .none ∧ ((t.grp g).b.slot sl).pc = ((s.grp g).b.slot sl).pc + 4))) ∧
  (p.chandler.find? (fun r => r.rid == rid) = none → nothing (two true) s ∧ nothing (kv true) s) ∧
  (∀ r g x, p.chandler.find? (fun r => r.rid == rid) = some r → r.owner = .group g → isHdl g = false → s.grp? g = some x →
    x.run = .parked rid →
    (r.s2[k]? = none → nothing (two true) s ∧ nothing (two false) s) ∧
    (∀ y, r.s2[k]? = some y → r.cls = .xlate → permAt (two false) s part r g x (canon y.va) ∧
      (r.s2.length = 1 → p.tqWait = [] → p.tq.length < 254 → ∃ t e, exec (two true) s = .next t ∧ e ∈ (t.part part).tq ∧
        e.2 = { r with s2 := [], asked := r.asked || r.prg } ∧ t.groups = s.groups) ∧
      (r.s2.length ≠ 1 → exec (two true) s = .next (s.modPart part fun p => { p with
        chandler := p.chandler.map fun z => if z.rid = rid then { r with s2 := r.s2.eraseIdx k } else z }))) ∧
    (r.cls = .kv → resumesAt (kv true) s part r g x ∧
      (r.kind = .replayable → p.tqWait = [] → p.tq.length < 254 → ∃ t e, exec (kv false) s = .next t ∧
        e ∈ (t.part part).tq ∧ e.2 = { r with asked := r.asked || r.prg } ∧ t.groups = s.groups)))

/-- FRAME_GRANT, REFILL_RETRY and REFILL_DEFERRED (R115, R116): distinct free frames of the pool, as many as the core's cache has
room for, join it, zeroed, with their entries granted; an empty grant defers the next refill by 65,536 cycles. When its time
has come a refill is posted to the Chandler's mailbox, and tried again 2,048 cycles later when that is full. -/
def framesGranted : Prop := ∀ (die core : Nat) (fs : List Nat) (s : State),
  let part := s.partOfDie die
  let p := s.part part
  let k := s.core die core
  let i : Instr := .frameGrant die core fs
  let fa (f : Nat) : Nat := p.frameTable + 8 * ((f - p.poolBase) / 2 ^ 16)
  let good : Prop := (∀ f ∈ fs, poolFrame s part f (fa f) ∧ f % 2 ^ 16 = 0 ∧ loadN s.mem (fa f) 8 / 2 ^ 30 % 4 = 0) ∧ fs.Nodup ∧
    k.frames.length + fs.length ≤ 16
  let msg : Msg := { v := BitVec.ofNat 64 (2 ^ 56 + die % 16 * 2 ^ 52 + core % 256 * 2 ^ 44 + k.frames.length), die := die
                     core := core, launch := 0 }
  let posts (j : Instr) : Prop := ∃ t, exec j s = .next t ∧ t.mem = s.mem ∧ (t.core die core).refill ∧
    (t.core die core).frames = k.frames ∧ (t.core die core).deferAt = none ∧
    (p.mbox0.length < 64 → (t.part part).mbox0 = p.mbox0 ++ [msg] ∧ (t.core die core).retryAt = none) ∧
    (64 ≤ p.mbox0.length → (t.part part).mbox0 = p.mbox0 ∧ (t.core die core).retryAt = some (s.cycle + 2048))
  (¬ good → nothing i s) ∧
  (good → fs = [] → k.frames.length ≤ 4 → ∃ t, exec i s = .next t ∧ t.mem = s.mem ∧ (t.core die core).refill = false ∧
    (t.core die core).frames = k.frames ∧ (t.core die core).deferAt = some (s.cycle + 65536)) ∧
  (good → (∀ f ∈ fs, s.Serves part (fa f) ∧ ∀ j < 256, s.Serves part (f + 256 * j)) → 4 < k.frames.length + fs.length → (∀ f ∈ fs, ∀ g ∈ fs, apart f 65536 (fa g) 8) →
    ∃ t, exec i s = .next t ∧ (t.core die core).frames = k.frames ++ fs ∧ (t.core die core).refill = false ∧
      ∀ f ∈ fs, loadN t.mem (fa f) 8 = 3 * 2 ^ 30 ∧ ∀ n < 65536, t.byte (f + n) = 0) ∧
  (k.retryAt = none → nothing (.refillRetry die core) s) ∧
  (∀ n, k.retryAt = some n → (s.cycle < n → nothing (.refillRetry die core) s) ∧
    (n ≤ s.cycle → posts (.refillRetry die core))) ∧
  (k.deferAt = none ∨ k.refill → nothing (.refillDeferred die core) s) ∧
  (∀ n, k.deferAt = some n → k.refill = false → (s.cycle < n → nothing (.refillDeferred die core) s) ∧
    (n ≤ s.cycle → posts (.refillDeferred die core)))

/-! ## The events of the memory side -/

/-! ## Waits that end, and what is lost -/

/-- t is s after an event has ended the wait of a slot (R96, R162, R307): the slot goes on at the next word, the scalars
named have their values, and everything else of its group's registers, every other group and memory is as before. -/
structure WaitEnded (g : GId) (sl : SlotId) (s t : State) (ws : List (Nat × W64)) : Prop where
  slot : (t.grp g).b.slot sl = { (s.grp g).b.slot sl with
    pc := ((s.grp g).b.slot sl).pc + 4, wait := .none, waited := 0, until_ := none, al := none, pend := [], redo := none }
  other : (t.grp g).b.slot (otherSlot sl) = (s.grp g).b.slot (otherSlot sl)
  keeps : (s.grp g).b.Keeps (t.grp g).b (ws.map (·.1)) [] [] []
  vals : ∀ e ∈ ws, e.1 ≠ 0 → (t.grp g).b.getS e.1 = e.2
  others : ∀ h, h ≠ g → t.grp? h = s.grp? h
  mem : t.mem = s.mem ∧ t.low = s.low

/-- MONITOR_WAKE, WAITC_POLL, WAITC_REMOTE_POLL and WAITC_TIMEOUT (R161 to R165, R307): a wake ends the wait of its slot with
the value that satisfied the monitor, is kept for a WAITC that is to be issued again, and is dropped when the slot waits no
longer. A waiter without a monitor reads the
element again after 2,048 cycles: an element that meets the condition ends the wait; else a monitor is armed if the home
slice has one free, and otherwise, or beyond the package, the waiter waits as long again. At the deadline a wake on its
way ends the wait as met; otherwise it expires with the element and 0, and its monitor is freed. That a waiter without a monitor
expires even with an element that meets the condition is the model's choice (log entry 57). -/
def waitsEnd : Prop := ∀ (g : GId) (sl : SlotId) (s : State),
  let x := (s.grp g).b.slot sl
  let q := s.reqOf g
  let isMine (w : Wake) : Bool := w.g == g && w.sl == sl
  let wake : Instr := .monitorWake g sl
  let poll : Instr := .waitcPoll g sl
  let far : Instr := .waitcRemotePoll g sl
  let late : Instr := .waitcTimeout g sl
  (s.wakes.find? isMine = none → nothing wake s) ∧
  (∀ w, s.wakes.find? isMine = some w →
    ((∀ pa k v d dl nx ar re, x.wait ≠ .cond pa k v d dl nx ar re) → x.wait ≠ .none ∨ x.pend = [] →
      exec wake s = .next { s with wakes := s.wakes.erase w }) ∧
    (x.wait = .none → x.pend ≠ [] → nothing wake s) ∧
    (∀ pa k v d dl nx ar re, x.wait = .cond pa k v d dl nx ar re → ∃ t, exec wake s = .next t ∧
      WaitEnded g sl s t [(d, w.v), (d + 1, 1)] ∧ t.wakes = s.wakes.erase w)) ∧
  ((∀ pa k v d dl nx, x.wait ≠ .cond pa k v d dl nx false false) → nothing poll s) ∧
  (∀ pa k v d dl nx, x.wait = .cond pa k v d dl nx false false →
    let e := BitVec.ofNat 64 (loadN s.mem pa 8)
    let busy := s.monitors.filter fun m =>
      s.homeDie (s.ownerOf m.pa) m.pa == s.homeDie q.part pa && sliceOf m.pa == sliceOf pa
    let on (armed : Bool) : State :=
      s.modSlot g sl fun y => { y with wait := .cond pa k v d dl (s.cycle + 2048) armed false }
    (s.cycle < nx → nothing poll s) ∧
    (nx ≤ s.cycle → s.Serves q.part pa →
      (meets k e v → ∃ u t, CachesOnly s u ∧ exec poll s = .next t ∧ WaitEnded g sl u t [(d, e), (d + 1, 1)]) ∧
      (¬ meets k e v → busy.length < 64 → ∃ u, exec poll s = .next u ∧
        CachesOnly { on true with monitors := s.monitors ++ [{ pa := pa, c := k, v := v, g := g, sl := sl }] } u) ∧
      (¬ meets k e v → 64 ≤ busy.length → ∃ u, exec poll s = .next u ∧ CachesOnly (on false) u))) ∧
  ((∀ pa k v d dl nx, x.wait ≠ .cond pa k v d dl nx false true) → nothing far s) ∧
  (∀ pa k v d dl nx, x.wait = .cond pa k v d dl nx false true →
    let u := s.remoteFlush g (remoteDest pa)
    let e := BitVec.ofNat 64 (loadN u.low pa 8)
    (s.cycle < nx → nothing far s) ∧
    (nx ≤ s.cycle → isRemote pa → s.reach q.part pa →
      (meets k e v → ∃ t, exec far s = .next t ∧ WaitEnded g sl u t [(d, e), (d + 1, 1)]) ∧
      (¬ meets k e v → exec far s = .next (u.modSlot g sl fun y =>
        { y with wait := .cond pa k v d dl (s.cycle + 2048) false true })))) ∧
  ((∀ pa k v d lim nx ar re, x.wait ≠ .cond pa k v d (some lim) nx ar re) → nothing late s) ∧
  (∀ pa k v d lim nx ar re, x.wait = .cond pa k v d (some lim) nx ar re →
    let freed (t : State) : Prop := (∀ m ∈ t.monitors, ¬ (m.g = g ∧ m.sl = sl)) ∧ ∀ w ∈ t.wakes, ¬ (w.g = g ∧ w.sl = sl)
    (s.cycle < lim → nothing late s) ∧
    (lim ≤ s.cycle →
      (∀ w, s.wakes.find? isMine = some w → ∃ t, exec late s = .next t ∧
        WaitEnded g sl s t [(d, w.v), (d + 1, 1)] ∧ freed t) ∧
      (s.wakes.find? isMine = none → isRemote pa = false → s.Serves q.part pa → ∃ u t,
        CachesOnly (s.cancelMonitors g (some sl)) u ∧ exec late s = .next t ∧ freed t ∧
          WaitEnded g sl u t [(d, BitVec.ofNat 64 (loadN s.mem pa 8)), (d + 1, 0)]) ∧
      (s.wakes.find? isMine = none → isRemote pa → s.reach q.part pa → ∃ t,
        let u := s.remoteFlush g (remoteDest pa)
        exec late s = .next t ∧ freed t ∧
          WaitEnded g sl u t [(d, BitVec.ofNat 64 (loadN u.low pa 8)), (d + 1, 0)])))

/-- STACK_SPILL and STACK_FILL (R176 to R178) where the core's TLB holds the pages and their lines are served: above 96
entries, or when a push waits, the oldest go to memory, one after the other, until 64 remain; below 16, or when a pop
waits, the youngest in memory come back until 48 are held or none are left. That the work rests while the group is stopped, and that
nothing is spilled and 48 come back while an EXIT waits for the entries that it has to leave, is the model's choice (log entry 12), as
is what an entry of kind 2 or 3 reads as (log entry 25). -/
def stackMoves : Prop := ∀ (g : GId) (s : State) (pa : Nat → Nat),
  let r := s.grp g
  let b := r.b
  let q := s.reqOf g
  let len := b.stk.length
  let live : Prop := r.ahead = none ∧ r.stkFault = none ∧ (r.run = .running ∨ r.run = .stopping) ∧ (isHdl g ∨ (s.block (bidOf g)).at?.isSome)
  let waitsFill : Prop := (∃ n, b.slotA.wait = .fill n) ∨ ∃ n, b.slotB.wait = .fill n
  let spill : Prop := live ∧ ¬ waitsFill ∧ (96 < len ∨ ((b.slotA.wait = .spill ∨ b.slotB.wait = .spill) ∧ 64 < len))
  let fill : Prop := live ∧ 0 < b.spilled ∧ (len < 16 ∨ waitsFill)
  let va (k : Nat) : Nat := (b.stkbase.toNat + 16 * k) % 2 ^ 64
  (¬ spill → nothing (.stackSpill g) s) ∧
  (spill → (∀ j < len - 64, tlbHolds q s (va (b.spilled + j)) .write (pa j) ∧
      ∀ k, k = pa j ∨ k = pa j + 8 → s.Serves q.part k ∧ s.Unwatched k 8) →
    let put (m : SMap Byte) (j : Nat) : SMap Byte :=
      let e := b.stk.getD (len - 1 - j) default
      storeN (storeN m (pa j) (e.pc.toNat / 4 % 2 ^ 55 * 4 + if e.pending then 2 ^ 62 else 0) 8) (pa j + 8) e.lanes.toNat 8
    ∃ u, CachesOnly { s with mem := (List.range (len - 64)).foldl put s.mem } u ∧
      exec (.stackSpill g) s = .next (u.modBank g fun b =>
        { b with stk := b.stk.take 64, spilled := b.spilled + (len - 64) })) ∧
  (¬ fill → nothing (.stackFill g) s) ∧
  (∀ n, fill → (waitsFill → n = min 48 b.spilled) → (¬ waitsFill → n = min (48 - len) b.spilled) → (∀ j < n, tlbHolds q s (va (b.spilled - 1 - j)) .read (pa j) ∧
      s.Serves q.part (pa j) ∧ s.Serves q.part (pa j + 8)) →
    ∃ u, CachesOnly s u ∧ exec (.stackFill g) s = .next (u.modBank g fun b =>
      { b with
        stk := b.stk ++ (List.range n).map fun j =>
          let w := loadN s.mem (pa j) 8
          { pending := decide (w / 2 ^ 62 = 1), pc := canon (w / 4 % 2 ^ 55 * 4)
            lanes := BitVec.ofNat 64 (loadN s.mem (pa j + 8) 8) }
        spilled := b.spilled - n }))

/-! ## Issue, and the entry of the handler -/

/-- A slot of a quadrant is a candidate for its issue slot (R340). -/
def candidate (s : State) (d k q : Nat) (g : GId) (sl : SlotId) : Prop :=
  isHdl g = false ∧ (s.block (bidOf g)).place = .core d k ∧ (∃ r, s.grp? g = some r ∧ r.quad = q) ∧ s.eligible g sl

/-- The wait count of a slot. -/
def waitCount (s : State) (g : GId) (sl : SlotId) : Nat := ((s.grp g).b.slot sl).waited

/-- A slot's place in the round-robin, from the one after the slot that issued last (R340). -/
def roundPlace (s : State) (d k q : Nat) (g : GId) (sl : SlotId) : Nat :=
  (2 * (s.grp g).rslot + (if sl = .a then 0 else 1) + 15 - (s.quad d k q).last % 16) % 16

/-- RUN_ISSUE (R340, R342): a run in progress keeps the issue slot. A free one goes to the handler at work when it can issue;
else to the candidate that the rules name: one of the largest wait count when that is 2 or more, else slot A or B of the
holder of the token, else one of the largest wait count, and among equals the first in the round-robin. The wait counts of
the other candidates rise by one; with no candidate nothing happens. A run that an interlock stalls keeps the issue slot: it goes
on once the other slot's results are written, and until then only that slot issues. The handler's runs count in no wait count, and
the count of a slot of the quadrant that is no candidate starts anew. A running slot that waits for nothing is eligible, one parked
at a JOIN, at a barrier or in WAITC is not, nor is one whose other slot's translation checks are not done (R90). -/
def runsAreIssued : Prop := ∀ (d k q : Nat) (s : State),
  let i : Instr := .runIssue d k q
  let h : GId := .hdl d k q
  let qd := s.quad d k q
  let cand := candidate s d k q
  let w := waitCount s
  let turn := 4 * (256 * d + k) + q
  let long : Prop := ∃ g sl, cand g sl ∧ 2 ≤ w g sl
  let held (g : GId) : Prop := qd.prio = some g
  let here (g : GId) : Prop := isHdl g = false ∧ (s.block (bidOf g)).place = .core d k ∧ ∃ r, s.grp? g = some r ∧ r.quad = q
  let counted (t : State) (g : GId) : Prop := ∀ r, s.grp? g = some r → ∃ m n, t.grp? g = some { r with
    b := (r.b.modSlot .a fun x => { x with waited := m }).modSlot .b fun x => { x with waited := n } }
  let anew (t : State) : Prop := ∀ g sl, here g → ¬ cand g sl → waitCount t g sl = 0
  (qd.cur.isSome → exec i s = .next { s with cur := some (d, k, q), turn := turn }) ∧
  (∀ g sl n, qd.cur = none → qd.held = some (g, sl, n) → (s.grp g).run = .running → ((s.grp g).b.slot sl).lanes ≠ 0 →
    ((s.grp g).b.slot sl).wait = .interlock →
    (s.eligible g sl → ∃ t, exec i s = .next t ∧ (t.quad d k q).cur = some (g, sl, n) ∧ (t.quad d k q).held = none) ∧
    (s.eligible g sl = false → s.eligible g (otherSlot sl) → ∃ t, exec i s = .next t ∧
      (t.quad d k q).cur = some (g, otherSlot sl, 0) ∧ (t.quad d k q).held = some (g, sl, n)) ∧
    (s.eligible g sl = false → s.eligible g (otherSlot sl) = false → nothing i s)) ∧
  (qd.cur = none → qd.held = none → qd.active → s.eligible h .a → (s.groups.map (·.1)).Nodup → ∃ t, exec i s = .next t ∧
    (t.quad d k q).cur = some (h, .a, 0) ∧ t.cur = some (d, k, q) ∧ t.mem = s.mem ∧
    (∀ g sl, cand g sl → waitCount t g sl = w g sl) ∧ anew t ∧ (∀ g, g ≠ h → counted t g) ∧
    ∀ g, g ≠ h → ¬ here g → t.grp? g = s.grp? g) ∧
  (qd.cur = none → qd.held = none → qd.active = false → (s.groups.map (·.1)).Nodup → (∀ g sl, cand g sl → (s.grp g).rslot < 8) →
    ((∀ g sl, ¬ cand g sl) → nothing i s) ∧
    ((∃ g sl, cand g sl) → ∃ g sl t, cand g sl ∧ exec i s = .next t ∧ t.cur = some (d, k, q) ∧ t.mem = s.mem ∧
      (t.quad d k q).cur = some (g, sl, 0) ∧ waitCount t g sl = 0 ∧ ((t.grp g).b.slot sl).wait = .none ∧
      (∀ g' sl', cand g' sl' → (g', sl') ≠ (g, sl) → waitCount t g' sl' = w g' sl' + 1) ∧
      anew t ∧ (∀ g', g' ≠ g → counted t g') ∧ (∀ g', ¬ here g' → t.grp? g' = s.grp? g') ∧
      (¬ long → ∀ g' sl', cand g' sl' → held g' → held g ∧ (cand g .a → sl = .a)) ∧
      (long ∨ (∀ g' sl', cand g' sl' → ¬ held g') → ∀ g' sl', cand g' sl' → w g' sl' ≤ w g sl ∧
        (w g' sl' = w g sl → roundPlace s d k q g sl ≤ roundPlace s d k q g' sl')))) ∧
  (∀ g sl r, s.grp? g = some r → r.ahead = none →
    (r.run = .running → (r.b.slot sl).lanes ≠ 0 → (r.b.slot sl).wait = .none → (r.b.slot (otherSlot sl)).wait = .none →
      s.eligible g sl) ∧
    (r.run ≠ .running ∨ (r.b.slot sl).lanes = 0 → s.eligible g sl = false) ∧
    ((r.b.slot sl).wait = .join ∨ (∃ x n e, (r.b.slot sl).wait = .barrier x n e) ∨
      (∃ a c v e dl nx ar re, (r.b.slot sl).wait = .cond a c v e dl nx ar re) → s.eligible g sl = false) ∧
    ((r.b.slot (otherSlot sl)).lanes ≠ 0 → ((∃ pg, (r.b.slot (otherSlot sl)).wait = .ats pg) ∨
      (r.b.slot (otherSlot sl)).wait = .walked) → s.eligible g sl = false))

/-- A context descriptor is usable (R79): valid, with its reserved fields zero. -/
def usableCtx (d : Nat → Nat) : Prop :=
  d 0 % 2 ^ 8 = 1 ∧ d 0 < 2 ^ 52 ∧ d 1 < 2 ^ 60 ∧ d 1 / 2 ^ 16 % 2 ^ 23 = 0 ∧ d 2 = 0 ∧ d 3 = 0

/-- HANDLER_ENTRY and HANDLER_ABANDON (R374, R375, R377). Before its cycle nothing enters. A partition's own handler then starts
at its entry address with all lanes, in the context that its descriptor names; its empty slot B and empty stack, and the context of
one whose descriptor is unusable, are the model's choice (log entry 38). The default handler serves the first group at once, which
is the model's reading (log entry 31): ABORT at a CWAIT gives all ones and goes on at epc + 4; BRK parks the group on a notice;
ABORT elsewhere kills the gang with a relaunch, and every other class without. A handler at work on a core that a pre-emption other
than its own CKPT's has waited for 65,536 cycles is abandoned; its group stays stopped, and queues for the handler again unless its
own unit is pre-empted. Stated where the handler holds no issue-priority token and waits for no pre-emption. -/
def handlersEnter : Prop := ∀ (d k q key flat j : Nat) (rest : List GId) (r : Grp) (l : Launch) (s : State),
  let i : Instr := .handlerEntry d k q
  let g : GId := .grp key flat j
  let hg : GId := .hdl d k q
  let qd := s.quad d k q
  let own := s.part (s.partOfDie d)
  let h := own.handler
  let ctx (n : Nat) : Nat := loadN s.mem (own.ctxTable + 32 * h.ctxNo + 8 * n) 8
  let cls := r.ecause.toNat % 256
  let p := s.part (s.reqOf g).part
  let left (t : State) : Prop := (t.quad d k q).traps = rest ∧ (t.quad d k q).active = false ∧
    (t.quad d k q).entry = if rest = [] then none else some (s.cycle + 40)
  let unit := l.unitOf flat
  let due : Prop := ∃ p ∈ s.pends, p.since + 65536 ≤ s.cycle ∧ p.by_ ≠ some hg ∧
    ∃ f ∈ (s.launch p.launch).blocksOf p.unit, (s.block ⟨p.launch, f⟩).place = .core d k
  let goes : Prop := ∃ p ∈ s.pends, p.launch = key ∧ p.unit = unit
  (qd.entry = none ∨ qd.traps = [] ∨ (∃ n, qd.entry = some n ∧ s.cycle < n) → nothing i s) ∧
  (qd.traps = [] ∨ qd.active = false ∨ ¬ due → nothing (.handlerAbandon d k q) s) ∧
  (qd.traps = g :: rest → s.grp? g = some r → r.run = .trapped → s.launch? key = some l → qd.prio ≠ some hg →
      (∀ p ∈ s.pends, p.by_ ≠ some hg) →
    (∀ n, qd.entry = some n → n ≤ s.cycle →
      (h.custom → (∀ n < 4, s.Serves (s.partOfDie d) (own.ctxTable + 32 * h.ctxNo + 8 * n)) →
        ∃ t b, exec i s = .next t ∧ t.grp? hg = some b ∧ b.run = .running ∧ b.b.stk = [] ∧ b.b.stkbase = h.stack ∧
        b.b.slotA = { pc := h.entry, lanes := BitVec.allOnes 64 } ∧ b.b.slotB = {} ∧ (s.grp? hg = none → b.priv) ∧
        (usableCtx ctx → (t.part (s.partOfDie d)).handler = { h with
          root := ctx 0 / 2 ^ 8 % 2 ^ 44 * 256, pasid := ctx 1 / 2 ^ 40 % 2 ^ 20, hosten := (ctx 1).testBit 39
          asid := ctx 1 % 2 ^ 16 }) ∧
        (¬ usableCtx ctx → (t.part (s.partOfDie d)).handler = h) ∧
        (t.quad d k q).traps = g :: rest ∧ (t.quad d k q).active ∧ (t.quad d k q).entry = none ∧
        (∀ x, x ≠ hg → t.grp? x = s.grp? x) ∧ t.mem = s.mem) ∧
      (h.custom = false → ∃ t, exec i s = .next t ∧
        (cls = 11 → ∀ x, r.cwd = some x → left t ∧ t.mem = s.mem ∧ t.grp? g = some (resumed { r with
          b := r.b.setS x (BitVec.allOnes 64), epc := r.epc + 4, cwd := none })) ∧
        (cls = 14 → left t ∧ t.grp? g = some { r with run := .brk p.nextRid } ∧
          (p.tqWait = [] → p.tq.length < 254 → ∃ e ∈ (t.part (s.reqOf g).part).tq, e.2.rid = p.nextRid ∧
            e.2.cls = .brk ∧ e.2.kind = .notice ∧ e.2.owner = .brk g ∧ e.2.epc = r.epc)) ∧
        (cls = 11 → r.cwd = none → l.ended = none → gangKilled s t key flat l 11 1) ∧
        (cls ≠ 11 → cls ≠ 14 → l.ended = none → gangKilled s t key flat l cls 0))) ∧
    (qd.active → due → ∃ t, exec (.handlerAbandon d k q) s = .next t ∧ t.mem = s.mem ∧ (goes → left t) ∧
      (¬ goes → s.whereIs g = (d, k, q) → g ∉ rest → (t.quad d k q).traps = rest ++ [g] ∧ (t.quad d k q).active = false ∧
        (t.quad d k q).entry = some (s.cycle + 40)) ∧
      ((s.grp? hg).isSome → (t.grp hg).run = .idle) ∧ ∀ x, x ≠ hg → t.grp? x = s.grp? x))

/-! ## Launches and their units -/

/-- Bits lo to lo + k - 1 of doubleword n of a launch record. -/
def fieldOf (l : Launch) (n lo k : Nat) : Nat := (l.record.getD n 0).toNat / 2 ^ lo % 2 ^ k

/-- The reserved fields of a record are zero, its grade is not 3, and its fields lie in their ranges (R317). -/
def inRange317 (l : Launch) : Prop :=
  let w (n : Nat) : Nat := (l.record.getD n 0).toNat
  let f := fieldOf l
  let levels := f 5 0 4
  let gang : Prop := ∃ n, 2 ≤ n ∧ n < levels ∧ f 7 (8 * (n - 2)) 2 = 1
  let address (n m : Nat) : Prop := canonical (w n) ∧ w n % m = 0
  address 0 256 ∧ address 1 4 ∧ w 3 % 64 = 0 ∧
  f 5 52 12 = 0 ∧ f 5 36 4 = 0 ∧ f 5 30 2 ≠ 3 ∧ f 5 24 6 = 0 ∧ f 5 4 12 = 0 ∧ 2 ≤ levels ∧ levels ≤ 8 ∧
  f 6 45 19 = 0 ∧ f 6 40 5 ≤ 16 ∧ f 6 38 2 = 0 ∧ 1 ≤ f 6 32 6 ∧ f 6 32 6 ≤ 32 ∧ f 6 28 4 = 0 ∧
  (gang → 1 ≤ f 6 24 4 ∧ f 6 24 4 ≤ 8) ∧ (¬ gang → f 6 24 4 = 0) ∧ f 6 20 4 = 0 ∧
  f 6 0 20 % 256 = 0 ∧ f 6 0 20 ≤ 720896 ∧
  f 7 48 16 = 0 ∧ (∀ n, 2 ≤ n → n < 8 → let o := 8 * (n - 2)
    (n < levels → 1 ≤ f 7 (o + 5) 3 ∧ f 7 (o + 5) 3 ≤ 6 ∧ f 7 (o + 2) 3 = 0) ∧ (levels ≤ n → f 7 o 8 = 0)) ∧
  f 11 32 32 = 0 ∧ address 12 64 ∧ f 13 32 32 = 0 ∧ f 13 0 32 % 64 = 0 ∧
  (∀ n, 14 ≤ n → n < 22 → w n = 0 ∨ alValid (l.record.getD n 0)) ∧ ∀ n, 22 ≤ n → n < 32 → w n = 0

/-- The bound levels keep the rules of R318. -/
def levels318 (l : Launch) : Prop :=
  let f := fieldOf l
  let levels := f 5 0 4
  let bound (n : Nat) : Prop := 2 ≤ n ∧ n < levels
  let domain (n : Nat) : Nat := f 7 (8 * (n - 2)) 2
  let scope (n : Nat) : Nat := f 7 (8 * (n - 2) + 5) 3
  let ext (n : Nat) : Nat := f (8 + (n - 1) / 2) (32 * ((n - 1) % 2)) 32
  (3 ≤ levels → domain 2 = 0 ∧ 1 ≤ ext 1 ∧ ext 1 ≤ 16) ∧
  (∀ n, bound n → bound (n + 1) → domain n ≤ domain (n + 1)) ∧
  (∀ n m, bound n → bound m → domain n = domain m → domain n < 2 → n = m) ∧
  (∀ n, bound n → domain n = 1 → n = 3 ∧ 1 ≤ ext 2 ∧ ext 2 ≤ 8 ∧ ext 2 % f 6 24 4 = 0) ∧
  (∀ n, bound n → domain n + 1 ≤ scope n ∧ scope n ≤ 6) ∧
  (∀ n, 1 ≤ n → n < levels → 1 ≤ ext n) ∧
  64 * ((List.range (levels - 1)).map fun i => ext (i + 1)).foldl (· * ·) 1 ≤ 2 ^ 40

/-- The reason for which a record is refused, or 0 (R319); p is the priority of the launch that posted it. That a scope code of 0 or
7 is out of its range, and that a record of reason 5, which fails R170 on an empty core too, has reason 4, is the model's reading
(log entry 33). -/
noncomputable def refusal319 (l : Launch) (usable : Prop) (p : Option Nat) : Nat :=
  open Classical in
  if ¬ inRange317 l then 1 else if ¬ usable then 2 else if ¬ levels318 l then 3 else if ¬ l.fitsSomewhere then 4
  else if l.pre ∧ 360448 < l.scratch then 5
  else if ∃ n, p = some n ∧ n < l.prio then 6 else 0

/-- LAUNCH_RECORD_START (R79, R317 to R321, R395, R422): while a partition is halted, its hub or a die is not ready, 256 of its
launches run, or no record waits, nothing happens. A record alone at the head of the device queue, or of a host queue whose
ring holds it, is taken; refused, its launch is ended with status 2 and the lowest reason; otherwise the launch runs with
its descriptor's root, pasid, hosten and asid, led by the first die. A record from a host queue takes the next launch
identifier. (Ticketed and plain launches; a token launch also reads its shared range, R359.) -/
def launchesStart : Prop := ∀ (part : Nat) (s : State),
  let i : Instr := .launchRecordStart part
  let p := s.part part
  let running := s.launches.filter fun e => e.2.part == part && e.2.ended.isNone
  let may : Prop := p.halted = false ∧ s.ready.getLsbD 1 ∧ p.dies ≠ [] ∧ (∀ d ∈ p.dies, s.ready.toNat.testBit (2 + d)) ∧
    running.length < 256
  let quiet (q : Nat) : Prop := (mget {} p.lq q).head = (mget {} p.lq q).tail
  let ctx (l : Launch) (k : Nat) : Nat := loadN s.mem (p.ctxTable + 32 * l.ctxNo + 8 * k) 8
  let served (l : Launch) : Prop := ∀ k < 4, s.Serves part (p.ctxTable + 32 * l.ctxNo + 8 * k)
  let started (l : Launch) : Launch := { l with
    root := ctx l 0 / 2 ^ 8 % 2 ^ 44 * 256
    pasid := ctx l 1 / 2 ^ 40 % 2 ^ 20
    hosten := (ctx l 1).testBit 39
    asid := ctx l 1 % 2 ^ 16
    leader := p.dies.headD 0 }
  (¬ may → nothing i s) ∧
  ((∀ q < 16, quiet q) → p.devq = [] → nothing i s) ∧
  (may → (∀ q < 16, quiet q) → ∀ d rest, p.devq = d :: rest → let l : Launch := { part := part, id := d.id, record := d.record }
    l.grade ≠ 2 → served l →
      (refusal319 l (usableCtx (ctx l)) (some d.prio) = 0 → ∃ u, CachesOnly s u ∧ exec i s = .next
        { u.modPart part fun p => { p with devq := rest, rr := 16 } with
          launches := aput (8 * d.id + part) (started l) s.launches }) ∧
      (refusal319 l (usableCtx (ctx l)) (some d.prio) ≠ 0 → ∃ t l', exec i s = .next t ∧ (t.part part).devq = rest ∧
        t.launch? (8 * d.id + part) = some l' ∧ l'.id = d.id ∧ l'.held = [] ∧
        l'.ended = some { status := 2, reason := refusal319 l (usableCtx (ctx l)) (some d.prio) })) ∧
  (may → p.devq = [] → ∀ q < 16, (∀ q' < 16, q' ≠ q → quiet q') → let x := mget {} p.lq q
    let ring := x.base.toNat + 256 * (x.head.toNat % x.size.toNat)
    let l : Launch := { part := part, id := p.nextLaunch
                        record := (List.range 32).map fun k => BitVec.ofNat 64 (loadN s.mem (ring + 8 * k) 8) }
    ¬ quiet q → x.size ≠ 0 → (∀ k < 32, s.Serves part (ring + 8 * k)) → l.grade ≠ 2 → served l →
    refusal319 l (usableCtx (ctx l)) none = 0 → ∃ u, CachesOnly s u ∧ exec i s = .next
      { (u.modPart part fun p => { p with
            lq := mset {} p.lq q { x with head := BitVec.ofNat 64 ((x.head.toNat + 1) % x.size.toNat) }, rr := q }).modPart part
          fun p => { p with nextLaunch := p.nextLaunch + 1 } with
        launches := aput (8 * p.nextLaunch + part) (started l) s.launches })

/-- DISPATCH_RANGE_HANDOUT, DISPATCH_RANGE_SPLIT and LEADER_ELECTION (R324, R326, R331): a ready die with room gets up to 16 of
the units that follow the counter, or a whole unit of the lowest die-bound level, lost units coming first; the leader takes
the last n units not yet begun from one die to another that has room; and when a die is lost its units not yet begun are handed
out again in ascending order with those that it held, which are killed and relaunched, and the first ready die leads. -/
def rangesAreHandedOut : Prop := ∀ (k die dst n : Nat) (l : Launch) (s : State), s.launch? k = some l →
  let hand : Instr := .dispatchRangeHandout k die
  let split : Instr := .dispatchRangeSplit k die dst n
  let elect : Instr := .leaderElection k die
  let open_ (d : Nat) : Prop := l.ended = none ∧ d ∈ (s.part l.part).dies ∧ s.ready.toNat.testBit (2 + d) ∧ d ∉ s.fencing
  let u := l.lost.headD l.counter
  let many := if l.dieUnits = 0 then 16 else l.dieUnits
  let fresh : Prop := ∀ e ∈ l.handed ++ l.held, e.1 ≠ u ∧ (l.dieUnits ≠ 0 → e.1 / l.dieUnits ≠ u / l.dieUnits)
  let mine := (l.handed.filter fun e => e.2 == die).map (·.1)
  let last := mine.drop (mine.length - n)
  (¬ open_ die ∨ (s.roomFor k u die).isNone ∨ (l.lost = [] ∧ l.units ≤ l.counter) → nothing hand s) ∧
  (open_ die → (s.roomFor k u die).isSome → fresh →
    (l.lost = [] → l.counter < l.units → exec hand s = .next (s.modLaunch k fun l => { l with
      counter := l.counter + min many (l.units - l.counter)
      handed := l.handed ++ (List.range (min many (l.units - l.counter))).map fun j => (l.counter + j, die) })) ∧
    (l.lost ≠ [] → l.dieUnits = 0 → exec hand s = .next (s.modLaunch k fun l => { l with
      lost := l.lost.filter fun v => decide (v ∉ l.lost.take 16)
      handed := l.handed ++ (l.lost.take 16).map fun v => (v, die) }))) ∧
  (¬ open_ dst ∨ last = [] ∨ dst = die ∨ s.roomFor k (last.headD 0) dst = none → nothing split s) ∧
  (open_ dst → last ≠ [] → dst ≠ die → l.dieUnits = 0 → (s.roomFor k (last.headD 0) dst).isSome →
    exec split s = .next (s.modLaunch k fun l => { l with
    handed := (l.handed.filter fun e => decide (e.1 ∉ last)) ++ last.map fun v => (v, dst) })) ∧
  (l.ended.isSome ∨ s.ready.toNat.testBit (2 + die) → nothing elect s) ∧
  (l.ended = none → s.ready.toNat.testBit (2 + die) = false → l.grade ≠ 2 →
    let lead := ((s.part l.part).dies.find? fun d => s.ready.toNat.testBit (2 + d)).getD l.leader
    let there := l.held.filter fun e => e.2 == die
    (there = [] → ∃ t, exec elect s = .next t ∧ (t.launch k).leader = (if l.leader = die then lead else l.leader) ∧
      (t.launch k).handed = l.handed.filter (fun e => e.2 != die) ∧ (t.launch k).lost.Pairwise (· ≤ ·) ∧
      (∀ v, v ∈ (t.launch k).lost ↔ v ∈ l.lost ∨ v ∈ mine) ∧ t.mem = s.mem ∧ ∀ g, t.grp? g = s.grp? g) ∧
    (∀ v, there = [(v, die)] → 0 < l.gangSize → ∃ t, exec elect s = .next t ∧ (t.launch k).relaunches = l.relaunches + 1 ∧
      (l.relaunches + 1 ≤ l.rlim → (t.launch k).ended = none ∧ (t.launch k).lost.Pairwise (· ≤ ·) ∧
        (∀ w, w ∈ (t.launch k).lost ↔ w ∈ l.lost ∨ w ∈ mine ∨ w = v) ∧ (t.launch k).held = l.held.filter (fun e => e.1 != v) ∧
        ∀ f ∈ l.blocksOf v, t.block? ⟨k, f⟩ = none ∧ ∀ j, t.grp? (.grp k f j) = none) ∧
      (l.rlim < l.relaunches + 1 → (t.launch k).ended = some { status := 3, reason := 11 })))

/-- STAGED_LIST_RELEASE (R349, R353, R354) where the lines are served and watched by no monitor: once the blocks of its unit have
exited, the list of the lowest block not yet released is performed in order, the block's list is empty, and the next block
whose unit has not retired is due; a posting joins the device queue, and waits while that is full. -/
def listsAreReleased : Prop := ∀ (k : Nat) (l : Launch) (s : State), s.launch? k = some l →
  let i : Instr := .stagedListRelease k
  let b : BId := ⟨k, l.miller⟩
  let due : Prop := l.grade = 1 ∧ l.ended = none ∧ l.miller < l.blocks ∧
    ∀ f ∈ l.blocksOf (l.unitOf l.miller), (s.block? ⟨k, f⟩).isSome ∧ (s.block ⟨k, f⟩).exited
  let next (u : State) : State := (u.modBlock b fun x => { x with staged := [], stagedBy := [] }).modLaunch k fun l =>
    { l with miller := l.toRelease (l.miller + 1) }
  let put (m : SMap Byte) : Staged → SMap Byte
    | .store pa n v _ => storeN m pa v.toNat n
    | .red op pa n v => storeN m pa (newElement op (8 * n) (loadN m pa n) v.toNat) n
    | .launch _ _ => m
  let fine : Staged → Prop
    | .store pa n _ repl => repl = false ∧ s.Serves l.part pa ∧ s.Unwatched pa n
    | .red _ pa n _ => s.Serves l.part pa ∧ s.Unwatched pa n
    | .launch _ _ => False
  (¬ due → nothing i s) ∧
  (0 < l.gangSize → ∀ n, let m := l.toRelease n
    n ≤ m ∧ l.unitOf m ∉ l.retired ∧ ∀ j, n ≤ j → j < m → l.unitOf j ∈ l.retired) ∧
  (due → (∀ x ∈ (s.block b).staged, fine x) → ∃ u,
    CachesOnly { s with mem := (s.block b).staged.foldl put s.mem } u ∧ exec i s = .next (next u)) ∧
  (due → ∀ id r, (s.block b).staged = [.launch id r] →
    ((s.part l.part).devq.length < 256 → exec i s = .next (next (s.modPart l.part fun p =>
      { p with devq := p.devq ++ [{ id := id, prio := l.prio, record := r }] }))) ∧
    (256 ≤ (s.part l.part).devq.length → nothing i s))

/-- The completion record (R320), written once no access of the launch is on its way beyond the package: where the hub translates
done in the launch's context to a page in the package whose lines are served, doublewords 0 to 7 hold status, disc and reason,
the identifier, the units retired, the relaunches, and zero, and every other byte is as before. -/
def endsAreReported : Prop := ∀ (k pa : Nat) (l : Launch) (e : Ended) (s u : State),
  let done := (l.record.getD 3 0).toNat
  let t := s.writeCompletion k
  s.launch? k = some l → l.ended = some e → l.noctx = false → l.reported = false → l.hubRec = none →
    (∀ r ∈ s.remote, isHdl r.g ∨ (bidOf r.g).launch ≠ k) →
    (done = 0 → t = s.modLaunch k fun l => { l with reported := true }) ∧
    (done ≠ 0 → s.hubTranslate (l.req k) done .write = .ok pa false u →
      (∀ n < 8, u.Serves l.part (pa + 8 * n) ∧ u.Unwatched (pa + 8 * n) 8) →
      (t.launch k).reported ∧ (∀ n < 8, loadN t.mem (pa + 8 * n) 8 = ([e.status + (if l.disc then 256 else 0) + e.reason * 2 ^ 16,
        l.id, l.retired.length, l.relaunches].getD n 0) % 2 ^ 64) ∧
      ∀ a, a < pa ∨ pa + 64 ≤ a → t.byte a = u.byte a)

/-! ## The register blocks -/

/-- How far v lies ahead of an index h in a ring of n entries. -/
def ringAhead (n h v : Nat) : Nat := if h ≤ v then v - h else v + n - h

/-- A register block is accessed as R389 and R395 have it: a whole register of a partition that exists, of a module whose hub is
ready. -/
def regOk (a : RegAcc) (s : State) : Prop := a.width = 8 ∧ s.ready.getLsbD 1 ∧ (s.part a.part).dies ≠ []

/-- A write of a register block: an abort completion where the access is not as it must be, nothing by a party to which the
partition is not assigned (log entry 37), else p. -/
def written (i : Instr) (a : RegAcc) (s : State) (p : Prop) : Prop :=
  (¬ regOk a s → exec i s = .next { s with outbox := s.outbox ++ [.abort] }) ∧ (regOk a s → a.who = .other → nothing i s) ∧
    (regOk a s → a.who ≠ .other → p)

/-- LQTAIL_WRITE, SCHEAD_WRITE and SCTAG (R382, R389, R395): an access that is not of a whole register ends with an abort
completion; a tail or head more than the ring's size ahead is ignored; another is taken modulo the size. The first reply to a parked
call gives it SCREPLY, and its group resumes at the next word; a reply to no call has no effect. That tails and heads are taken
modulo the size is the model's choice (log entry 37). -/
def ringsAreWritten : Prop := ∀ (a : RegAcc) (q : Nat) (v : BitVec 64) (s : State),
  let part := a.part
  let p := s.part part
  let x := mget {} p.lq q
  let n := x.size.toNat
  let m := p.scsize.toNat
  let far : Prop := 16 ≤ q ∨ n = 0 ∨ n < ringAhead n (x.head.toNat % n) v.toNat
  let past : Prop := m = 0 ∨ m < ringAhead m (p.schead.toNat % m) v.toNat
  let calls (g : GId) (d : Nat) : Prop := ∃ r, s.grp? g = some r ∧ r.run = .syscall v.toNat d ∧ (s.reqOf g).part = part
  written (.lqtailWrite a q v) a s
    ((far → nothing (.lqtailWrite a q v) s) ∧
     (¬ far → exec (.lqtailWrite a q v) s = .next (s.modPart part fun p =>
       { p with lq := mset {} p.lq q { x with tail := BitVec.ofNat 64 (v.toNat % n) } }))) ∧
  written (.scheadWrite a v) a s
    ((past → nothing (.scheadWrite a v) s) ∧
     (¬ past → exec (.scheadWrite a v) s = .next (s.modPart part fun p =>
       { p with schead := BitVec.ofNat 64 (v.toNat % m) }))) ∧
  written (.sctag a v) a s ((s.groups.map (·.1)).Nodup →
    ((∀ g d, ¬ calls g d) → nothing (.sctag a v) s) ∧
    (∀ g d, calls g d → (∀ h e, calls h e → h = g) → ∃ t, exec (.sctag a v) s = .next t ∧
      t.grp? g = some (resumed { s.grp g with b := (s.grp g).b.setS d p.screply, epc := (s.grp g).epc + 4 }) ∧
      (∀ h, h ≠ g → t.grp? h = s.grp? h) ∧ t.mem = s.mem ∧
      (t.part part).calls = p.calls.filter (· != v.toNat)))

/-- TQPOPID, TQRES and TQABN (R373, R380, R389, R395), of whole registers: a pop writes the 512 bytes of the oldest unpopped
record to TQBUF and answers its id, or 0; a release of an outstanding id frees its record and what it parked, which resumes or
goes to the on-core handler, and TQRSLT says whether there was one for the host. That TQBUF is a physical address is the model's
reading, and that a write by another party is ignored its choice (log entries 53 and 37). A pop is stated where no record waits for
a slot. -/
def hostPopsAndReleases : Prop := ∀ (acc : RegAcc) (id : BitVec 64) (s : State),
  let part := acc.part
  let p := s.part part
  let a := p.tqbuf.toNat
  let pop : Instr := .tqpopid acc
  let free (resume : Bool) : Instr := if resume then .tqres acc id else .tqabn acc id
  let dropped (i : Instr) : Prop := exec i s = .next { s with outbox := s.outbox ++ [.abort] }
  (¬ regOk acc s → dropped pop ∧ ∀ resume, dropped (free resume)) ∧
  (regOk acc s → acc.who = .other → ∀ resume, nothing (free resume) s) ∧
  (regOk acc s → (p.oldest = none → exec pop s = .next { s with outbox := s.outbox ++ [.popId 0] }) ∧
  (∀ slot r, p.oldest = some (slot, r) →
    (s.reach part a = false → ∃ u, CachesOnly s u ∧ exec pop s = .next { u with outbox := s.outbox ++ [.abort] }) ∧
    (p.tqWait = [] → (∀ e ∈ p.tq, e.2.prg → e.2.asked) → (∀ k < 64, s.Serves part (a + 8 * k) ∧ s.Unwatched (a + 8 * k) 8) → ∃ u, CachesOnly { s with
        mem := (List.range 64).foldl (fun m k => storeN m (a + 8 * k) ((r.dws slot).getD k 0).toNat 8) s.mem } u ∧
      exec pop s = .next { u.modPart part fun p => p.popped slot r with
        outbox := s.outbox ++ [.popId (BitVec.ofNat 64 (r.rid * 256 + slot))] }))) ∧
  (regOk acc s → acc.who ≠ .other → (∀ resume, p.outstanding id = none →
    (acc.who = .host → exec (free resume) s = .next (s.modPart part fun p => { p with tqrslt := false })) ∧
    (acc.who = .chandler → nothing (free resume) s)) ∧
  (∀ resume r g x, p.outstanding id = some r → r.owner = .group g → s.grp? g = some x → x.run = .parked r.rid →
    isHdl g = false → r.prg = false → (s.block (bidOf g)).at?.isSome → (∀ sl n, (x.b.slot sl).wait ≠ .engine n) →
      ∃ t y, exec (free resume) s = .next t ∧ (acc.who = .host → (t.part part).tqrslt) ∧
        (∀ e ∈ (t.part part).tq, e.2.rid ≠ r.rid) ∧ t.grp? g = some y ∧
      (resume → y = resumed x) ∧ (resume = false → y.run = .trapped ∧ y.epc = x.epc ∧ y.b = x.b.cancel) ∧
      ∀ h, h ≠ g → t.grp? h = s.grp? h) ∧
  (∀ r g x, p.outstanding id = some r → r.owner = .group g → s.grp? g = some x → r.prg → ∃ t,
    exec (.tqres acc id) s = .next t ∧ (acc.who = .host → (t.part part).tqrslt) ∧ t.grp? g = some x ∧
      { r with popped := true } ∈ (t.part part).chandler))

/-- INVCTL_GO and REGISTER_WRITE (R389, R391). A write with go that finds an invalidation in progress, sets a reserved bit or asks
for a range whose length is no multiple of 64 KiB is ignored; another starts one, which is complete at once for a context under
which nothing can be held. A register takes a value in its range and keeps its value otherwise; LQBASE and LQSIZE take none while
records are posted; an access that is not a whole register ends with an abort completion. That a register keeps its value when
written out of range is the model's choice (log entry 37); that a bad length is ignored, and what is complete at once, are its
reading (log entry 42). -/
def registersAreWritten : Prop := ∀ (a : RegAcc) (off : Nat) (v : BitVec 64) (s : State),
  let part := a.part
  let p := s.part part
  let go : Instr := .invctlGo a v
  let write : Instr := .registerWrite a off v
  let kind := v.toNat % 4
  let ctx := v.toNat / 2 ^ 16 % 2 ^ 12
  let reserved : Prop := v.toNat / 2 ^ 28 % 2 ^ 35 ≠ 0 ∨ v.toNat / 2 ^ 2 % 2 ^ 14 ≠ 0
  let range : Prop := kind % 2 = 0
  let begun (ext : Extent) : Prop := ∃ t, exec go s = .next t ∧ (t.part part).invctl = v ∧ t.mem = s.mem ∧
    (t.part part).invs = p.invs ++ [{ id := s.seq, ext := ext, asker := .host }]
  let desc (n : Nat) : Nat := loadN s.mem (p.ctxTable + 32 * ctx + 8 * n) 8
  let asid := desc 1 % 2 ^ 16
  let pasid := desc 1 / 2 ^ 40 % 2 ^ 20
  let runs (e : Nat × Launch) : Prop := e.2.part = part ∧ e.2.ctxNo = ctx ∧ e.2.ended = none
  let one : Prop := (∀ n < 4, s.Serves part (p.ctxTable + 32 * ctx + 8 * n)) ∧
    ∀ e ∈ s.launches, runs e → e.2.asid = asid ∧ e.2.pasid = pasid
  let starts : Prop := v.getLsbD 63 ∧ p.invctl.getLsbD 63 = false ∧ ¬ reserved ∧ (range → p.invlen.toNat % 65536 = 0)
  let same (t : State) : Prop := ∀ q, { t.part q with lq := [] } = { s.part q with lq := [] } ∧
    ∀ k, mget {} (t.part q).lq k = mget {} (s.part q).lq k
  let takes (ok : Prop) (f : Part → Part) : Prop :=
    (ok → exec write s = .next (s.modPart part f)) ∧ (¬ ok → ∃ t, exec write s = .next t ∧ same t)
  let x (q : Nat) : LQ := mget {} p.lq q
  let size (lo hi : Nat) : Prop := ∃ k, lo ≤ k ∧ k ≤ hi ∧ v.toNat = 2 ^ k
  written go a s
    ((¬ starts → nothing go s) ∧
     (starts → kind = 3 → begun .all) ∧
     (starts → kind = 2 → begun (.ipa p.invstart.toNat p.invlen.toNat)) ∧
     (starts → kind = 1 → one → begun (.ctx asid pasid)) ∧
     (starts → kind = 0 → one → begun (.virt asid pasid (p.invstart.toNat % 2 ^ 57) p.invlen.toNat)) ∧
     (starts → kind < 2 → isRemote (p.ctxTable + 32 * ctx) → s.reach part (p.ctxTable + 32 * ctx) = false →
       (∀ e ∈ s.launches, ¬ runs e) → exec go s = .next (s.modPart part fun p => { p with
         invctl := BitVec.ofNat 64 (v.toNat % 2 ^ 63) }))) ∧
  (off % 8 ≠ 0 → exec write s = .next { s with outbox := s.outbox ++ [.abort] }) ∧
  (off % 8 = 0 → written write a s True) ∧
  (regOk a s → a.who ≠ .other →
  (∀ q < 16, off = 64 * q → takes ((x q).head = (x q).tail ∧ v.toNat % 256 = 0) fun p =>
    { p with lq := mset {} p.lq q { x q with base := v } }) ∧
  (∀ q < 16, off = 64 * q + 8 → takes ((x q).head = (x q).tail ∧ size 4 12) fun p =>
    { p with lq := mset {} p.lq q { x q with size := v } }) ∧
  (off = 0x400 → takes (v.toNat % 4096 = 0) fun p => { p with scbase := v }) ∧
  (off = 0x408 → takes (size 6 16) fun p => { p with scsize := v }) ∧
  (off = 0x420 → takes True fun p => { p with screply := v }) ∧
  (off = 0x800 → takes (v.toNat % 512 = 0) fun p => { p with tqbuf := v }) ∧
  (off = 0xC00 → takes True fun p => { p with invstart := v }) ∧
  (off = 0xC08 → takes (v.toNat % 65536 = 0) fun p => { p with invlen := v }) ∧
  (off = 0xC10 → takes (v.getLsbD 63 = false ∧ p.invctl.getLsbD 63 = false ∧ ¬ reserved) fun p => { p with invctl := v }))

/-- The monitors (R237, R387, R396): a sample raises the count and the sum, which saturate, moves the minimum and the maximum, and
counts in the bin of its value: what was measured of a latency, the records in the trap queue, or the transient disagreements
or corrected errors of a die of the partition since the last sample, with those of its SRAMs that the sample brings; a read of the
first field latches the others for its reader, who reads them as latched until it latches again; a write to it clears all fields.
There are 20 monitors. A module without power samples nothing. That a monitor of a die which the partition does not own samples 0
is the model's choice (log entry 60). -/
def monitorsCount : Prop := ∀ (a : RegAcc) (m v : Nat) (s : State),
  let part := a.part
  let mon (t : State) (k : Nat) : Monitor := mget {} (t.part part).mons k
  let x := mon s m
  let bin (x : Monitor) (k : Nat) : W32 := mget 0 x.bins k
  let others (t : State) : Prop := (∀ k, k ≠ m → mon t k = mon s k) ∧ ∀ q, q ≠ part → t.part q = s.part q
  let die := (m - 4) % 8
  let owned : Prop := die ∈ (s.part part).dies
  let faults := ((s.cores.filter fun e => e.1 / 256 == die).map fun e => e.2.transient).foldl (· + ·) 0
  let counts (val : Nat) : Prop := s.power → val < 2 ^ 64 → ∃ t, exec (.monitorSample part m v) s = .next t ∧ others t ∧
    let mine := if val < 2 then 0 else if 2 ^ 15 ≤ val then 15 else Nat.log2 val
    (mon t m).count.toNat = min (2 ^ 64 - 1) (x.count.toNat + 1) ∧ (mon t m).sum.toNat = min (2 ^ 64 - 1) (x.sum.toNat + val) ∧
    (mon t m).min.toNat = (if x.count = 0 then val else min val x.min.toNat) ∧ (mon t m).max.toNat = max val x.max.toNat ∧
    (∀ k, (bin (mon t m) k).toNat = if k = mine then min (2 ^ 32 - 1) ((bin x k).toNat + 1) else (bin x k).toNat) ∧
    (4 ≤ m → m < 12 → owned → ∀ c < 256, (t.core die c).transient = 0) ∧ (12 ≤ m → owned → (t.die die).corrected = 0)
  let latch : Instr := .monitorLatch a m
  let at_ (k : Nat) : Nat := 2 ^ 24 * part + 0x1000 + 128 * m + 8 * k
  let reads (t : State) (who : Reader) (mx cnt sm : W64) (bins : SMap W32) : Prop :=
    t.regRead who (at_ 1) = mx ∧ t.regRead who (at_ 2) = cnt ∧ t.regRead who (at_ 3) = sm ∧
    ∀ k < 8, t.regRead who (at_ (4 + k)) = mget 0 bins (2 * k + 1) ++ mget 0 bins (2 * k)
  let clear : Instr := .monitorClear a m
  (20 ≤ m ∨ s.power = false → nothing (.monitorSample part m v) s) ∧
  (m < 3 → counts v) ∧ (m = 3 → counts (s.part part).tq.length) ∧
  (4 ≤ m → m < 20 → ¬ owned → counts 0) ∧ (4 ≤ m → m < 12 → owned → counts faults) ∧
  (12 ≤ m → m < 20 → owned → counts ((s.die die).corrected + v)) ∧
  (¬ regOk a s → exec latch s = .next { s with outbox := s.outbox ++ [.abort] }) ∧
  (regOk a s → m < 20 → ∃ t, exec latch s = .next t ∧ others t ∧ t.outbox = s.outbox ++ [.value 8 x.min] ∧
    mon t m = { x with latched := (x.latched.filter fun y => y.who != .party a.who) ++
      [{ who := .party a.who, min := x.min, max := x.max, count := x.count, sum := x.sum, bins := x.bins }] }) ∧
  (part < 8 → m < 20 → ∀ who, s.regRead who (at_ 0) = x.min ∧ others (s.regLatch who (at_ 0)) ∧
    reads (s.regLatch who (at_ 0)) who x.max x.count x.sum x.bins ∧
    ∀ y ∈ x.latched, (∀ z ∈ x.latched, z.who = y.who → z = y) → reads s y.who y.max y.count y.sum y.bins) ∧
  written clear a s ((20 ≤ m → nothing clear s) ∧ (m < 20 → ∃ t, exec clear s = .next t ∧ others t ∧ mon t m = {}))

/-! ## The module -/

/-- DIE_FENCE and DIE_RETURN (R326, R331, R375, R395, R397): a fenced die loses its bits of READY and has them in FENCED; the
pre-emptible units on it are switched out to be placed on any die, at once or, while a handler works on their cores, with the
fence waiting; the others are killed and relaunched. A returned die has its bits back, and its cores no translation and no run;
a fenced core is replaced by the die's first spare. That the fence is done in one step once the handlers have left, what a return
empties, and which spare it puts in place are the model's choice (log entries 44 and 43). (Dies that gather no reductions and cores
that hold no frames.) -/
def diesComeAndGo : Prop := ∀ (d core k u : Nat) (l : Launch) (s : State),
  let fence : Instr := .dieFence d
  let back : Instr := .dieReturn d
  let bits : W64 := BitVec.ofNat 64 (2 ^ (2 + d) + 7 * 2 ^ (10 + 3 * d))
  let marked (t : State) : Prop := t.ready = s.ready &&& ~~~bits ∧ t.fenced = s.fenced ||| bits ∧ d ∉ t.fencing
  let bs := (l.blocksOf u).map fun f => (⟨k, f⟩ : BId)
  let still : Prop := (∀ x ∈ s.updates, x.die ≠ d) ∧ ∀ e ∈ s.cores, e.1 / 256 = d → (s.core d (e.1 % 256)).frames = []
  let cold : Prop := (s.die d).l2 = [] ∧ ∀ e ∈ s.cores, e.1 / 256 = d → e.2.l1 = []
  (8 ≤ d ∨ s.ready.toNat.testBit (2 + d) = false → nothing fence s) ∧
  (d < 8 → s.ready.toNat.testBit (2 + d) → still →
    ((∀ e ∈ s.launches, e.2.ended.isSome) → ∃ t, exec fence s = .next t ∧ marked t ∧ t.launches = s.launches ∧
      t.blocks = s.blocks ∧ t.groups = s.groups ∧ t.mem = s.mem) ∧
    (s.launches = [(k, l)] → l.ended = none → (l.held.filter fun e => e.2 == d) = [(u, d)] →
      let mine := (l.handed.filter fun e => e.2 == d).map (·.1)
      (l.pre = false → l.grade ≠ 2 → 0 < l.gangSize → ∃ t, exec fence s = .next t ∧ marked t ∧
        (t.launch k).relaunches = l.relaunches + 1 ∧
        (l.relaunches + 1 ≤ l.rlim → (t.launch k).ended = none ∧
          (∀ w, w ∈ (t.launch k).lost ↔ w ∈ l.lost ∨ w ∈ mine ∨ w = u) ∧ (t.launch k).held = l.held.filter (fun e => e.1 != u) ∧
          ∀ f ∈ l.blocksOf u, t.block? ⟨k, f⟩ = none ∧ ∀ j, t.grp? (.grp k f j) = none) ∧
        (l.rlim < l.relaunches + 1 → (t.launch k).ended = some { status := 3, reason := 11 })) ∧
      (l.pre → (∀ b ∈ bs, (s.block b).at?.isSome) → s.handlerBusy bs → ∃ t, exec fence s = .next t ∧ d ∈ t.fencing ∧
        t.ready = s.ready ∧ t.launches = s.launches ∧ t.blocks = s.blocks ∧ t.groups = s.groups ∧ t.mem = s.mem) ∧
      (l.pre → (∀ b ∈ bs, (s.block b).at?.isSome) → s.handlerBusy bs = false → (u, d) ∉ l.handed →
        (∀ e ∈ s.groups, e.2.ahead = none ∧ ∀ sl n, (e.2.b.slot sl).wait ≠ .engine n ∧ (e.2.b.slot sl).wait ≠ .prio n ∧
          (e.2.b.slot sl).loads = false) →
        s.matq = [] → s.copies = [] → (∀ p ∈ s.pends, p.by_ = none) →
        ∃ t, exec fence s = .next t ∧ marked t ∧ t.mem = s.mem ∧ (∀ b ∈ bs, (t.block b).place = .image) ∧
          u ∈ (t.launch k).again ∧ (∀ e ∈ (t.launch k).held, e.1 ≠ u) ∧ ∀ g, isHdl g = false → t.grp? g =
            if bidOf g ∈ bs then (s.grp? g).map fun r => { r with b := r.b.cancel } else s.grp? g))) ∧
  (8 ≤ d ∨ s.fenced.toNat.testBit (2 + d) = false → nothing back s) ∧
  (d < 8 → s.fenced.toNat.testBit (2 + d) → ∃ t, exec back s = .next t ∧ (cold → t.mem = s.mem) ∧
    t.ready = s.ready ||| bits ∧ t.fenced = s.fenced &&& ~~~bits ∧ (t.die d).l2 = [] ∧ (t.die d).tlb = [] ∧ (t.die d).kv = [] ∧
    (∀ c < 196, (t.core d c).tlb = [] ∧ (t.core d c).l1 = [] ∧ (t.core d c).frames = [] ∧ (t.core d c).transient = 0 ∧
      ∀ q, (t.quad d c q).cur = none ∧ (t.quad d c q).traps = [] ∧ (t.quad d c q).prio = none) ∧
    ((∀ c < 196, (s.core d c).fenced = false) → t.cfg = s.cfg) ∧
    (core < 192 → (s.core d core).fenced → (∀ c < 196, c ≠ core → (s.core d c).fenced = false) →
      (∀ c < 192, mget 0 s.cfg.spares (256 * d + c) = 0) → t.physCore d core = 192 ∧
        ∀ c < 192, c ≠ core → t.physCore d c = c))

/-- A slot of a restored launch: an invalidation that it waited for is over, and a WAITC, whose monitor is gone, is done anew. -/
def afresh (x : Slot) : Slot :=
  match x.wait with
  | .inval _ => { x with pc := x.pc + 4, wait := .none, until_ := none, al := none, pend := [], redo := none }
  | _ => x.repoll

/-- PARTITION_RECONFIGURE (R393): an idle, booted module without update-only copies takes another number of partitions; each owns
its share of the dies, one that owns what it owned before is as before, a die that moves reads zero, and one that stays
keeps its bytes (where no memory error stands and no core caches frames). Nothing else makes it change. CHECKPOINT_RESTORE (R385,
R386): a checkpoint of the module whose seal, generation and bytes stand at the address, of a launch that no longer runs, puts
its launch, blocks and groups back, to be placed, with the shadows that are still open; a group that a record had parked executes
its instruction again, as does a WAITC (log entry 30). Anything else restores nothing. Stated where the lines of the checkpoint are
served. -/
def moduleIsRearranged : Prop := ∀ (n part pa gen : Nat) (s : State),
  let i : Instr := .partitionReconfigure n
  let j : Instr := .checkpointRestore part pa gen
  let valid : Prop := n = 1 ∨ n = 2 ∨ n = 4 ∨ n = 8
  let moves (d : Nat) : Prop := s.partOfDie d ≠ d * n / 8
  let idle : Prop := ∀ e ∈ s.launches, e.2.ended.isSome ∧ e.2.reported
  let fits (c : Ckpt) : Prop := (∀ k < c.bytes.length, s.byte (pa + k) = c.bytes.getD k 0) ∧ 16 ≤ c.bytes.length ∧
    loadN s.mem (pa + 8) 8 = gen % 2 ^ 64 ∧
    c.bytes.take 8 = (List.range 8).map (fun m => BitVec.ofNat 8 (crcOf (c.bytes.drop 8) / 256 ^ m)) ∧ c.launch.2.part = part ∧
    ∀ l, s.launch? c.launch.1 = some l → l.ended.isSome
  (¬ valid ∨ ¬ idle ∨ n = s.cfg.nparts ∨ s.ready.getLsbD 0 = false → nothing i s) ∧
  (valid → idle → n ≠ s.cfg.nparts → s.ready.getLsbD 0 → s.updates = [] → s.Quiet →
    (∀ d k, (s.core d k).frames = []) → ∃ t, exec i s = .next t ∧ t.cfg.nparts = n ∧
    t.launches = [] ∧ t.blocks = [] ∧ t.groups = [] ∧
    (∀ p < n, (t.part p).dies = (List.range (8 / n)).map (fun m => p * (8 / n) + m) ∧
      ((s.part p).dies = (t.part p).dies → t.part p = s.part p)) ∧
    ∀ d < 8, ∀ a < 2 ^ 38, (moves d → t.byte (d * 2 ^ 38 + a) = 0) ∧
      (¬ moves d → t.byte (d * 2 ^ 38 + a) = s.byte (d * 2 ^ 38 + a))) ∧
  let served (c : Ckpt) : Prop := ∀ k < c.bytes.length, s.Serves part (pa + k)
  (isRemote pa = false → (∀ c ∈ s.ckpts, served c ∧ ¬ fits c) → exec j s = .next { s with outbox := s.outbox ++ [.ckptDone false] }) ∧
  (∀ c, isRemote pa = false → s.ckpts = [c] → served c → fits c → (c.blocks.map (·.1)).Nodup → (c.groups.map (·.1)).Nodup → ∃ t l,
    exec j s = .next t ∧ t.outbox = s.outbox ++ [.ckptDone true] ∧ t.launch? c.launch.1 = some l ∧
      l.id = c.launch.2.id ∧ l.record = c.launch.2.record ∧ l.retired = c.launch.2.retired ∧ l.held = [] ∧
      (∀ e ∈ c.blocks, t.block? e.1 = some { e.2 with shadows := e.2.shadows.filter fun h => h.closing.isNone } ∧
        l.unitOf e.1.flat ∈ l.again) ∧
      ∀ e ∈ c.groups, let r : Grp := { e.2 with b := (e.2.b.modSlot .a afresh).modSlot .b afresh }
        ((∃ n, e.2.run = .parked n ∨ e.2.run = .brk n) → t.grp? e.1 = some (resumed r)) ∧
        ((∀ n, e.2.run ≠ .parked n ∧ e.2.run ≠ .brk n) → t.grp? e.1 = some r))

/-! ## Steps, checks and encodings -/

/-! ## Instructions that complete -/

/-- The requester that waits in slot sl of group g for invalidation id of a partition goes on: once no access of the partition
beyond the package is on its way, no block of it holds staged writes, no load is held at a replica and no monitor is armed,
INVALIDATION_COMPLETE answers a next state in which the slot waits for nothing and stands at pc, and the invalidation has gone
(R101; that it waits for these is the model's reading, log entries 42 and 35). -/
def invalidationGoesOn (t : State) (part id : Nat) (c : Ctx) (pc : W64) (p : State → Prop) : Prop :=
  (∀ x ∈ (t.part part).invs, x.id = id → x.asker = .group c.g c.sl) → (t.grp? c.g).isSome →
  (∀ r ∈ t.remote, (t.reqOf r.g).part ≠ part) → (∀ b ∈ t.blocks, b.2.staged = []) →
  (∀ e ∈ t.groups, e.2.b.loads = false) → t.monitors = [] →
  ∃ u, exec (.invalidationComplete part id) t = .next u ∧ ((u.grp c.g).b.slot c.sl).wait = .none ∧
    ((u.grp c.g).b.slot c.sl).pc = pc ∧ (∀ x ∈ (u.part part).invs, x.id ≠ id) ∧ p u

/-- Where these words complete, under conditions on the state and the operands alone: FENCE with none of its group's accesses on
its way (R309); CLEAN, INVAL and CLINV of lines in a page that the core's TLB holds (R310, R311); XSET, whose invalidation begins,
leaves no covered translation in a TLB, and ends (R101, R381); SHADOW and PUBLISH, whose invalidation ends with the shadow closed
and its frames given back (R186, R188); CKPT with its checkpoint written (R386). That SHADOW takes the first frame of the pool is the
model's reading (log entry 51). -/
def wordsComplete : Prop := ∀ (z : Bool) (c : Ctx) (s : State),
  (∀ k : BitVec 3, ready (.fence z k) s = some c → k.toNat < 5 ∨ (∀ r ∈ s.remote, r.g ≠ c.g) →
    ∃ t, exec (.fence z k) s = .next t ∧ Retired c s t (c.pc + 4)) ∧
  (∀ (v : BitVec 2) (a b : BitVec 7) (pa : Nat), ∀ i ∈ [Instr.clean z v a b, .inval z v a b, .clinv z v a b], ready i s = some c →
    let va := (srcS a c).toNat
    let n := (srcS b c).toNat
    0 < n → va % 65536 + n ≤ 65536 → tlbMaps c s va .read pa → tlbMaps c s va .write pa → s.updates = [] → s.Quiet →
    c.q.core < 256 → (v.toNat < 2 ∨ s.blockedIn c.q.part pa n = false) →
    ∃ t u, exec i s = .next t ∧ Retired c u t (c.pc + 4) ∧
      (∀ k, k / 2048 * 2048 + 2048 ≤ pa ∨ pa + n ≤ k / 2048 * 2048 → t.byte k = s.byte k) ∧
      (v = 0 ∨ c.q.die ∈ (s.part c.q.part).dies → ∀ l ∈ (t.core c.q.die c.q.core).l1,
        64 * l.line < pa + n → pa < 64 * l.line + 64 → l.mask = 0)) ∧
  (∀ (a b : BitVec 7), ready (.xset z a b) s = some c →
    let len := srcS b c
    let kind := (c.b.getS (b.toNat + 1)).toNat
    let q := s.reqOf (s.target c)
    let ext : Extent := match kind with
      | 0 => .virt q.asid q.pasid ((srcS a c).toNat % 2 ^ 57) len.toNat
      | 1 => .ctx q.asid q.pasid
      | 2 => .ipa (srcS a c).toNat len.toNat
      | _ => .all
    kind < 4 → kind % 2 = 1 ∨ len.toNat % 65536 = 0 → (∀ x ∈ (s.part c.q.part).invs, x.id < s.seq) →
    ∃ t u, exec (.xset z a b) s = .next t ∧ Parked (.xset z a b) c u t (.inval s.seq) ∧ t.mem = s.mem ∧
      (∀ d, ∀ e ∈ (t.die d).tlb, e.part = c.q.part → ext.covers e.tag e.tr = false) ∧
      (∀ d k, ∀ e ∈ (t.core d k).tlb, e.part = c.q.part → ext.covers e.tag e.tr = false) ∧
      invalidationGoesOn t c.q.part s.seq c (c.pc + 4) fun u => u.mem = s.mem) ∧
  (∀ (d a b : BitVec 7), ready (.shadow z d a b) s = some c → (srcS a c).toNat % 65536 = 0 →
    (srcS b c).toNat = 65536 → c.ticketed = false → (s.block c.bid).shadows = [] → (s.block? c.bid).isSome →
    ∀ live f rest e, tlbMaps c s (srcS a c).toNat .write live → e.tr.host = false → e.tr.size2 = .k64 →
    (s.core c.q.die c.q.core).tlb.find? (fun e => e.hits c.q (va57 (srcS a c).toNat)) = some e →
    s.shadowed c.q.part (e.tr.ipa + va57 (srcS a c).toNat % PSizeBytes e.tr.size) = false →
    (s.part c.q.part).shadowPool = f :: rest → f ∉ rest → rest.Nodup → (∀ g ∈ f :: rest, g % 65536 = 0 ∧ g ≠ live) →
    live % 65536 = 0 → (∀ j < 256, s.Serves c.q.part (live + 256 * j) ∧ s.Serves c.q.part (f + 256 * j)) →
    ∃ (t u : State) (h : Nat), exec (.shadow z d a b) s = .next t ∧
      Retired c (u.modBank c.g fun k => k.setS d.toNat (BitVec.ofNat 64 h)) t (c.pc + 4) ∧ 1 ≤ h ∧ h ≤ 4 ∧
      (t.part c.q.part).shadowPool = rest ∧ ∀ j < 65536, t.byte (f + j) = s.byte (live + j)) ∧
  (∀ (a : BitVec 7) (sh : Shadow), ready (.publish z a) s = some c → (s.block? c.bid).isSome →
    (s.block c.bid).shadows = [sh] → sh.handle = (srcS a c).toNat → sh.closing = none → s.copies = [] → s.matq = [] →
    (∀ x ∈ (s.part c.q.part).invs, x.id < s.seq) → isHdl c.g = false →
    ∃ t u id, exec (.publish z a) s = .next t ∧ Parked (.publish z a) c u t (.inval id) ∧
      (∃ x ∈ (t.part c.q.part).invs, x.id = id ∧ x.ext = .pages (sh.pages.map (·.ipa))) ∧
      invalidationGoesOn t c.q.part id c (c.pc + 4) fun u => (u.block c.bid).shadows = [] ∧
        (u.part c.q.part).shadowPool = (s.part c.q.part).shadowPool ++ sh.pages.map (·.live)) ∧
  (∀ (d a b : BitVec 7) (pa : Nat → Nat), ready (.ckpt z d a b) s = some c →
    let key := c.bid.launch
    let l := s.launch key
    let va := (srcS a c).toNat
    let q : State := State.ckptSettle { s with pends := s.pends.filter fun p => decide (p.launch ≠ key) } key
    let q' : State := { q with free := q.free + (q.launch key).blocks }
    let n := 8 + (q'.ckptBody q.free key (srcS b c).toNat (q'.blocksOf key)).length
    l.pre → va % 65536 = 0 → s.handlerBusy (s.blocksOf key) (some c.g) = false →
    (∀ b ∈ s.blocksOf key, ∀ e ∈ s.groupsOf b, e.2.b.loads = false) → l.record.length = 32 →
    (∀ k, 65536 * k < n → tlbHolds c.q q' (va + 65536 * k) .write (pa k) ∧ ∀ j < 65536, q'.Serves c.q.part (pa k + j)) →
    ∃ (t u : State) (k : Ckpt), exec (.ckpt z d a b) s = .next t ∧
      Retired c (u.modBank c.g fun x => x.setS d.toNat (BitVec.ofNat 64 n)) t (c.pc + 4) ∧ t.ckpts = s.ckpts ++ [k] ∧
      k.bytes.length = n ∧ k.launch.1 = key)

/-- Where these events complete, under conditions on the state alone, of a copy whose turn it is on its channel and a matrix
instruction at the head of its quadrant's queue: COPY_START starts the copy (R181, R182), COPY_ELEMENT_WRITTEN moves an element
from the scratchpad to memory (R181), MATRIX_INSTRUCTION_START starts the instruction (R267), MATRIX_INSTRUCTION_COMPLETE ends a
TZERO with its tile zero (R280). -/
def eventsComplete : Prop := ∀ (die core n : Nat) (s : State),
  (∀ x, turnOf s die core n = some x → x.held = none → x.active = false → x.len ≠ 0 →
    ∃ t, exec (.copyStart die core n) s = .next t ∧
    t.copies = s.copies.map (fun y => if y.seq = x.seq then { y with begun := true, active := true } else y) ∧
    { t with copies := s.copies } = s) ∧
  (∀ x pa, turnOf s die core n = some x → x.held = none → x.active → x.val = none → (∀ y ∈ s.copies, y.seq = x.seq → y = x) →
    (s.launch x.bid.launch).grade = 0 → (s.block x.bid).shadows = [] → x.kind = 1 →
    let q := { s.reqOf (.grp x.bid.launch x.bid.flat 0) with die := die, core := core }
    tlbHolds q s ((x.dst.toNat + x.done) % 2 ^ 64) .write pa → s.Serves q.part pa → s.Unwatched pa 4 →
    ∃ t, exec (.copyElementWritten die core n) s = .next t ∧
      t.mem = storeN s.mem pa (s.scLoad x.bid (x.src.toNat + x.done) 4) 4 ∧
      ((t.block x.bid).ch x.ch).wptr = ((s.block x.bid).ch x.ch).wptr + 4) ∧
  (∀ m, (∀ x ∈ quadrantQueue s die core n, ¬ (x.started ∧ x.held = none)) → (quadrantQueue s die core n).head? = some m →
    m.held = none → m.op = .tzero →
    (∀ x ∈ s.matq, bidOf x.g = bidOf m.g → x.seq < m.seq → ∀ t ∈ s.tilesOf x, t ∉ s.tilesOf m) →
    ∃ t, exec (.matrixInstructionStart die core n) s = .next t ∧
      t.matq = s.matq.map (fun x => if x.seq = m.seq then { x with started := true } else x) ∧ { t with matq := s.matq } = s) ∧
  (∀ m, executes s die core n m → m.op = .tzero → ∃ t, exec (.matrixInstructionComplete die core n) s = .next t ∧
    t.matq = s.matq.filter (fun x => x.seq != m.seq) ∧ t.mem = s.mem ∧ t.groups = s.groups ∧
    ∀ i < 64, ∀ j < 64, (t.block (bidOf m.g)).getT m.d i j = 0)

end Sys2Proof

/-! ## The statements -/

open Sys2Proof Sys2Proof.Machine

/-- The scalar pipe computes what the tables of its functions say, at every operand (R67, R68, R69, R70, R71, R73). -/
def Obligations.ScalarArithmetic : Prop :=
  scalarTwoSource ∧ scalarComparesAndCounts ∧ scalarBitFields ∧ scalarDivision ∧ scalarImmediates

/-- GETS, SETS, WIN and the loads of translation registers read and write the special state (R56, R64, R57, R59, R74,
R376, R35, R76, R66, R87, R88). -/
def Obligations.SpecialRegistersAndWindow : Prop :=
  specialRegistersRead ∧ specialRegistersWritten ∧ windowMoves ∧ scratchpadFormSet ∧ translationRegisterLoaded

/-- The vector integer functions work lane by lane on the active lanes (R240, R242, R241). -/
def Obligations.VectorIntegers : Prop :=
  vectorIntegerArithmetic ∧ vectorShiftsAndMoves ∧ vectorBitFields

/-- Compares write masks, and the mask functions combine them (R243, R231, R244). -/
def Obligations.VectorComparesAndMasks : Prop :=
  vectorCompares ∧ maskOperations

/-- The vector floating-point words complete, and what their functions give (R245, R248, R250, R252, R251, R225, R228,
R234, R232, R246, R247). -/
def Obligations.VectorFloatInstructions : Prop :=
  vectorFloatCompletes ∧ floatFunctionsRound ∧ conversionsRound ∧ vectorFloatMovesAndOrder

/-- FADD, FSUB, FMUL, FMA, FMS, FNMA and FDIV of finite operands give the exact result rounded once, to nearest, ties to even
(R225, R226, R245, R249). -/
def Obligations.FloatResultsRounded : Prop := ∀ x y w : W32, finiteBits x → finiteBits y → finiteBits w →
  RoundsRne (unitsOf x + unitsOf y) 1 (fadd x y) ∧
  RoundsRne (unitsOf x - unitsOf y) 1 (fsub x y) ∧
  RoundsRne (unitsOf x * unitsOf y) (2 ^ 149) (fmul x y) ∧
  RoundsRne (unitsOf x * unitsOf y + unitsOf w * 2 ^ 149) (2 ^ 149) (fma x y w) ∧
  RoundsRne (unitsOf x * unitsOf y - unitsOf w * 2 ^ 149) (2 ^ 149) (fms x y w) ∧
  RoundsRne (unitsOf w * 2 ^ 149 - unitsOf x * unitsOf y) (2 ^ 149) (fnma x y w) ∧
  (unitsOf y ≠ 0 → RoundsRne (unitsOf x * (unitsOf y).sign * 2 ^ 149) (unitsOf y).natAbs (fdiv x y))

/-- The special cases of VF and FDIV (R246, R229, R249): a NaN operand gives the canonical NaN; infinities; the signs of exact
zeros. -/
def Obligations.FloatSpecialCases : Prop := ∀ x y w : W32,
  let nan : W32 := 0x7FC00000
  let zero (v : W32) : Bool := decide (v.toNat % 2 ^ 31 = 0)
  let inf (v : W32) : Bool := decide (v.toNat % 2 ^ 31 = 0x7F800000)
  let signed (neg : Bool) (v : W32) : W32 := if neg then v ||| 0x80000000 else v
  let sx := x.getLsbD 31
  let sy := y.getLsbD 31
  let sw := w.getLsbD 31
  (nanBits x || nanBits y → fadd x y = nan ∧ fsub x y = nan ∧ fmul x y = nan ∧ fdiv x y = nan) ∧
  (nanBits x || nanBits y || nanBits w → fma x y w = nan ∧ fms x y w = nan ∧ fnma x y w = nan) ∧
  (nanBits x → frint x = nan ∧ fscl x y = nan) ∧
  (inf x → inf y → fadd x y = (if sx = sy then x else nan) ∧ fsub x y = (if sx = sy then nan else x) ∧ fdiv x y = nan) ∧
  (inf x → finiteBits y → fadd x y = x ∧ fadd y x = x ∧ fsub x y = x ∧ fdiv x y = signed (sx != sy) 0x7F800000 ∧
    fdiv y x = signed (sx != sy) 0 ∧ fmul x y = (if zero y then nan else signed (sx != sy) 0x7F800000)) ∧
  (inf x → inf y → fmul x y = signed (sx != sy) 0x7F800000) ∧
  ((inf x ∧ zero y) ∨ (zero x ∧ inf y) → fma x y w = nan ∧ fms x y w = nan ∧ fnma x y w = nan) ∧
  (zero x → zero y → fdiv x y = nan) ∧
  (finiteBits x → ¬ zero x → zero y → fdiv x y = signed (sx != sy) 0x7F800000) ∧
  (finiteBits x → finiteBits y → unitsOf x + unitsOf y = 0 → fadd x y = signed (sx && sy) 0) ∧
  (finiteBits x → finiteBits y → zero x || zero y → fmul x y = signed (sx != sy) 0) ∧
  (zero x || zero y → finiteBits x → finiteBits y → zero w →
    fma x y w = signed ((sx != sy) && sw) 0 ∧ fms x y w = signed ((sx != sy) && !sw) 0 ∧
      fnma x y w = signed (sw && !(sx != sy)) 0) ∧
  (inf x ∨ zero x → frint x = x ∧ fscl x y = x) ∧
  (finiteBits x → 150 ≤ x.toNat / 2 ^ 23 % 256 → frint x = x)

/-- What VTR gives for its special inputs (R252). -/
def Obligations.TranscendentalSpecials : Prop :=
  (∀ x : W32, nanBits x → ∀ fn < 9, vtrF fn x = 0x7FC00000) ∧
  (∀ x : W32, finiteBits x → x.getLsbD 31 → x.toNat ≠ 2 ^ 31 → ∀ fn ∈ [0, 2, 4], vtrF fn x = 0x7FC00000) ∧
  [0, 1, 2, 3, 4, 5, 6, 7, 8].map (fun fn => vtrF fn 0xFF800000) =
    [0x7FC00000, 0x80000000, 0x7FC00000, 0, 0x7FC00000, 0, 0xBF800000, 0x7FC00000, 0x7FC00000] ∧
  [0, 1, 2, 3, 4, 5, 6, 7, 8].map (fun fn => vtrF fn 0x80000000) =
    [0x80000000, 0xFF800000, 0xFF800000, 0x3F800000, 0xFF800000, 0x3F800000, 0x80000000, 0x80000000, 0x3F800000] ∧
  [0, 1, 2, 3, 4, 5, 6, 7, 8].map (fun fn => vtrF fn 0) =
    [0, 0x7F800000, 0x7F800000, 0x3F800000, 0xFF800000, 0x3F800000, 0, 0, 0x3F800000] ∧
  [0, 1, 2, 3, 4, 5, 6, 7, 8].map (fun fn => vtrF fn 0x7F800000) =
    [0x7F800000, 0, 0, 0x7F800000, 0x7F800000, 0x7F800000, 0x3F800000, 0x7FC00000, 0x7FC00000]

/-- A value of a narrow format converted to FP32 and back is itself, in every rounding mode (R225, R233, R234): the conversions
to FP32 are exact. Left out are the encodings of NaN but the canonical one, and the E2M1 code that holds the extra value. -/
def Obligations.NarrowConversionsExact : Prop := ∀ (k : Nat) (mode : RMode) (x : Nat) (w : W32),
  let f := narrowFmt k
  let width := f.man + f.exp + (if f.signed then 1 else 0)
  1 ≤ k → k ≤ 7 → x < 2 ^ width → (decodeFmt f 0 x = .nan → x = f.nanBits) → (f = .e2m1 → x ≠ 8) →
    (mode = .sat → ∀ n, decodeFmt f 0 x ≠ .inf n) →
      convert (.flt f) (.flt .fp32) mode (convert (.flt .fp32) (.flt f) mode x w) w = x

/-- The weaver moves lanes, and the reductions fold them (R215, R216, R253, R255, R230, R232). -/
def Obligations.LanesCombine : Prop :=
  weaverMoves ∧ laneSums ∧ laneExtremes

/-- Alphabet registers, symbols packed in registers, random numbers, checksums and clocks (R201, R205, R50, R58, R214,
R41, R364, R368). -/
def Obligations.AlphabetsAndNumbers : Prop :=
  alphabetRegisters ∧ symbolsInRegisters ∧ numbersAndClocks

/-- Loads give the bytes of memory, stores put theirs there and nowhere else (R174, R293, R296, R175, R51). -/
def Obligations.LoadsAndStores : Prop :=
  loadsReadMemory ∧ storesWriteMemory

/-- Plain and packed accesses of the scratchpad (R171, R173, R203, R207, R213, R58). -/
def Obligations.ScratchpadAccesses : Prop :=
  scratchpadLoadsAndStores ∧ packedScratchpad

/-- PKLD and PKST (R207 to R213) through a register in translation form, where every lane's container translates and is
served and no invalid code meets the fault policy: as in the scratchpad, on memory. -/
def Obligations.PackedMemory : Prop := ∀ (z : Bool) (la : BitVec 4) (d a : BitVec 7) (x g : BitVec 3) (h : BitVec 1)
    (c : Ctx) (s : State) (pa : Nat → Nat),
  let al := (s.block c.bid).getAl g.toNat
  let n := alWidth al / 8
  let ca (l : Nat) : Nat := low 64 ((c.b.getX x.toNat).base64 + ((srcV a c l).toNat / alGroup al * n : Nat))
  let pos (l : Nat) : Nat := (srcV a c l).toNat % alGroup al
  let f (l old : Nat) : Option Nat := some (withSymbol al old (pos l) (srcV d c l).toInt)
  let code (l : Nat) : Nat := loadN s.mem (pa l) n
  let flagged (u : State) : State :=
    if c.lanes.any fun l => badCode al (code l) then
      u.modBlock c.bid fun k => { k with alflags := k.alflags ||| BitVec.ofNat 8 (2 ^ g.toNat) } else u
  alphabetOk al → c.slot.al = none → (∀ l ∈ c.lanes, badCode al (code l) → alSubst al) →
  (ready (.pkld z la d a x g h) s = some c → c.ticketed = false → lanesReach c s x.toNat n .read ca pa →
    ∃ u, CachesOnly s u ∧ Completes (.pkld z la d a x g h) s c
      ((flagged u).modBank c.g fun k => k.setV d.toNat c.lanes fun l =>
        BitVec.ofInt 32 (if badCode al (code l) then alSymbol al
          else ((code l / alRadix al ^ pos l % alRadix al : Nat) : Int) + alOffset al)) (c.pc + 4)) ∧
  (ready (.pkst z la d a x g h) s = some c → direct c s → lanesReach c s x.toNat n .rmw ca pa →
    (∀ l ∈ c.lanes, s.Unwatched (pa l) n ∧ symOk al (srcV d c l).toInt) →
    (∀ l ∈ c.lanes, ∀ l' ∈ c.lanes, pa l = pa l' ∨ pa l + n ≤ pa l' ∨ pa l' + n ≤ pa l) →
    ∃ u, CachesOnly { s with mem := rmwLanes n pa f c.lanes s.mem } u ∧
      Completes (.pkst z la d a x g h) s c (flagged u) (c.pc + 4))

/-- ATOM and CAS (R300, R301, R303) where no monitor watches the lines: the lanes' elements are read and written at one
point each, in ascending lane order, and each lane of d receives the value before its own update. -/
def Obligations.AtomicsReturnOldValues : Prop := ∀ (i : Instr) (op : Option AOp) (n : Nat) (d a : BitVec 7) (x : BitVec 3)
    (c : Ctx) (s : State) (pa : Nat → Nat), rmwWord i = some (op, n, d, a, x, true) → ready i s = some c → direct c s →
  lanesReach c s x.toNat n .rmw (fun l => low 64 ((c.b.getX x.toNat).base64 + (srcV a c l).toInt)) pa →
  (∀ l ∈ c.lanes, s.Unwatched (pa l) n) →
    let f := elementAfter op n c d.toNat
    let old (l : Nat) : Nat := loadN (rmwLanes n pa f (c.lanes.filter (· < l)) s.mem) (pa l) n
    ∃ u, CachesOnly { s with mem := rmwLanes n pa f c.lanes s.mem } u ∧
      Completes i s c (u.modBank c.g fun k =>
        if n = 8 then k.setV2 d.toNat c.lanes fun l => BitVec.ofNat 64 (old l)
        else k.setV d.toNat c.lanes fun l => BitVec.ofNat 32 (old l)) (c.pc + 4)

/-- RED (R166, R300, R302): performed at the home slice it changes the elements as ATOM does and writes no register; one
lane gathered at a new update-only copy of the requester's die leaves memory alone, and the copy holds the operation
applied to its identity. -/
def Obligations.ReductionsCombine : Prop := ∀ (i : Instr) (op : AOp) (n : Nat) (d a : BitVec 7) (x : BitVec 3) (c : Ctx)
    (s : State) (pa : Nat → Nat), rmwWord i = some (some op, n, d, a, x, false) → ready i s = some c → direct c s →
  lanesReach c s x.toNat n .rmw (fun l => low 64 ((c.b.getX x.toNat).base64 + (srcV a c l).toInt)) pa →
  (∀ l ∈ c.lanes, s.Unwatched (pa l) n) →
    ((∀ l ∈ c.lanes, s.homeDie c.q.part (pa l) = c.q.die ∨ op = .xchg ∨ op = .inc ∨ op = .dec) →
      ∃ u, CachesOnly { s with mem := rmwLanes n pa (elementAfter (some op) n c d.toNat) c.lanes s.mem } u ∧
        Completes i s c u (c.pc + 4)) ∧
    (∀ l, c.lanes = [l] → s.homeDie c.q.part (pa l) ≠ c.q.die → op ≠ .xchg → op ≠ .inc → op ≠ .dec →
      (c.tokened → op ≠ .fadd) →
      (∀ m ∈ s.updates, m.die = c.q.die → l2Set (256 * m.line) ≠ l2Set (pa l)) →
      let ident : Nat := match op with
        | .and | .minn => 2 ^ (8 * n) - 1
        | .min => 2 ^ (8 * n - 1) - 1
        | .max => 2 ^ (8 * n - 1)
        | .fadd => 0x80000000
        | _ => 0
      ∃ u p, CachesOnly { s with updates := s.updates ++ [p] } u ∧ Completes i s c u (c.pc + 4) ∧
        p.die = c.q.die ∧ p.line = pa l / 256 ∧ p.op = op ∧ p.w64 = (n == 8) ∧
        ∀ k, mget (BitVec.ofNat 64 ident) p.parts k =
          BitVec.ofNat 64 (if k = pa l % 256 then newElement op (8 * n) ident (elementOf n c d.toNat l) else ident))

/-- WAITC (R306, R307): an element that meets the condition ends it at once with s(d) the element and s(d+1) 1; one that
does not, with a timeout of 0, ends it with 0; otherwise the slot waits with a monitor armed at the home slice, or polls
every 2,048 cycles when the slice has none free (R161, R163). -/
def Obligations.WaitcReadsOrWaits : Prop := ∀ (i : Instr) (k : WCond) (d a : BitVec 7) (x : BitVec 3) (timed : Bool)
    (c : Ctx) (s : State) (pa : Nat), waitWord i = some (k, d, a, x, timed) → ready i s = some c →
  c.slot.until_ = none → (∀ m ∈ s.monitors, m.g = c.g → m.sl ≠ c.sl) → (∀ w ∈ s.wakes, w.g = c.g → w.sl ≠ c.sl) →
  c.Maps x.toNat 8 .read (low 64 ((c.b.getX x.toNat).base64 + (srcS a c).toInt)) pa → s.Serves c.q.part pa →
    let e := BitVec.ofNat 64 (loadN s.mem pa 8)
    let v := srcS d c
    let time := (c.b.getS (d.toNat + 1)).toNat
    let busy := (s.monitors.filter fun m => s.homeDie (s.ownerOf m.pa) m.pa == s.homeDie c.q.part pa && sliceOf m.pa == sliceOf pa)
    (meets k e v → ∃ u, CachesOnly s u ∧
      Completes i s c (u.modBank c.g fun b => (b.setS d.toNat e).setS (d.toNat + 1) 1) (c.pc + 4)) ∧
    (¬ meets k e v → timed → time = 0 → ∃ u, CachesOnly s u ∧
      Completes i s c (u.modBank c.g fun b => (b.setS d.toNat e).setS (d.toNat + 1) 0) (c.pc + 4)) ∧
    (¬ meets k e v → ¬ (timed ∧ time = 0) →
      let limit := if timed then some (s.cycle + time) else none
      (busy.length < 64 → ∃ u t,
        CachesOnly { s with monitors := s.monitors ++ [{ pa := pa, c := k, v := v, g := c.g, sl := c.sl }] } u ∧
        exec i s = .next t ∧ Parked i c u t (.cond pa k v d.toNat limit 0 true false)) ∧
      (64 ≤ busy.length → ∃ u t, CachesOnly s u ∧ exec i s = .next t ∧
        Parked i c u t (.cond pa k v d.toNat limit (s.cycle + 2048) false false)))

/-- A store in a ticketed launch joins its block's staging list and changes no memory (R353); with more than 65,536 elements
the store raises LIMIT and stages nothing (R357). R357 speaks of the list: that `stagedCount` also counts what copies that have
issued and drains that have started have still to stage is the model's reading (log entry 35). -/
def Obligations.TicketedStoresAreStaged : Prop := ∀ (z : Bool) (la : BitVec 4) (d a : BitVec 7) (x : BitVec 3)
    (w h : BitVec 2) (c : Ctx) (s : State) (pa : Nat → Nat),
  let n := 2 ^ w.toNat
  let i : Instr := .st z la d a x w h
  let v (l : Nat) : W64 := BitVec.ofNat 64 (if n = 8 then (srcV2 d c l).toNat else (srcV d c l).toNat % 2 ^ (8 * n))
  let u (by_ : List TlbEntry) : State := s.modBlock c.bid fun k =>
    { k with staged := k.staged ++ c.lanes.map fun l => .store (pa l) n (v l) false, stagedBy := by_ }
  ready i s = some c → c.ticketed →
  (∀ l ∈ c.lanes, c.Maps x.toNat n .write (low 64 ((c.b.getX x.toNat).base64 + (srcV a c l).toInt)) (pa l) ∧
    isRemote (pa l) = false) →
    ((u []).stagedCount c.bid ≤ 65536 → ∃ l, Completes i s c (u l) (c.pc + 4)) ∧
    (65536 < (u []).stagedCount c.bid → ∃ r, r.cls = .limit ∧ exec i s = .next (s.fail c r))

/-- The faults of a vector access (R51, R66, R88, R89, R174): a register in scratchpad form raises ILL; otherwise the lowest
lane that fails raises ALIGN for a misaligned address, PERM for one that is not canonical or that stage 1 does not allow, with
the lane and its address; nothing is accessed. In a token launch the group holds the commit token, without which a write
raises PERM at the lowest lane too (R361). -/
def Obligations.AccessFaults : Prop := ∀ (i : Instr) (x : BitVec 3) (a : BitVec 7) (n : Nat) (kind : Kind) (c : Ctx)
    (s : State), laneAccess i = some (x, a, n, kind) → ready i s = some c →
  let r := c.b.getX x.toNat
  let va (l : Nat) : Nat := low 64 (r.base64 + (srcV a c l).toInt)
  (kind ≠ .read → c.tokened → s.holdsToken c.g) →
  (r.sp → ∃ f, f.cls = .ill ∧ exec i s = .next (s.fail c f)) ∧
  ∀ l ∈ c.lanes, r.sp = false → (∀ l' ∈ c.lanes, l' < l → ∃ pa, c.Maps x.toNat n kind (va l') pa ∧ isRemote pa = false) →
    (va l % n ≠ 0 → exec i s = .next (s.fail c { cls := .align, lane := some l, detail := BitVec.ofNat 64 (va l) })) ∧
    (va l % n = 0 → ¬ canonical (va l) →
      exec i s = .next (s.fail c { cls := .perm, lane := some l, detail := BitVec.ofNat 64 (va l) })) ∧
    (va l % n = 0 → canonical (va l) → r.within (va l) → r.stale = false → ¬ r.p1.allows kind →
      exec i s = .next (s.fail c { cls := .perm, lane := some l, detail := BitVec.ofNat 64 (va l) }))

/-- Branches, jumps, calls and returns set the pc and the stack (R25, R337, R339, R177, R336). -/
def Obligations.BranchesAndCalls : Prop :=
  branchesAndJumps ∧ callsReturn

/-- BRD splits the active lanes, JOIN reunites them (R333, R178, R334). -/
def Obligations.SlotsDivergeAndReunite : Prop :=
  branchesDiverge ∧ joinsReunite

/-- EXIT, BRK and TRAP (R165, R309, R335, R339, R369, R374, R382). Points in it that are the model's choice or reading:
log entries 24. -/
def Obligations.GroupsEndOrCall : Prop :=
  exitsRetire ∧ breaksAndSystemCalls

/-- The issue-priority token and the barriers of a block (R290, R291, R346, R348). -/
def Obligations.TokensAndBarriers : Prop :=
  priorityToken ∧ barriersMeet ∧ awaitsGeneration

/-- The commit token passes on, and LAUNCH posts records (R360, R363, R349, R361). -/
def Obligations.CommitTokenAndLaunch : Prop :=
  commitToken ∧ launchPosts

/-- COPY queues a copy, CWAIT and CSTAT report its channel (R179, R180, R182, R184, R185). -/
def Obligations.CopiesQueueAndReport : Prop :=
  copiesQueue ∧ copiesReport

/-- SHADOW opens a shadow, PUBLISH puts it in place (R186, R188). Points in it that are the model's choice or reading:
log entries 26, 51. -/
def Obligations.ShadowsOpenAndPublish : Prop :=
  shadowsOpen ∧ publishSwapsFrames

/-- FENCE waits for accesses, CLEAN, INVAL and CLINV act on lines (R309, R310, R311). -/
def Obligations.FencesAndMaintenance : Prop :=
  fenceOrders ∧ maintenanceOfLines

/-- MBATCH, MWAIT, MBX and MSQ (R273, R274, R147, R189). -/
def Obligations.BatchesAndMailboxes : Prop :=
  batchesAreAwaited ∧ mailboxesAndTierQueries

/-- Slices and settings of tile registers (R195, R198, R41, R279, R280). -/
def Obligations.TileRegisters : Prop :=
  tileSlices ∧ tileSettings

/-- MLOOP, HAD, QNT, TDR, TZERO and TCOPY at issue (R258 to R261, R267, R273, R275, R276, R280, R281, R284). An improper control
raises ILL with its value. MLOOP checks its descriptor, then its parameters in order, then the second tile of a split pair
(LIMIT); with a count of 0 it completes and changes nothing. -/
def Obligations.MatrixInstructionsQueue : Prop := ∀ (c : Ctx) (s : State),
  (∀ i op d a ok v, matrixWord c i = some (op, d, a, ok, v) → ready i s = some c →
    (ok → entersQueue i s c op d a) ∧ (¬ ok → exec i s = .next (s.fail c { cls := .ill, detail := v }))) ∧
  ∀ (z : Bool) (d a b : BitVec 7), ready (.mloop z d a b) s = some c →
    let i : Instr := .mloop z d a b
    let v := srcS b c
    let al := (s.block c.bid).getAl (v.toNat / 2 ^ 8 % 8)
    let p (k : Nat) : W64 := c.b.getS (a.toNat + k)
    let good : Prop := ∀ k < 7, goodParam v p k
    (¬ goodLoop v al d.toNat → exec i s = .next (s.fail c { cls := .ill, detail := v })) ∧
    (goodLoop v al d.toNat → ∀ k < 7, ¬ goodParam v p k → (∀ j < k, goodParam v p j) →
      exec i s = .next (s.fail c { cls := .ill, detail := p k })) ∧
    (goodLoop v al d.toNat → good → v.getLsbD 13 → c.l.tiles ≤ d.toNat + 1 →
      ∃ f, f.cls = .limit ∧ exec i s = .next (s.fail c f)) ∧
    (goodLoop v al d.toNat → good → (v.getLsbD 13 → d.toNat + 1 < c.l.tiles) →
      (p 4 = 0 → Completes i s c s (c.pc + 4)) ∧
      (p 4 ≠ 0 → entersQueue i s c (.mloop v ((List.range 8).map p) al) d.toNat d.toNat))

/-- KVLD, KVQ, KVPIN and KVUNPIN through the tables of the KV space (R113, R114, R125, R130, R119, R131). Points in it
that are the model's choice or reading: log entries 9, 57. -/
def Obligations.KvReads : Prop :=
  kvLoads ∧ kvQueries ∧ kvPins

/-- KVAPP, KVFORK and KVTRIM change the KV tables (R116, R118, R127, R128, R115, R119, R129). Points in it that are the
model's choice or reading: log entries 57. -/
def Obligations.KvChanges : Prop :=
  kvAppends ∧ kvForks ∧ kvTrims

/-- ERET leaves the handler, TQPOP pops and releases records (R374, R378, R98, R373, R380). Points in it that are the
model's choice or reading: log entries 31. -/
def Obligations.TrapsReturnAndRelease : Prop :=
  returnsFromTraps ∧ popsAndReleases

/-- GRD, GWR, GRES and GKILL act on their target (R379, R378, R331, R362, R372). Points in it that are the model's
choice or reading: log entries 32, 34, 55. -/
def Obligations.TargetsAreControlled : Prop :=
  reachesGroups ∧ stopsAndResumes ∧ killsGangs

/-- XSET starts an invalidation, CKPT writes a checkpoint (R101, R381, R36, R375, R386). Points in it that are the
model's choice or reading: log entries 30, 55. -/
def Obligations.PrivilegedRequests : Prop :=
  invalidates ∧ takesCheckpoints

/-- Copy channels move elements, matrix instructions start and complete (R166, R167, R179, R182, R257, R267, R275,
R282). Points in it that are the model's choice or reading: log entries 40. -/
def Obligations.EnginesMoveData : Prop :=
  copiesMove ∧ enginesComplete

/-- MATRIX_K_STEP_COMPLETE (R222, R223, R261 to R266) for the last step of a loop whose strips are those of the step, in every
pairing of formats: in the integer class each element of the rows in p7 gains the sum of 32 products, of i8, n8 or the symbols of an
alphabet, clamped under sat, wrapped else; with FP4, FP8 or an alphabet, with their scales, it is the accumulator plus the exact sum
of the 32 exact products, rounded once, and with BF16 or FP16 plus the rounded tree of 16 products; in split mode the positive and
the negative products go to the two tiles and are counted. The loop then leaves its queue. Stated where no container of an alphabet
is invalid under the fault policy. -/
def Obligations.MatrixStepsAccumulate : Prop := ∀ (die core quad : Nat) (s : State) (m : MEntry) (desc al : W64) (p : List W64),
  let i : Instr := .matrixKStepComplete die core quad
  let k := s.block (bidOf m.g)
  let fa := desc.toNat % 16
  let fb := desc.toNat / 16 % 16
  let fresh : Bool := desc.getLsbD 17 && decide (m.progress = 0)
  let on (r : Nat) : Bool := (p.getD 7 0).getLsbD r
  let acc (t r j : Nat) : W32 := if fresh then 0 else k.getT t r j
  let cnt (t r j : Nat) : Nat := if fresh then 0 else (k.getC t r j).toNat
  let p5 := (p.getD 5 0).toNat
  let xv (i : Nat) : Int := (BitVec.ofNat 6 (p5 / 2 ^ i)).toInt
  let n : Nat := if fa = 6 ∨ fa = 7 then 16 else 32
  let b (j e : Nat) : Val := if fb = 10 then (ofInt (stripSymbol al m.stripB j e)).mul (bandScale (p5 / 2 ^ 16 % 2 ^ 16))
    else stripVal fb (xv 40) (p5 / 2 ^ 16 % 2 ^ 16) m.stripB j e
  let x (r j e : Nat) : Val := (stripVal fa (xv 32) (p5 % 2 ^ 16) m.stripA r e).mul (b j e)
  let y (j e : Nat) : Int := if fb = 10 then stripSymbol al m.stripB j e else stripInt fb m.stripB j e
  let total (f : Nat → Val) : Val := if n = 16 then rootOf f else addUpTo f 32
  let codes : Prop := alphabetOk al ∧
    ∀ i < 64 * ((32 + alGroup al - 1) / alGroup al), badCode al (stripCode al m.stripB i) → alSubst al
  let floats : Prop := (fa ≤ 5 ∧ (fb ≤ 5 ∨ (fb = 10 ∧ codes))) ∨ (fa = 6 ∧ fb = 6) ∨ (fa = 7 ∧ fb = 7)
  let pos (v : Val) : Val := match v with | .nan => .nan | v => if v.pos then v else .fin false 0 0
  let gain (t r j by_ : Nat) : BitVec 16 := BitVec.ofNat 16 (min 65535 (cnt t r j + by_))
  ((∀ y ∈ quadrantQueue s die core quad, ¬ (y.started ∧ y.held = none)) → exec i s = .next s) ∧
  (executes s die core quad m → m.op = .mloop desc p al → (s.quad die core quad).res = .sound →
    (p.getD 4 0).toNat ≤ m.progress + 1 →
    (fa = 8 ∨ fa = 9 → fb = 8 ∨ fb = 9 ∨ (fb = 10 ∧ codes) → engineEnds i s m fun k k' => tileBecomes k k' m.d
      (fun r j =>
        let t := (acc m.d r j).toInt + sumUpTo (fun e => (stripInt fa m.stripA r e - m.zps.getD r 0) * y j e) 32
        if on r then
          if desc.getLsbD 11 then BitVec.ofInt 32 (max (-2 ^ 31) (min (2 ^ 31 - 1) t)) else BitVec.ofInt 32 t
        else k.getT m.d r j) (k.getC m.d) (k.getTs m.d).split) ∧
    (floats → desc.getLsbD 13 = false → engineEnds i s m fun k k' => tileBecomes k k' m.d
      (fun r j => if on r then toF32 ((f32 (acc m.d r j)).add (total (x r j))) else k.getT m.d r j)
      (k.getC m.d) (k.getTs m.d).split) ∧
    (floats → desc.getLsbD 13 → engineEnds i s m fun k k' => ∃ k1,
      tileBecomes k k1 m.d
        (fun r j => if on r then toF32 ((f32 (acc m.d r j)).add (total fun e => pos (x r j e))) else k.getT m.d r j)
        (fun r j => if on r then gain m.d r j ((List.range n).filter fun e => (x r j e).pos).length else k.getC m.d r j)
        (k.getTs m.d).split ∧
      tileBecomes k1 k' (m.d + 1)
        (fun r j => if on r then toF32 ((f32 (acc (m.d + 1) r j)).add (total fun e => pos (x r j e).neg))
          else k.getT (m.d + 1) r j)
        (fun r j => if on r then gain (m.d + 1) r j ((List.range n).filter fun e => (x r j e).neg.pos).length
          else k.getC (m.d + 1) r j)
        (k.getTs (m.d + 1)).split))

/-- Answers to walks, invalidations and refills (R83, R85, R90, R95, R98, R101, R103, R100, R104, R114, R121, R188).
Points in it that are the model's choice or reading: log entries 9, 35, 42. -/
def Obligations.TranslationEvents : Prop :=
  walksEnd ∧ invalidationsEnd ∧ framesGranted

/-- The Cooper's events (R137 to R143, R151, R395). A request behind a fill of its index waits. A fill request to an address out
of reach or to a blocked index ends with an abort completion, a hit changes nothing, and a miss starts a fill, a dirty victim
going to LPDDR; an error of one symbol is counted, one of two drops a clean sector or blocks the index. A write-back puts the 64
bytes into the Cooper and marks the sector dirty. A fill that is done holds what LPDDR holds after the sector's writes. The
Chandler releases an index with its sector in reset state, and READY reports the Cooper once, when all are in reset state. That the
bytes of a released index read as LPDDR holds them is the model's choice (log entry 46). -/
def Obligations.CooperServes : Prop := ∀ (pa sym die slot n off : Nat) (s : State),
  let part := s.ownerOf pa
  let p := s.coopPos part pa
  let x := s.sector p.die p.slot
  let d := s.die p.die
  let burst := pa / 64 % 32
  let hit : Prop := x.v ∧ x.tag = p.tag
  let busy : Prop := ∃ f ∈ d.coopFills, f.slot = p.slot
  let i : Instr := .cooperFillRequest pa sym
  let j : Instr := .cooperWritebackRequest pa
  let a := pa / 64 * 64
  let waits (wb : Bool) (y : Nat) : Host.Outcome State Fault Refusal := .next (s.modDie p.die fun d =>
    { d with coopReqs := d.coopReqs ++ [{ slot := p.slot, pa := pa, wb := wb, sym := y }] })
  let nd := (s.part (s.partOfDie die)).dies.length
  let rank := ((s.part (s.partOfDie die)).dies.findIdx? (· == die)).getD 0
  let held := sectorAddr ((s.sector die slot).tag * s.coopSectors (s.partOfDie die) + slot * nd + rank)
  (region pa = .lpddr n off →
    (s.reach part pa = false → exec i s = .next { s with outbox := s.outbox ++ [.abort] }) ∧
    (s.reach part pa → busy → exec i s = waits false sym) ∧
    (s.reach part pa → ¬ busy → p.slot ∈ d.blocked → exec i s = .next { s with outbox := s.outbox ++ [.abort] }) ∧
    (s.reach part pa → p.slot ∉ d.blocked → ¬ busy → d.coopDamage = [] →
      (hit → sym = 0 → nothing i s) ∧
      (hit → sym = 1 → exec i s = .next (s.modDie p.die fun d => { d with corrected := d.corrected + 1 })) ∧
      (¬ hit → sym = 0 → ∃ t, exec i s = .next t ∧ CachesOnly s t ∧ (t.sector p.die p.slot).v = false ∧
        (t.die p.die).coopFills = d.coopFills ++ [{ slot := p.slot, sector := p.n }] ∧
        (t.die p.die).coopWrites = d.coopWrites ++ if x.v ∧ x.d then
          [{ slot := p.slot, sector := x.tag * s.coopSectors part + p.index }] else []) ∧
      (hit → sym = 2 → d.blocked.length < 16 → ∃ t, exec i s = .next t ∧ t.mem = s.mem ∧
        t.irqs = s.irqs ++ [.cooperError p.die p.slot] ∧ t.outbox = s.outbox ++ [.abort] ∧
        (burst ≠ 0 → x.d = false → (t.sector p.die p.slot).v = false) ∧
        (burst = 0 ∨ x.d → (t.die p.die).blocked = d.blocked ++ [p.slot]))) ∧
    (∀ l, d.l2Find (pa / 256) = some l → l.dirty.testBit (pa / 64 % 4) →
      (busy → exec j s = waits true 0) ∧
      (¬ busy → p.slot ∉ d.blocked → d.coopDamage = [] → d.lost = [] →
        ∃ t, exec j s = .next t ∧ CachesOnly s t ∧ (∀ k < 64, mget 0 t.low (a + k) = mget 0 s.l2m (a + k)) ∧
          (t.sector p.die p.slot).d ∧ ∃ l', (t.die p.die).l2Find (pa / 256) = some l' ∧
            ∀ k < 4, l'.dirty.testBit k = (l.dirty.testBit k && decide (k ≠ pa / 64 % 4)))) ∧
    ((∀ l, d.l2Find (pa / 256) = some l → l.dirty.testBit (pa / 64 % 4) = false) → nothing j s)) ∧
  ((s.die die).coopFills.find? (fun f => f.slot == slot) = none → nothing (.cooperLpddrFillDone die slot) s) ∧
  (∀ f, (s.die die).coopFills.find? (fun f => f.slot == slot) = some f → (s.die die).coopReqs = [] →
    (s.die die).coopDamage = [] → ∃ t,
    exec (.cooperLpddrFillDone die slot) s = .next t ∧ CachesOnly s t ∧
      (t.die die).coopFills = (s.die die).coopFills.filter (fun f => f.slot != slot) ∧
      t.sector die slot = { tag := f.sector / s.coopSectors (s.partOfDie die), v := true, d := false } ∧
      ∀ k < 2048, mget 0 t.low (sectorAddr f.sector + k) =
        if (s.die die).coopWrites.any (fun w => w.sector == f.sector) then mget 0 s.low (sectorAddr f.sector + k)
        else mget 0 s.lpd (sectorAddr f.sector + k)) ∧
  (∃ t, exec (.cooperLpddrWriteDone die slot) s = .next t ∧ CachesOnly s t ∧ t.low = s.low ∧
    (t.die die).coopWrites = (s.die die).coopWrites.filter (fun w => !(w.slot == slot)) ∧
    ∀ w ∈ (s.die die).coopWrites, w.slot = slot → ∀ k < 2048,
      mget 0 t.lpd (sectorAddr w.sector + k) = mget 0 s.low (sectorAddr w.sector + k)) ∧
  (slot ∉ (s.die die).blocked → nothing (.cooperIndexRelease die slot) s) ∧
  (slot ∈ (s.die die).blocked → ∃ t, exec (.cooperIndexRelease die slot) s = .next t ∧
    t.sector die slot = {} ∧ (t.die die).blocked = (s.die die).blocked.filter (· != slot) ∧
    ∀ b, (b < held ∨ held + 2048 ≤ b → t.byte b = s.byte b) ∧
      (held ≤ b → b < held + 2048 → mget 0 t.low b = mget 0 t.lpd b ∧
        ((∀ e ∈ s.dies, ∀ l ∈ e.2.l2, l.line ≠ b / 256) → (∀ e ∈ s.cores, ∀ l ∈ e.2.l1, l.line ≠ b / 64) →
          t.byte b = mget 0 t.lpd b))) ∧
  (s.ready.getLsbD 0 = false ∨ s.ready.getLsbD 34 → nothing .cooperReady s) ∧
  (s.ready.getLsbD 0 → s.ready.getLsbD 34 = false → ∃ t, exec .cooperReady s = .next t ∧ t.mem = s.mem ∧
    t.ready = s.ready ||| BitVec.ofNat 64 (2 ^ 34) ∧
    ∀ d, (t.die d).cooper = [] ∧ (t.die d).blocked = [] ∧ (t.die d).coopWrites = [] ∧ (t.die d).coopFills = [] ∧
      (t.die d).coopReqs = [])

/-- The events of L2 and L1 lines (R138, R149 to R153, R155, R167, R383, R398). A slice's fill request out of reach or to a
withheld line ends with an abort completion, a hit sends the line and changes nothing that loads see, a miss waits for the fill.
A line that arrives sound is held by its home slice and sent; with three to six wrong symbols it is withheld, and the Chandler is
told. A write-back brings the dirty bytes of an L1 line to the home slice. A recall performs the partial results of a line in
ascending die order, FADD on every element. A row spare rewrites the withheld lines of the row that bytes are given for and withholds
them no longer; a line of the row that the Chandler finds not readable is withheld and reported. -/
def Obligations.LinesMove : Prop := ∀ (pa sym die core line n off no b : Nat) (h : BitVec 2) (fix : List Byte) (s : State),
  let part := s.ownerOf pa
  let home := s.homeDie part pa
  let taker : Taker := .slice no
  let i : Instr := .l2FillRequest { taker := taker, pa := pa } h
  let j : Instr := .l2FillDone pa sym
  let sends (t u : State) (a : Nat) : Prop := CachesOnly t u ∧ ∃ hdr data, u.fabric = t.fabric ++
    [.block (s.homeDie part a * 128 + sliceOf a) taker hdr data ((data.length + 31) / 32)]
  let ls := ((s.withheld.filter fun l => decide (256 * l < pa + n) && decide (pa < 256 * l + 256)).mergeSort
    fun a b => decide (a ≤ b)).take ((fix.length + 255) / 256)
  let us := s.updates.filter fun u => u.line == line
  let parts (u : Upd) : List (Nat × W64) :=
    let w := if u.w64 then 8 else 4
    if u.op = .fadd then (List.range (256 / w)).map fun k => (w * k,
      mget (BitVec.ofNat 64 (identOf u.op (8 * w))) u.parts (w * k))
    else u.parts
  (isRemote pa → nothing i s) ∧
  (isRemote pa = false →
    (s.reach part pa = false ∨ pa / 256 ∈ s.withheld → exec i s = .next { s with outbox := s.outbox ++ [.abort] }) ∧
    (s.reach part pa → pa / 256 ∉ s.withheld → (∀ u ∈ s.updates, u.line ≠ pa / 256) →
      (((s.die home).l2Find (pa / 256)).isSome →
        ∃ t, exec i s = .next t ∧ sends s t pa ∧ t.low = s.low ∧ t.l2m = s.l2m) ∧
      ((s.die home).l2Find (pa / 256) = none → exec i s = .next (s.modDie home fun d =>
        { d with l2Fills := d.l2Fills ++ [{ line := pa / 256, hint := h.toNat, taker := taker, pa := pa }] })))) ∧
  ((∀ f ∈ (s.die home).l2Fills, f.line ≠ pa / 256) → nothing j s) ∧
  (∀ f, (s.die home).l2Fills.filter (fun f => f.line == pa / 256) = [f] → f.taker = taker → f.pa / 256 = pa / 256 →
    region pa = .hbm die off → pa / 256 ∉ s.withheld → (s.die home).l2Find (pa / 256) = none →
    let u := s.modDie home fun d => { d with l2Fills := d.l2Fills.filter fun x => x.line != pa / 256 }
    (sym = 0 → s.Quiet → ∃ t, exec j s = .next t ∧ sends u t f.pa ∧
      (f.hint ≠ 3 → ((t.die home).l2Find (pa / 256)).isSome)) ∧
    (3 ≤ sym → sym ≤ 6 → exec j s = .next { u with
      withheld := s.withheld ++ [pa / 256], irqs := s.irqs ++ [.memoryError (pa / 256)]
      outbox := s.outbox ++ [.abort] })) ∧
  ((s.core die core).l1Find line = none → nothing (.l1Writeback die core line) s) ∧
  (∀ l, (s.core die core).l1Find line = some l → s.Quiet → ∃ t, exec (.l1Writeback die core line) s = .next t ∧
    CachesOnly s t ∧ (t.core die core).l1Find line = some { l with mask := 0 } ∧
    ∀ k < 64, l.mask.testBit k → mget 0 t.l2m (64 * line + k) = s.byte (64 * line + k)) ∧
  (∃ t, exec (.updateCopyRecall line) s = .next t ∧ t.updates = s.updates.filter (fun u => u.line != line) ∧
    (line ∉ s.withheld → s.Quiet → (∀ n off, region (256 * line) ≠ .lpddr n off) →
      t.mem = (List.range 8).foldl (fun m d =>
        match us.find? fun u => u.die == d with
        | none => m
        | some u =>
          let w := if u.w64 then 8 else 4
          (parts u).foldl (fun m e =>
            storeN m (256 * line + e.1) (aluOp u.op (8 * w) (loadN m (256 * line + e.1) w) e.2.toNat) w) m) s.mem) ∧
    (line ∈ s.withheld → t.mem = s.mem)) ∧
  (ls.Nodup → s.Quiet → ∃ t, exec (.hbmRowSpare pa n fix) s = .next t ∧ t.withheld = s.withheld.filter (fun l => l ∉ ls) ∧
    (∀ k < ls.length, ∀ b < 256, t.byte (256 * ls.getD k 0 + b) = fix.getD (256 * k + b) 0) ∧
    ∀ a, a / 256 ∉ ls → t.byte a = s.byte a) ∧
  (region pa = .hbm die off → region (die * 2 ^ 38 + 64 * b) = .hbm die (64 * b) → (s.die die).damage = [(b, sym)] → 3 ≤ sym →
    sym ≤ 6 → off ≤ 64 * b → 64 * b + 64 ≤ off + n → (die * 2 ^ 38 + 64 * b) / 256 ∉ s.withheld →
    ∃ t, exec (.hbmRowSpare pa n []) s = .next t ∧ t.withheld = s.withheld ++ [(die * 2 ^ 38 + 64 * b) / 256] ∧
      t.irqs = s.irqs ++ [.memoryError ((die * 2 ^ 38 + 64 * b) / 256)] ∧ (t.die die).damage = [] ∧ t.mem = s.mem)

/-- Replicated pages, peers, the host and the fabric (R144 to R146, R156, R160, R304, R388, R390, R392). A replicated store
waits for the acknowledgements of all dies, given in the sequencer's order, and then every replica holds it. Peers load
the bytes of a line, store, modify and swap at the home slice, and the host loads and stores HBM within a line; an access of another
size or beyond the module's own store ends with an abort completion. That peers load whole registers, and that every other access of
theirs to registers ends with an abort completion, is the model's reading (log entry 21). A host write to the flag window ends each WAITC on
its line whose condition it meets. A transfer that fails its parity delivers nothing and ends its request with an abort
completion. -/
def Obligations.OutsideReachesMemory : Prop := ∀ (part pa n rid die slice no : Nat) (v v2 : BitVec 64) (w : BitVec 512) (hdr : BitVec 16)
    (payload : List Byte) (bad : List Nat) (s : State),
  let p := s.part part
  let sized : Prop := (n = 1 ∨ n = 2 ∨ n = 4 ∨ n = 8) ∧ pa % n = 0
  let r : RStore := { rid := s.seq, off := pa % 2 ^ 38, n := n, v := v.setWidth 512 }
  let all : Prop := ∀ d ∈ p.dies, s.reach part (d * 2 ^ 38 + pa % 2 ^ 38)
  let peer (o : PeerOp) : Instr := .peerAccessArrival o pa n v v2
  let whole : Nat := if n ≤ 64 then 64 else 256
  let loads : Prop := n ≠ 0 ∧ pa % whole + n ≤ whole
  let stores : Prop := n ≠ 0 ∧ n ≤ 8 ∧ pa % 64 + n ≤ 64
  let own := s.ownerOf pa
  let old := loadN s.mem pa n
  let answers (i : Instr) (a : Answer) (w : Option Nat) : Prop := ∃ u, exec i s = .next u ∧
    CachesOnly { s with mem := writeIf s.mem pa n w, outbox := s.outbox ++ [a] } u
  let gives (i : Instr) (val : Nat) (w : Option Nat) : Prop := answers i (.value n (BitVec.ofNat 64 val)) w
  let bytes (val : Nat) : Answer := .data ((List.range n).map fun k => BitVec.ofNat 8 (val / 256 ^ k))
  let host (st : Bool) : Instr := .cxlMemAccess part st pa n w
  let inLine : Prop := n ≠ 0 ∧ pa % 64 + n ≤ 64
  let dropped (i : Instr) : Prop := exec i s = .next { s with outbox := s.outbox ++ [.abort] }
  (¬ sized → nothing (.replicatedStore part pa n v) s) ∧
  (sized → ¬ all → dropped (.replicatedStore part pa n v)) ∧
  (sized → all → exec (.replicatedStore part pa n v) s = .next (({ s with seq := s.seq + 1 } : State).modPart part fun p =>
    { p with repl := p.repl ++ [r] })) ∧
  (p.repl.find? (fun x => x.rid == rid) = none → nothing (.replicaAck part rid die) s) ∧
  (∀ before x after, p.repl = before ++ x :: after → x.rid = rid → (∀ y ∈ before, y.rid ≠ rid) →
    (die ∉ p.dies ∨ die ∈ x.acks ∨ (∃ y ∈ before, die ∉ y.acks) → nothing (.replicaAck part rid die) s) ∧
    (die ∈ p.dies → die ∉ x.acks → (∀ y ∈ before, die ∈ y.acks) →
      ((∃ d ∈ p.dies, d ≠ die ∧ d ∉ x.acks) → exec (.replicaAck part rid die) s = .next (s.modPart part fun p =>
        { p with repl := p.repl.map fun y => if y.rid = rid then { x with acks := x.acks ++ [die] } else y })) ∧
      ((∀ d ∈ p.dies, d ≠ die → d ∈ x.acks) → p.dies.Nodup → x.off + x.n ≤ 2 ^ 38 → s.Quiet →
        (∀ d ∈ p.dies, s.reach part (d * 2 ^ 38 + x.off) ∧ (d * 2 ^ 38 + x.off) / 256 ∉ s.withheld ∧
          ∀ u ∈ s.updates, u.line ≠ (d * 2 ^ 38 + x.off) / 256) →
        ∃ t, exec (.replicaAck part rid die) s = .next t ∧ (t.part part).repl = p.repl.filter (fun y => y.rid != rid) ∧
        ∀ d ∈ p.dies, loadN t.mem (d * 2 ^ 38 + x.off) x.n = x.v.toNat % 256 ^ x.n))) ∧
  (isRemote pa → ∀ o, dropped (peer o)) ∧
  ((∀ off, region pa ≠ .regs off) → (¬ loads → dropped (peer .load)) ∧ (¬ stores → dropped (peer .store)) ∧
    (¬ sized → dropped (peer .cas) ∧ ∀ o, dropped (peer (.atom o)) ∧ dropped (peer (.red o)))) ∧
  (s.Serves own pa → (loads → answers (peer .load) (if 8 < n then bytes old else .value n (BitVec.ofNat 64 old)) none) ∧
    (stores → s.Unwatched pa n → s.replicated own pa = false → gives (peer .store) 0 (some v.toNat))) ∧
  (sized → s.Serves own pa →
    (s.Unwatched pa n → (∀ o, gives (peer (.atom o)) old (some (aluOp o (8 * n) old v.toNat)) ∧
      gives (peer (.red o)) 0 (some (aluOp o (8 * n) old v.toNat))) ∧
      gives (peer .cas) old (if old = v.toNat then some v2.toNat else none))) ∧
  (∀ off, region pa = .regs off →
    (∀ o, o ≠ .load → dropped (peer o)) ∧
    (n = 8 → pa % 8 = 0 → off < 2 ^ 28 → s.ready.getLsbD 1 → exec (peer .load) s = .next { s.regLatch .peer off with
      outbox := s.outbox ++ [.value 8 (s.regRead .peer off)] })) ∧
  (¬ inLine → ∀ st, nothing (host st) s) ∧
  (inLine → s.ready.getLsbD 1 = false ∨ (∀ d off, region pa ≠ .hbm d off) → ∀ st, dropped (host st)) ∧
  (inLine → s.ready.getLsbD 1 → (∃ d off, region pa = .hbm d off) → s.Serves part pa →
    answers (host false) (bytes old) none ∧
    (s.Unwatched pa n → s.replicated part pa = false → answers (host true) (bytes 0) (some w.toNat))) ∧
  (s.inFlagWindow part pa = false ∨ ¬ sized → nothing (.cxlCacheInvalidation part pa n v) s) ∧
  (s.inFlagWindow part pa → sized → (s.groups.map (·.1)).Nodup → ∃ t,
    exec (.cxlCacheInvalidation part pa n v) s = .next t ∧ t.low = storeN s.low pa v.toNat n ∧ t.mem = s.mem ∧
      (t.die (s.homeDie part pa)).l2Find (pa / 256) = none ∧
      ∀ g sl q k w d dl nx ar, (s.grp? g).isSome → (s.reqOf g).part = part →
        ((s.grp g).b.slot sl).wait = .cond q k w d dl nx ar true → q / 64 = pa / 64 →
        (meets k (BitVec.ofNat 64 (loadN t.low q 8)) w → ((t.grp g).b.slot sl).wait = .none ∧
          ((t.grp g).b.slot sl).pc = ((s.grp g).b.slot sl).pc + 4) ∧
        (¬ meets k (BitVec.ofNat 64 (loadN t.low q 8)) w → (t.grp g).b.slot sl = (s.grp g).b.slot sl)) ∧
  (bad ≠ [] → exec (.flitTransferReceive slice (.slice no) hdr payload bad) s = .next { s with
    irqs := s.irqs ++ [.fabricError slice (.slice no)], outbox := s.outbox ++ [.abort] }) ∧
  (hdr.toNat = 2 ^ 15 → payload.length = 64 → ∀ taker, exec (.flitTransferReceive slice taker hdr payload []) s =
    .next { s with outbox := s.outbox ++ [.block payload] })

/-- Monitors and polls end waits, stack caches spill and fill (R161, R165, R307, R176, R178). Points in it that are the
model's choice or reading: log entries 12, 25, 57. -/
def Obligations.WaitsEndAndStacksMove : Prop :=
  waitsEnd ∧ stackMoves

/-- ABORT_COMPLETION, PEER_LINK_FAILURE, CXL_LINK_ERROR, REMOTE_ACCESS_RESPONSE and ILLEGAL_INSTRUCTION_WORD (R41, R95, R297,
R298, R383, R387, R388, R395): a group that consumes an abort completion has its gang killed with class ABORT, and an error of its
core's SRAM is reported to the Chandler; a failed peer link drops the group's oldest access to a peer with one, and a port that
is down is ready no longer; a host-link error ends every access of the partition on its way to the host, each group losing one, and
the host's own requests that are held; an answer performs an access of the group at its destination and in every copy that the module
keeps of the line. Which accesses a host-link error ends, and that an answer is that of the oldest access on its way, are the model's
reading (log entries 54 and 39). A word that is no instruction raises ILL with itself as detail, and ends
run-ahead with cause 4. -/
def Obligations.AccessesAreLost : Prop := ∀ (g : GId) (part key flat j port : Nat) (sram down : Bool) (l : Launch) (w : BitVec 32) (s : State),
  let killed (i : Instr) (u : State) (rs : List Remote) : Prop := g = .grp key flat j → (s.grp? g).isSome →
    (s.grp g).run ≠ .exited → s.launch? key = some l → l.ended = none →
    ∃ t, exec i s = .next t ∧ gangKilled u t key flat l 11 1 ∧ t.remote = rs
  let lost (r : Remote) : Bool := r.dest == 0 && (s.reqOf r.g).part == part
  let mine (x : OutAcc) : Bool := x.host && x.part == part
  let at_ := s.whereIs g
  let told : State := if sram then { s with irqs := s.irqs ++ [.sramError at_.1 at_.2.1] } else s
  let abort : Instr := .abortCompletion { g := g, sram := sram }
  let fail : Instr := .peerLinkFailure { g := g, port := port, down := down }
  let off : State := if down ∧ port < 24 then { s with ready := s.ready &&& ~~~BitVec.ofNat 64 (2 ^ (35 + port)) } else s
  (s.grp? g = none ∨ (s.grp g).run = .exited → exec abort s = .next told) ∧
  killed abort told s.remote ∧
  (s.remote.find? (fun r => r.g == g && r.dest != 0) = none → exec fail s = .next off) ∧
  (∀ r, s.remote.find? (fun r => r.g == g && r.dest != 0) = some r → killed fail off (s.remote.erase r)) ∧
  ((∀ r ∈ s.remote, lost r = false) → exec (.cxlLinkError part) s = .next { s with
    outHeld := s.outHeld.filter fun x => !mine x
    outbox := s.outbox ++ (s.outHeld.filter mine).map (fun _ => .abort) ++ [.abort] }) ∧
  ((∃ r ∈ s.remote, lost r) → (∀ r ∈ s.remote, lost r → r.g = g) →
    killed (.cxlLinkError part) s (s.remote.filter fun r => !lost r)) ∧
  (s.remote.find? (fun r => r.g == g) = none → nothing (.remoteAccessResponse g) s) ∧
  (∀ r, s.remote.find? (fun r => r.g == g) = some r →
    let v := match r.red with
      | none => r.v.toNat
      | some op => newElement op (8 * r.n) (loadN s.low r.pa r.n) r.v.toNat
    ∃ u, exec (.remoteAccessResponse g) s = .next u ∧ CachesOnly { s with
      remote := s.remote.erase r
      low := storeN s.low r.pa v r.n
      mem := (List.range 8).foldl (fun m d =>
        if ((s.die d).l2Find (r.pa / 256)).isSome then storeN m (r.pa + (d + 1) * 2 ^ 52) v r.n else m) s.mem } u ∧
      u.low = storeN s.low r.pa v r.n) ∧
  (s.issuing = none → nothing (.illegalInstructionWord w) s) ∧
  (∀ c, s.issuing = some c →
    (c.grp.ahead = none → exec (.illegalInstructionWord w) s =
      .next (s.fail c { cls := .ill, detail := BitVec.ofNat 64 w.toNat })) ∧
    (∀ a, c.grp.ahead = some a → ∃ t a', exec (.illegalInstructionWord w) s = .next t ∧ (t.grp c.g).ahead = some a' ∧
      a'.ended.isSome ∧ (a.ended = none → a'.ended = some 4) ∧ t.mem = s.mem))

/-- Which run issues next, and how the on-core handler enters (R340, R342, R90, R374, R375, R377). Points in it that are
the model's choice or reading: log entries 31, 38. -/
def Obligations.RunsAndHandlers : Prop :=
  runsAreIssued ∧ handlersEnter

/-- Records start or are refused, and units are handed to dies (R79, R317, R321, R395, R422, R359, R324, R326, R331). -/
def Obligations.LaunchesStart : Prop :=
  launchesStart ∧ rangesAreHandedOut

/-- BLOCK_PLACE and GANG_PLACE (R20, R169, R200, R322, R324, R327 to R330) on empty cores that fit: each block of the unit stands
on its core with first-placement values, blocks of a gang in ascending order on ascending cores of the neighbourhood; each
group starts at entry with all lanes and its own stack, and of the only block of a core the groups go round the
quadrants; the core has the P of the launch, and the die holds the unit. Only the unit whose turn it is is placed, on the 192
cores in use, and none while a unit of higher priority fits, or an unstarted one while one that was pre-empted waits, nor on a core
that is kept for another unit, for whose P it was emptied (log entry 33). -/
def Obligations.UnitsArePlaced : Prop := ∀ (k unit die place : Nat) (l : Launch) (s : State), s.launch? k = some l →
  let i : Instr := if l.hasGang then .gangPlace k unit die place else .blockPlace k unit die place
  let j : Instr := if l.hasGang then .blockPlace k unit die place else .gangPlace k unit die place
  let cores := if l.hasGang then (s.nbhd die place).take l.gspread else [s.physCore die place]
  let per := if l.hasGang then l.gangSize / l.gspread else 1
  let far : Prop := (if l.hasGang then 24 else 192) ≤ place
  let free (c : Nat) : Prop := (∀ e ∈ s.blocks, e.2.place ≠ .core die c ∧ e.2.place ≠ .leaving die c) ∧
    (s.core die c).fenced = false
  let kept : Prop := ∃ w, s.wanted die (s.physCore die place) = some w ∧ w ≠ (k, unit)
  nothing j s ∧
  (l.hasGang = false → 0 < l.gangSize → kept → nothing i s) ∧
  (l.ended.isSome ∨ l.nextFor die ≠ some unit ∨ s.outranked k die ∨ s.behind k unit die ∨ far → nothing i s) ∧
  (l.ended = none → l.nextFor die = some unit → s.outranked k die = false → s.behind k unit die = false → ¬ far →
    s.ready.toNat.testBit (2 + die) → die ∉ s.fencing → s.Quiet → s.partOfDie die = l.part → cores.Nodup →
      (∀ c ∈ cores, free c ∧ (s.core die c).want = none) → per * cores.length = l.gangSize → 0 < l.gangSize →
    l.fitsEmpty per → (∀ f, s.block? ⟨k, f⟩ = none ∧ ∀ m, s.grp? (.grp k f m) = none) →
    ∃ t, exec i s = .next t ∧ t.mem = s.mem ∧ (unit, die) ∈ (t.launch k).held ∧ (∀ e ∈ (t.launch k).handed, e.1 ≠ unit) ∧
      (∀ c ∈ cores, (t.core die c).p = l.pFor) ∧
      ∀ b < l.gangSize, let f := unit * l.gangSize + b
        (∃ x, t.block? ⟨k, f⟩ = some x ∧ x.place = .core die (cores.getD (b / per) 0) ∧ x.scratch = [] ∧ x.tile = [] ∧
          x.cnt = [] ∧ x.drafts = [] ∧ x.staged = [] ∧ x.exited = false ∧ ∀ n < 8, x.getAl n =
            if l.record.getD (14 + n) 0 = 0 then 0x00FF020000000000 else l.record.getD (14 + n) 0) ∧
        ∀ m < l.groupsPerBlock, ∃ r, t.grp? (.grp k f m) = some r ∧ r.run = .running ∧ r.idx1 = m ∧ r.valloc = l.valloc ∧
          r.priv = false ∧ r.b.slotA = { pc := l.record.getD 1 0, lanes := BitVec.allOnes 64 } ∧ r.b.slotB = {} ∧
          r.b.stkbase = l.record.getD 12 0 + BitVec.ofNat 64 ((f * l.groupsPerBlock + m) * l.field 13 0 32) ∧
          r.b.stklim = r.b.stkbase + BitVec.ofNat 64 (l.field 13 0 32) ∧ r.quad < 4 ∧ r.rslot < 8 ∧
          (per = 1 → r.quad = m % 4 ∧ r.rslot = m / 4))

/-- PREEMPT, PREEMPT_SPILL, COMPACT_CORE, UNIT_RETIRE, LAUNCH_CANCEL and MACHINE_CHECK_CLEAR (R183, R320, R325, R330, R344, R345,
R375, R422). A resident unit of a pre-emptible launch leaves its cores with its registers as they were, at once or when the
handler at work for it has left, a waiting TAKE, BAR, GBAR or AWAIT being cancelled (R292, R348); its images written, it is to be
placed again. A core held by one such unit, whose P does not suit a waiting unit, is emptied likewise and kept for that unit, which
is the model's reading (log entry 33). Stated where no CKPT waits. A unit whose blocks have exited and whose accesses and engines are quiet retires, and
with the last one the launch ends with status 1. A cancelled launch ends with status 4, its blocks and groups gone. -/
def Obligations.UnitsLeave : Prop := ∀ (k unit die core part : Nat) (l : Launch) (s : State), s.launch? k = some l →
  let out : Instr := .preempt k unit
  let spill : Instr := .preemptSpill k unit
  let retire : Instr := .unitRetire k unit
  let bs := (l.blocksOf unit).map fun f => (⟨k, f⟩ : BId)
  let on := s.unitsOn die core
  let mine (g : GId) : Prop := isHdl g = false ∧ bidOf g ∈ bs
  let onCores : Prop := ∀ b ∈ bs, ∃ d c, (s.block b).place = .core d c ∧ ∀ e ∈ s.blocks, e.2.place ≠ .leaving d c
  let leaves (b : BId) : Prop := ∃ d c, (s.block b).place = .leaving d c
  let quiet (b : BId) : Prop := ∀ x ∈ s.copies, x.bid = b → x.held.isSome
  let landed (b : BId) : Prop := ∀ e ∈ s.groups, isHdl e.1 = false → bidOf e.1 = b → ∀ sl, (e.2.b.slot sl).loads = false
  let done (b : BId) : Prop := (s.block? b).isSome ∧ (s.block b).exited ∧ quiet b ∧ (l.grade = 1 → b.flat < l.miller) ∧
    (∀ r ∈ s.remote, bidOf r.g = b → isHdl r.g) ∧ ∀ m ∈ s.matq, bidOf m.g = b → isHdl m.g
  (l.pre = false ∨ l.ended.isSome ∨ ¬ onCores → nothing out s) ∧
  (l.pre → l.ended = none → onCores →
    (s.handlerBusy bs → (∀ p ∈ s.pends, ¬ (p.launch = k ∧ p.unit = unit ∧ p.by_ = none)) →
      exec out s = .next { s with pends := s.pends ++ [{ launch := k, unit := unit, since := s.cycle }] }) ∧
    (s.handlerBusy bs = false → (∀ m ∈ s.matq, ¬ mine m.g) → (∀ p ∈ s.pends, p.by_ = none) →
      (∀ g r, mine g → s.grp? g = some r → r.ahead = none ∧ ∀ sl n, (r.b.slot sl).wait ≠ .engine n) →
      ∃ t, exec out s = .next t ∧ t.mem = s.mem ∧
        (∀ g r, mine g → s.grp? g = some r → t.grp? g = some { r with b := r.b.cancel }) ∧
        (∀ g, isHdl g = false → ¬ mine g → (∀ sl d, ((s.grp g).b.slot sl).wait ≠ .prio d) → t.grp? g = s.grp? g) ∧
        (∀ b ∈ bs, ∀ d c, (s.block b).place = .core d c → (t.block b).place = .leaving d c) ∧
        (∀ d c, ∀ q < 4, ∀ g, mine g → (t.quad d c q).prio ≠ some g ∧ g ∉ (t.quad d c q).traps))) ∧
  ((∃ b ∈ bs, ¬ leaves b ∨ ¬ quiet b ∨ ¬ landed b) → nothing spill s) ∧
  ((∀ b ∈ bs, leaves b ∧ quiet b ∧ landed b) → ∃ t, exec spill s = .next t ∧
    (∀ b ∈ bs, ∃ im, t.block b = { s.block b with place := .image, image := some im }) ∧
    unit ∈ (t.launch k).again ∧ t.mem = s.mem ∧ ∀ g, t.grp? g = s.grp? g) ∧
  (on = [] ∨ (∃ u ∈ on, (s.launch u.1).pre = false) ∨ s.compactFor die core = none → nothing (.compactCore die core) s) ∧
  (on = [(k, unit)] → l.pre → ∀ w, s.compactFor die core = some w → ∃ t, exec out s = .next t ∧
    exec (.compactCore die core) s = .next (t.modCore die core fun c => { c with want := some w })) ∧
  (∀ w, s.compactFor die core = some w → ∃ e ∈ s.launches, e.1 = w.1 ∧ e.2.ended = none ∧ e.2.nextFor die = some w.2 ∧
    s.roomFor w.1 w.2 die = none ∧
    (s.core die core).p < (if e.2.pre then 2 else 1) * ((if e.2.hasGang then e.2.gangSize / e.2.gspread else 1) * e.2.scratch)) ∧
  ((∀ e ∈ l.held, e.1 ≠ unit) ∨ (∃ b ∈ bs, (s.block b).exited = false) → nothing retire s) ∧
  ((∃ d, (unit, d) ∈ l.held) → l.ended = none → (∀ b ∈ bs, done b) → ∃ t, exec retire s = .next t ∧
    (t.launch k).retired = l.retired ++ [unit] ∧ (∀ b ∈ bs, t.block? b = none) ∧ (∀ g, mine g → t.grp? g = none) ∧
    (l.retired.length + 1 = l.units → (t.launch k).ended = some { status := 1, reason := 0 }) ∧
    (l.retired.length + 1 ≠ l.units → (t.launch k).ended = none ∧ (t.launch k).held = l.held.filter fun e => e.1 != unit)) ∧
  (l.ended.isSome → nothing (.launchCancel k) s) ∧
  (l.ended = none → ∃ t, exec (.launchCancel k) s = .next t ∧ (t.launch k).ended = some { status := 4, reason := 0 } ∧
    (t.launch k).retired = l.retired ∧ (t.launch k).held = [] ∧ (∀ f, t.block? ⟨k, f⟩ = none) ∧
    (∀ f m, (s.block? ⟨k, f⟩).isSome → t.grp? (.grp k f m) = none) ∧
    ((t.launch k).disc ↔ l.disc ∨ ∃ e ∈ s.blocks, e.1.launch = k ∧ e.2.staged ≠ []) ∧ ∀ h, h ≠ k → t.launch h = s.launch h) ∧
  exec (.machineCheckClear part) s = .next (s.modPart part fun p => { p with halted := false })

/-- Staged lists are released in order, and a completion record says how a launch ended (R349, R353, R354, R320). -/
def Obligations.ListsAndCompletions : Prop :=
  listsAreReleased ∧ endsAreReported

/-- The host moves rings, replies to calls, pops and releases records (R382, R389, R395, R373, R380). Points in it that
are the model's choice or reading: log entries 37, 53. -/
def Obligations.HostQueuesAndReplies : Prop :=
  ringsAreWritten ∧ hostPopsAndReleases

/-- The register block takes values in range, and the monitors count (R389, R391, R237, R387, R396). Points in it that
are the model's choice or reading: log entries 37, 42, 60. -/
def Obligations.HostRegistersAndMonitors : Prop :=
  registersAreWritten ∧ monitorsCount

/-- POWER_ON_BOOT, GET_MEASUREMENTS, CHALLENGE, FIRMWARE_UPDATE, THERMAL_THROTTLE and POWER_OFF (R394, R395, R399, R400). With
power off the module powers on with nothing of an earlier run in it, and boots the newer of the images whose signature verifies; with a record that verifies too, every
function but the Cooper is ready and the partitions own equal shares of the dies. An image is written to the idle bank
and runs when its signature verifies. With power off nothing of the module's state is left; host memory stays. (What
verifies, an image's number and the record's fields are free values, log entry 20.) A bank that holds an image keeps it; while
chd is not ready its services end with an abort completion; a module without power counts no throttling step. -/
def Obligations.PowerAndBoot : Prop := ∀ (record a b : List Byte) (nonce : List Byte) (s : State),
  let boot : Instr := .powerOnBoot record a b
  let ok := Config.signatureOk
  let bankA := if s.fw.bankA = [] then a else s.fw.bankA
  let bankB := if s.fw.bankB = [] then b else s.fw.bankB
  let dropped (i : Instr) : Prop := exec i s = .next { s with outbox := s.outbox ++ [.abort] }
  let pick : Option (Bool × List Byte) := match ok bankA, ok bankB with
    | true, true => if Config.imageNumber bankA < Config.imageNumber bankB then some (true, bankB) else some (false, bankA)
    | true, false => some (false, bankA)
    | false, true => some (true, bankB)
    | false, false => none
  let runs := pick.isSome && ok record
  (s.power → nothing boot s) ∧
  (s.power = false → ∃ t, exec boot s = .next t ∧ t.power ∧ t.fw.bankA = bankA ∧ t.fw.bankB = bankB ∧ t.mem = [] ∧ t.dies = [] ∧
    t.cores = [] ∧ t.launches = [] ∧ t.groups = [] ∧ (∀ x, 2 ^ 50 ≤ x → mget 0 t.low x = mget 0 s.low x) ∧
    t.fw.imageHash = (match pick with | none => [] | some x => sha256 x.2) ∧
    t.fw.runningB = (match pick with | none => false | some x => x.1) ∧
    t.ready = (if runs then BitVec.ofNat 64 (2 ^ 59 - 1 - 2 ^ 34) else 0) ∧
    (runs = false → t.parts = []) ∧
    (runs → ∃ n, (n = 1 ∨ n = 2 ∨ n = 4 ∨ n = 8) ∧ t.cfg.nparts = n ∧ 1 ≤ t.cfg.share ∧ t.cfg.share ≤ 24 ∧
      ∀ p < n, (t.part p).dies = (List.range (8 / n)).map fun j => p * (8 / n) + j)) ∧
  (s.ready.getLsbD 0 = false → dropped .getMeasurements ∧ dropped (.challenge nonce) ∧ dropped (.firmwareUpdate a)) ∧
  (s.ready.getLsbD 0 →
    exec .getMeasurements s = .next { s with outbox := s.outbox ++ [.measurements s.fw.imageHash s.fw.recordHash] } ∧
    exec (.challenge nonce) s = .next { s with
      outbox := s.outbox ++ [.challenge (Config.challengeAnswer (nonce ++ s.fw.imageHash ++ s.fw.recordHash))] } ∧
    ∃ t, exec (.firmwareUpdate a) s = .next t ∧ { t with fw := s.fw } = s ∧
      (if s.fw.runningB then t.fw.bankA = a ∧ t.fw.bankB = s.fw.bankB else t.fw.bankB = a ∧ t.fw.bankA = s.fw.bankA) ∧
      t.fw.runningB = (if ok a then !s.fw.runningB else s.fw.runningB) ∧
      t.fw.imageHash = (if ok a then sha256 a else s.fw.imageHash)) ∧
  exec .thermalThrottle s = .next (if s.power then { s with throttle := s.throttle + 1 } else s) ∧
  ∃ t, exec .powerOff s = .next t ∧ t.power = false ∧ t.ready = 0 ∧ t.parts = [] ∧ t.launches = [] ∧ t.blocks = [] ∧
    t.groups = [] ∧ t.cores = [] ∧ t.dies = [] ∧ t.mem = [] ∧ t.lpd = [] ∧
      t.fw = { bankA := s.fw.bankA, bankB := s.fw.bankB } ∧ t.cfg = {} ∧
    ∀ x, (2 ^ 50 ≤ x → mget 0 t.low x = mget 0 s.low x) ∧ (x < 2 ^ 50 → mget 0 t.low x = 0)

/-- Dies are fenced and returned, partitions rearranged, checkpoints restored (R326, R331, R375, R395, R397, R393, R385,
R386). Points in it that are the model's choice or reading: log entries 30, 43, 44. -/
def Obligations.ModuleIsRearranged : Prop :=
  diesComeAndGo ∧ moduleIsRearranged

/-- FENCE, CLEAN, INVAL, CLINV, XSET, SHADOW, PUBLISH, CKPT and the starts and ends of the engines answer a next state
(R309, R310, R311, R101, R381, R186, R188, R386, R181, R182, R267, R280). Points in it that are the model's choice or
reading: log entries 51. -/
def Obligations.InstructionsComplete : Prop :=
  wordsComplete ∧ eventsComplete

/-- A step runs the decoded word (R22, R105): with no event due and a slot that issues, when the core's TLB translates the pc for
a fetch and the four bytes there, little-endian, are a word of instruction i, the step is exec of i; bytes that are no
instruction raise ILL as ILLEGAL_INSTRUCTION_WORD does. An event at the head of the agenda runs instead, taken off, and time moves
on first, by free numbers of cycles and nanoseconds: both are the model's choice (log entries 3 and 5). Nothing else changes. -/
def Obligations.StepRunsDecodedWord : Prop := ∀ (s : State) (c : Ctx) (i : Instr) (pa : Nat) (r : List Instr),
  let u := s.tick
  let w := loadN s.mem pa 4
  (∃ n m, u = { s with free := s.free + 1, cycle := s.cycle + 1 + n, nanos := s.nanos + m }) ∧
  (s.agenda = [] → u.issuing = some c → tlbHolds c.q u c.pc.toNat .fetch pa → u.Serves c.q.part pa →
    (decode w = .ok i → ∃ v, CachesOnly u v ∧ step s = exec i v) ∧
    (∀ e, decode w = .error e → ∃ v, CachesOnly u v ∧ step s = exec (.illegalInstructionWord (BitVec.ofNat 32 w)) v)) ∧
  (s.agenda = i :: r → i.isWord = false → step s = exec i { u with agenda := r })

/-- The machine never stops: every step answers a next state, every event does in every state, and a word is refused only where
no slot issues. -/
def Obligations.NothingStops : Prop := (∀ s, ∃ t, step s = .next t) ∧
  ∀ (i : Instr) (s : State), (∃ t, exec i s = .next t) ∨ (i.isWord ∧ s.issuing = none ∧ exec i s = .fault .noIssuingSlot)

/-- The checks before a word has any effect, in the order of R41, with the word as detail: an unassigned code, a register
outside its class or a misplaced group raise ILL (steps 2 and 4), privileged code in an unprivileged group PRIV (step 5), a
vector name beyond the allocation or a tile not granted LIMIT (step 6). A word inside a lookahead window of its slot that
writes a register of it, or reads one whose result is pending, raises LOOKAHEAD (R29, R30). In run-ahead such a word ends
it with cause 4 (R95). (A container of 64 bits is an aligned pair, R214; a PUBLISH of the other slot that waits would be cancelled,
R190.) A fault of the handler's own word aborts the launch that it serves, and posts a fatal record with
hdl set (R375). -/
def Obligations.WordsAreChecked : Prop := ∀ (i : Instr) (d : Desc) (c : Ctx) (s : State), desc i = some d → s.issuing = some c →
  ∃ w, encode i = some w ∧
  let d := d.resolve (s.block c.bid)
  let wrong : Prop := d.codeOk = false ∨ ∃ u ∈ d.uses, u.classOk = false
  let priv : Prop := d.priv ∧ c.grp.priv = false ∧ ¬ (d.debugOk ∧ (s.part c.q.part).debug)
  let past : Prop := ∃ u ∈ d.uses, u.limitOk c.grp.valloc c.b.wb c.l.tiles = false
  let cls : Option FClass := open Classical in
    if wrong then some .ill else if priv then some .priv else if past then some .limit else none
  let inWindow : Prop := ∃ x ∈ c.b.wins, x.sl = c.sl ∧ 0 < x.left ∧
    ∃ u ∈ d.uses, (x.readOk = false ∨ u.writes) ∧ ∃ r ∈ u.wregs c.b.wb, r ∈ x.regs
  let alone : Prop := ∀ n, (c.b.slot (otherSlot c.sl)).wait ≠ .engine n
  let traps (f : FaultRec) : Prop := ∃ t, exec i s = .next t ∧ Trapped c f s t
  (isHdl c.g = false → c.grp.ahead = none → ∀ k, cls = some k → alone → traps { cls := k, detail := BitVec.ofNat 64 w }) ∧
  (isHdl c.g = false → c.grp.ahead = none → cls = none → inWindow → alone → traps { cls := .lookahead }) ∧
  (∀ a, c.grp.ahead = some a → a.ended = none → a.poison.wb = false → cls ≠ none → ∃ t b, exec i s = .next t ∧ (t.grp c.g).ahead = some b ∧
    b.ended = some 4 ∧ b.saved = a.saved ∧ t.mem = s.mem) ∧
  (∀ k dd kk q key flat j rest l, c.g = .hdl dd kk q → c.grp.ahead = none → cls = some k →
    (s.quad dd kk q).traps = .grp key flat j :: rest → s.launch? key = some l → l.ended = none → ∃ t, exec i s = .next t ∧
      (t.launch key).ended = some { status := 3, reason := classCode k } ∧
      ((s.part l.part).tq.length < 256 → ∃ e ∈ (t.part l.part).tq, e.2.rid = (s.part l.part).nextRid ∧ e.2.hdl ∧
        e.2.cls = k ∧ e.2.kind = .fatal ∧ e.2.epc = c.pc ∧ e.2.detail = BitVec.ofNat 64 w))

/-- Decode and encode agree (R22 to R26, R37): of every instruction word, with every operand at every value, the encoding is 32
bits and decodes to it; and every 32-bit word that decodes is the encoding of what it decodes to, so that no word has two
meanings and no instruction two words. -/
def Obligations.WordsRoundTrip : Prop := (∀ (i : Instr) (w : Nat), encode i = some w → w < 2 ^ 32 ∧ decode w = .ok i) ∧
  ∀ (w : Nat) (i : Instr), w < 2 ^ 32 → decode w = .ok i → encode i = some w

/-- Words written out bit by bit from the spec's encodings decode to what they stand for, words of reserved majors,
unassigned codes and reserved fields to nothing (R26, R38, R39, R41); a word of a reserved major raises ILL with itself as
detail, whatever its other bits hold (R38). -/
def Obligations.WordsAreRead : Prop :=
  decode 0x03214307 = .ok (.div false 5 6 7) ∧ decode 0x1E200028 = .ok (.call false 0x28) ∧
  decode 0xA0200000 = .ok (.ret true) ∧ decode 0x2400C082 = .ok (.vadd false 3 1 2) ∧
    decode 0x27A10281 = .ok (.vsel false 4 5 1) ∧
  decode 0x54028228 = .ok (.cas false 0 10 4 2 0 0) ∧ decode 0x76418200 = .ok (.arrive false 6 4) ∧
  decode 0xFE000000 = .ok (.eret true) ∧ decode 0x38000000 = .error .reservedMajor ∧
  decode 0xFFFFFFFF = .error .unassignedCode ∧ decode 0x1C400005 = .error .unassignedCode ∧
  decode 0x20000001 = .error .reservedField ∧
  ∀ w : BitVec 32, let reserved : Prop := w.toNat / 2 ^ 25 % 64 ∈ [0x1C, 0x1D, 0x1E, 0x1F, 0x2E, 0x2F, 0x37, 0x3E]
    (reserved ↔ decode w.toNat = .error .reservedMajor) ∧
    (reserved → ∀ s c, s.issuing = some c → c.grp.ahead = none →
      exec (.illegalInstructionWord w) s = .next (s.fail c { cls := .ill, detail := BitVec.ofNat 64 w.toNat }))

/-- The machine right after reset (R200, R215, R394, R395, R400): power off, no bit of READY, no partition, launch or group;
memory is canonical. Every byte, register and status reads zero, alphabet registers read bytes of one symbol, drafts the identity
(zero where the spec gives no value is the model's choice, log entries 1 and 8). -/
def Obligations.ResetIsPlain : Prop :=
  let s := State.reset
  s.power = false ∧ s.ready = 0 ∧ s.parts = [] ∧ s.launches = [] ∧ s.groups = [] ∧ s.blocks = [] ∧ s.memWf ∧
  (∀ a, s.byte a = 0) ∧ s.issuing = none ∧
  ∀ (n l : Nat) (k : Bank) (b : Block), k = {} → b = {} → k.getS n = 0 ∧ k.getP n l = 0 ∧ k.getM n = 0 ∧ k.wb = 0 ∧
    b.getAl n = 0x00FF020000000000 ∧ b.draft n l = BitVec.ofNat 8 l

/-- Every step keeps every layer of memory canonical: addresses strictly rising, no byte listed that an unlisted address reads
as. -/
def Obligations.MemoryStaysCanonical : Prop := ∀ s t : State, s.memWf → step s = .next t → t.memWf
end

