-- ==== Sys2Proof/Laws/Maps.lean ====
section
/-! SUPPORT. Read after write and canonical form for the sorted maps and keyed lists (Maps.lean). -/

namespace Sys2Proof.Machine

variable {α : Type}

/-! ## Reading -/

@[simp] theorem mget_nil (d : α) (k : Nat) : mget d [] k = d := rfl

theorem mget_append (d : α) (m n : SMap α) (k : Nat) :
    mget d (m ++ n) k = if k ∈ m.map (·.1) then mget d m k else mget d n k := by
  induction m with
  | nil => simp
  | cons e m ih =>
    obtain ⟨j, v⟩ := e
    by_cases h : j = k
    · simp [mget, h]
    · simp only [List.cons_append, mget, h, if_false, ih, List.map_cons, List.mem_cons, Ne.symm h, false_or]

theorem mget_of_not_mem (d : α) (m : SMap α) (k : Nat) (h : k ∉ m.map (·.1)) : mget d m k = d := by
  induction m with
  | nil => rfl
  | cons e m ih =>
    obtain ⟨j, v⟩ := e
    simp only [List.map_cons, List.mem_cons, not_or] at h
    simp only [mget, Ne.symm h.1, if_false]
    exact ih h.2

theorem mget_filter (d : α) (m : SMap α) (p : Nat → Bool) (k : Nat) :
    mget d (m.filter fun e => p e.1) k = if p k then mget d m k else d := by
  induction m with
  | nil => simp
  | cons e m ih =>
    obtain ⟨j, v⟩ := e
    cases hj : p j
    · by_cases h : j = k
      · subst h; simp [hj, ih]
      · simp [mget, hj, h, ih]
    · by_cases h : j = k
      · subst h; simp [mget, hj]
      · simp [mget, hj, h, ih]

theorem mem_filter_key (m : SMap α) (p : Nat → Bool) (k : Nat) :
    k ∈ (m.filter fun e => p e.1).map (·.1) ↔ p k = true ∧ k ∈ m.map (·.1) := by
  simp only [List.mem_map, List.mem_filter]
  constructor
  · rintro ⟨e, ⟨he, hp⟩, rfl⟩; exact ⟨hp, e, he, rfl⟩
  · rintro ⟨hp, e, he, rfl⟩; exact ⟨e, ⟨he, hp⟩, rfl⟩

theorem mget_mput (d : α) (m : SMap α) (k j : Nat) (v : α) :
    mget d (mput k v m) j = if k = j then v else mget d m j := by
  induction m with
  | nil => simp [mput, mget]
  | cons e m ih =>
    obtain ⟨i, w⟩ := e
    unfold mput
    split
    · simp only [mget, ih]; split <;> split <;> simp_all
    · split
      · subst_vars; simp only [mget]; split <;> rfl
      · simp only [mget]

theorem mget_mdel (d : α) (m : SMap α) (k j : Nat) : mget d (mdel k m) j = if k = j then d else mget d m j := by
  rw [mdel, mget_filter d m (fun x => x != k) j]
  by_cases e : k = j
  · simp [e]
  · simp [e, Ne.symm e]

/-- Reading after a write. -/
theorem mget_mset [DecidableEq α] (d : α) (m : SMap α) (k j : Nat) (v : α) :
    mget d (mset d m k v) j = if k = j then v else mget d m j := by
  unfold mset
  split
  · rw [mget_mdel]; split <;> simp_all
  · exact mget_mput ..

@[simp] theorem mget_mset_self [DecidableEq α] (d : α) (m : SMap α) (k : Nat) (v : α) :
    mget d (mset d m k v) k = v := by simp [mget_mset]

theorem mget_mset_of_ne [DecidableEq α] (d : α) (m : SMap α) (k j : Nat) (v : α) (h : k ≠ j) :
    mget d (mset d m k v) j = mget d m j := by simp [mget_mset, h]

/-- Reading after a copy of a range. -/
theorem mget_mcopy (d : α) (src dst : SMap α) (lo n k : Nat) :
    mget d (mcopy src dst lo n) k = if lo ≤ k ∧ k < lo + n then mget d src k else mget d dst k := by
  have f1 := mget_filter d dst (fun x => decide (x < lo)) k
  have f2 := mget_filter d src (fun x => decide (lo ≤ x ∧ x < lo + n)) k
  have f3 := mget_filter d dst (fun x => decide (lo + n ≤ x)) k
  have a1 := mem_filter_key dst (fun x => decide (x < lo)) k
  have a2 := mem_filter_key src (fun x => decide (lo ≤ x ∧ x < lo + n)) k
  simp only [decide_eq_true_eq] at f1 f2 f3 a1 a2
  simp only [mcopy, List.append_assoc, mget_append, f1, f2, f3, a1, a2]
  have g1 := mget_of_not_mem d dst k
  have g2 := mget_of_not_mem d src k
  split
  · rename_i h; simp [h.1, show ¬ (lo ≤ k ∧ k < lo + n) by omega]
  · split
    · rename_i h; simp [h.1]
    · rename_i h1 h2
      by_cases h : lo ≤ k ∧ k < lo + n
      · simp [h, show ¬ lo + n ≤ k by omega]
        exact (g2 fun hc => h2 ⟨h, hc⟩).symm
      · simp only [h, if_false]
        by_cases h3 : lo + n ≤ k
        · simp [h3]
        · simp [h3]; exact (g1 fun hc => h1 ⟨by omega, hc⟩).symm

theorem mget_mclear (d : α) (m : SMap α) (lo n k : Nat) :
    mget d (mclear m lo n) k = if lo ≤ k ∧ k < lo + n then d else mget d m k := by simp [mclear, mget_mcopy]

/-! ## Keyed lists -/

section keyed
variable {κ : Type} [DecidableEq κ]

theorem alook_aput (k j : κ) (v : α) (m : List (κ × α)) : alook (aput k v m) j = if k = j then some v else alook m j := by
  induction m with
  | nil => simp [aput, alook]
  | cons e m ih =>
    obtain ⟨i, w⟩ := e
    by_cases h : i = k
    · subst h; by_cases hj : i = j <;> simp [aput, alook, hj]
    · by_cases hj : i = j
      · subst hj; simp [aput, alook, h, Ne.symm h]
      · simp [aput, alook, h, hj, ih]

theorem alook_amod (k j : κ) (f : α → α) (m : List (κ × α)) :
    alook (amod k f m) j = if k = j then (alook m j).map f else alook m j := by
  induction m with
  | nil => simp [amod, alook]
  | cons e m ih =>
    obtain ⟨i, w⟩ := e
    by_cases h : i = k
    · subst h; by_cases hj : i = j <;> simp [amod, alook, hj]
    · by_cases hj : i = j
      · subst hj; simp [amod, alook, h, Ne.symm h]
      · simp [amod, alook, h, hj, ih]

theorem alook_adel (k j : κ) (m : List (κ × α)) : alook (adel k m) j = if k = j then none else alook m j := by
  induction m with
  | nil => simp [adel, alook]
  | cons e m ih =>
    obtain ⟨i, w⟩ := e
    simp only [adel] at ih ⊢
    by_cases h : i = k
    · subst h; by_cases hj : i = j
      · simp [hj] at ih ⊢; exact ih
      · simp [alook, hj] at ih ⊢; simpa [hj] using ih
    · by_cases hj : i = j
      · subst hj; simp [alook, h, Ne.symm h]
      · simp [alook, h, hj] at ih ⊢; exact ih

end keyed

/-! ## The canonical form -/

section wf
variable [DecidableEq α]

theorem mwfFrom_mono {d : α} {lo lo' : Nat} {m : SMap α} (h : mwfFrom d lo m = true) (hl : lo' ≤ lo) :
    mwfFrom d lo' m = true := by
  cases m with
  | nil => rfl
  | cons e m => obtain ⟨k, v⟩ := e; simp [mwfFrom] at h ⊢; exact ⟨⟨by omega, h.1.2⟩, h.2⟩

theorem mwfFrom_keys {d : α} {lo : Nat} {m : SMap α} (h : mwfFrom d lo m = true) : ∀ e ∈ m, lo ≤ e.1 := by
  induction m generalizing lo with
  | nil => simp
  | cons e m ih =>
    obtain ⟨k, v⟩ := e
    simp [mwfFrom] at h
    intro e he
    rcases List.mem_cons.1 he with rfl | he
    · exact h.1.1
    · have := ih h.2 e he; omega

theorem mwfFrom_filter {d : α} {lo : Nat} {m : SMap α} (p : Nat × α → Bool) (h : mwfFrom d lo m = true) :
    mwfFrom d lo (m.filter p) = true := by
  induction m generalizing lo with
  | nil => rfl
  | cons e m ih =>
    obtain ⟨k, v⟩ := e
    simp [mwfFrom] at h
    by_cases hp : p (k, v)
    · simp [hp, mwfFrom, h.1.1, h.1.2, ih h.2]
    · simp [hp]; exact mwfFrom_mono (ih h.2) (by omega)

theorem mwfFrom_append {d : α} {lo mid : Nat} {m n : SMap α} (hm : mwfFrom d lo m = true)
    (hk : ∀ e ∈ m, e.1 < mid) (hn : mwfFrom d mid n = true) (hl : lo ≤ mid) : mwfFrom d lo (m ++ n) = true := by
  induction m generalizing lo with
  | nil => exact mwfFrom_mono hn hl
  | cons e m ih =>
    obtain ⟨k, v⟩ := e
    simp [mwfFrom] at hm
    have := hk (k, v) (by simp)
    simp only [List.cons_append, mwfFrom, hm.1.1, hm.1.2, ne_eq, not_false_eq_true, decide_true, Bool.true_and]
    exact ih hm.2 (fun e he => hk e (by simp [he])) this

theorem mwfFrom_filter_ge {d : α} {lo mid : Nat} {m : SMap α} (p : Nat × α → Bool) (h : mwfFrom d lo m = true)
    (hp : ∀ e, p e = true → mid ≤ e.1) : mwfFrom d mid (m.filter p) = true := by
  induction m generalizing lo with
  | nil => rfl
  | cons e m ih =>
    obtain ⟨k, v⟩ := e
    simp [mwfFrom] at h
    by_cases he : p (k, v)
    · have hm := hp _ he
      simp only [List.filter_cons, he, if_true, mwfFrom, h.1.2, ne_eq, not_false_eq_true, decide_true, Bool.and_true]
      simp only [show mid ≤ k from hm, decide_true, Bool.true_and]
      exact mwfFrom_filter p h.2
    · simp [he]; exact ih h.2

theorem mwfFrom_mput {d : α} {lo k : Nat} {v : α} {m : SMap α} (h : mwfFrom d lo m = true) (hl : lo ≤ k) (hv : v ≠ d) :
    mwfFrom d lo (mput k v m) = true := by
  induction m generalizing lo with
  | nil => simp [mput, mwfFrom, hl, hv]
  | cons e m ih =>
    obtain ⟨j, w⟩ := e
    simp [mwfFrom] at h
    unfold mput
    split
    · simp [mwfFrom, h.1.1, h.1.2, ih h.2 (by omega)]
    · split
      · subst_vars; simp [mwfFrom, h.1.1, hv, h.2]
      · simp [mwfFrom, hl, hv, h.1.2, h.2]; omega

/-- A write keeps the canonical form. -/
theorem mwf_mset {d : α} {m : SMap α} (k : Nat) (v : α) (h : mwf d m = true) : mwf d (mset d m k v) = true := by
  unfold mset
  split
  · exact mwfFrom_filter _ h
  · exact mwfFrom_mput h (by omega) (by assumption)

/-- A copy of a range keeps the canonical form. -/
theorem mwf_mcopy {d : α} {src dst : SMap α} (lo n : Nat) (hs : mwf d src = true) (hd : mwf d dst = true) :
    mwf d (mcopy src dst lo n) = true := by
  have h2 : mwfFrom d lo (src.filter fun e => decide (lo ≤ e.1 ∧ e.1 < lo + n)) = true :=
    mwfFrom_filter_ge _ hs (by simp; omega)
  have h3 : mwfFrom d (lo + n) (dst.filter fun e => decide (lo + n ≤ e.1)) = true :=
    mwfFrom_filter_ge _ hd (by simp)
  have h23 := mwfFrom_append h2 (by simp) h3 (by omega)
  have := mwfFrom_append (mwfFrom_filter (fun e => decide (e.1 < lo)) hd) (by simp) h23 (by omega)
  simpa [mwf, mcopy, List.append_assoc] using this

theorem mwf_nil {d : α} : mwf d ([] : SMap α) = true := rfl

theorem mwf_mclear {d : α} {m : SMap α} (lo n : Nat) (h : mwf d m = true) : mwf d (mclear m lo n) = true :=
  mwf_mcopy lo n mwf_nil h

theorem mwfFrom_shift {d : α} {lo : Nat} {m : SMap α} (src dst : Nat) (h : mwfFrom d lo m = true) (hs : src ≤ lo) :
    mwfFrom d (lo - src + dst) (m.map fun e => (e.1 - src + dst, e.2)) = true := by
  induction m generalizing lo with
  | nil => rfl
  | cons e m ih =>
    obtain ⟨k, v⟩ := e
    simp [mwfFrom] at h
    have := ih h.2 (by omega)
    simp only [List.map_cons, mwfFrom, h.1.2, ne_eq, not_false_eq_true, decide_true, Bool.and_true, Bool.and_eq_true,
      decide_eq_true_eq]
    refine ⟨by omega, ?_⟩
    have e : k + 1 - src + dst = k - src + dst + 1 := by omega
    rwa [e] at this

/-- Moving a range keeps the canonical form. -/
theorem mwf_mmove {d : α} {m : SMap α} (src dst n : Nat) (h : mwf d m = true) : mwf d (mmove m src dst n) = true := by
  have h1 : mwfFrom d src (m.filter fun e => decide (src ≤ e.1 ∧ e.1 < src + n)) = true :=
    mwfFrom_filter_ge _ h (by simp; omega)
  exact mwf_mcopy dst n (mwfFrom_mono (mwfFrom_shift src dst h1 (by omega)) (Nat.zero_le _)) h

end wf

/-! ## Bytes and numbers -/

theorem mwf_storeN {m : SMap Byte} (a v n : Nat) (h : mwf 0 m = true) : mwf 0 (storeN m a v n) = true := by
  induction n generalizing m a v with
  | zero => exact h
  | succ n ih => exact ih _ _ (mwf_mset _ _ h)

theorem mwf_storeBytes {m : SMap Byte} (a : Nat) (l : List Byte) (h : mwf 0 m = true) :
    mwf 0 (storeBytes m a l) = true := by
  induction l generalizing m a with
  | nil => exact h
  | cons b l ih => exact ih _ (mwf_mset _ _ h)

/-- A store leaves every byte outside it alone. -/
theorem mget_storeN_outside (m : SMap Byte) (a v n k : Nat) (h : k < a ∨ a + n ≤ k) :
    mget 0 (storeN m a v n) k = mget 0 m k := by
  induction n generalizing m a v with
  | zero => rfl
  | succ n ih =>
    rw [storeN, ih _ _ _ (by omega), mget_mset_of_ne]
    omega

/-- The bytes of a store, little-endian (R22). -/
theorem mget_storeN_inside (m : SMap Byte) (a v n i : Nat) (h : i < n) :
    mget 0 (storeN m a v n) (a + i) = BitVec.ofNat 8 (v / 256 ^ i) := by
  induction n generalizing m a v i with
  | zero => omega
  | succ n ih =>
    cases i with
    | zero => rw [storeN, mget_storeN_outside _ _ _ _ _ (by omega)]; simp
    | succ i =>
      rw [storeN, show a + (i + 1) = a + 1 + i by omega, ih _ _ _ _ (by omega), Nat.div_div_eq_div_mul, Nat.pow_succ,
        Nat.mul_comm]

/-- A number stored is the number loaded. -/
theorem loadN_storeN (m : SMap Byte) (a v n : Nat) : loadN (storeN m a v n) a n = v % 256 ^ n := by
  induction n generalizing m a v with
  | zero => simp [loadN, Nat.mod_one]
  | succ n ih =>
    rw [storeN, loadN, ih, mget_storeN_outside _ _ _ _ _ (by omega), mget_mset_self]
    rw [Nat.pow_succ, Nat.mul_comm (256 ^ n) 256, Nat.mod_mul]
    simp [BitVec.toNat_ofNat]

end Sys2Proof.Machine
end

