-- ==== Sys2Proof/Laws/State.lean ====
section
/-! SUPPORT. What each update of the state leaves alone, field by field, and what it reads as afterwards. -/

namespace Sys2Proof.Machine

/-! ## modCore -/

@[simp] theorem State.power_modCore (s : State) (d k : Nat) (f : Core → Core) : (s.modCore d k f).power = s.power := rfl
@[simp] theorem State.ready_modCore (s : State) (d k : Nat) (f : Core → Core) : (s.modCore d k f).ready = s.ready := rfl
@[simp] theorem State.fenced_modCore (s : State) (d k : Nat) (f : Core → Core) : (s.modCore d k f).fenced = s.fenced := rfl
@[simp] theorem State.fencing_modCore (s : State) (d k : Nat) (f : Core → Core) : (s.modCore d k f).fencing = s.fencing := rfl
@[simp] theorem State.throttle_modCore (s : State) (d k : Nat) (f : Core → Core) : (s.modCore d k f).throttle = s.throttle := rfl
@[simp] theorem State.cfg_modCore (s : State) (d k : Nat) (f : Core → Core) : (s.modCore d k f).cfg = s.cfg := rfl
@[simp] theorem State.fw_modCore (s : State) (d k : Nat) (f : Core → Core) : (s.modCore d k f).fw = s.fw := rfl
@[simp] theorem State.cycle_modCore (s : State) (d k : Nat) (f : Core → Core) : (s.modCore d k f).cycle = s.cycle := rfl
@[simp] theorem State.nanos_modCore (s : State) (d k : Nat) (f : Core → Core) : (s.modCore d k f).nanos = s.nanos := rfl
@[simp] theorem State.mem_modCore (s : State) (d k : Nat) (f : Core → Core) : (s.modCore d k f).mem = s.mem := rfl
@[simp] theorem State.l2m_modCore (s : State) (d k : Nat) (f : Core → Core) : (s.modCore d k f).l2m = s.l2m := rfl
@[simp] theorem State.low_modCore (s : State) (d k : Nat) (f : Core → Core) : (s.modCore d k f).low = s.low := rfl
@[simp] theorem State.lpd_modCore (s : State) (d k : Nat) (f : Core → Core) : (s.modCore d k f).lpd = s.lpd := rfl
@[simp] theorem State.withheld_modCore (s : State) (d k : Nat) (f : Core → Core) : (s.modCore d k f).withheld = s.withheld := rfl
@[simp] theorem State.ats_modCore (s : State) (d k : Nat) (f : Core → Core) : (s.modCore d k f).ats = s.ats := rfl
@[simp] theorem State.atsOut_modCore (s : State) (d k : Nat) (f : Core → Core) : (s.modCore d k f).atsOut = s.atsOut := rfl
@[simp] theorem State.monitors_modCore (s : State) (d k : Nat) (f : Core → Core) : (s.modCore d k f).monitors = s.monitors := rfl
@[simp] theorem State.wakes_modCore (s : State) (d k : Nat) (f : Core → Core) : (s.modCore d k f).wakes = s.wakes := rfl
@[simp] theorem State.updates_modCore (s : State) (d k : Nat) (f : Core → Core) : (s.modCore d k f).updates = s.updates := rfl
@[simp] theorem State.remote_modCore (s : State) (d k : Nat) (f : Core → Core) : (s.modCore d k f).remote = s.remote := rfl
@[simp] theorem State.outHeld_modCore (s : State) (d k : Nat) (f : Core → Core) : (s.modCore d k f).outHeld = s.outHeld := rfl
@[simp] theorem State.copies_modCore (s : State) (d k : Nat) (f : Core → Core) : (s.modCore d k f).copies = s.copies := rfl
@[simp] theorem State.matq_modCore (s : State) (d k : Nat) (f : Core → Core) : (s.modCore d k f).matq = s.matq := rfl
@[simp] theorem State.casts_modCore (s : State) (d k : Nat) (f : Core → Core) : (s.modCore d k f).casts = s.casts := rfl
@[simp] theorem State.dies_modCore (s : State) (d k : Nat) (f : Core → Core) : (s.modCore d k f).dies = s.dies := rfl
@[simp] theorem State.parts_modCore (s : State) (d k : Nat) (f : Core → Core) : (s.modCore d k f).parts = s.parts := rfl
@[simp] theorem State.launches_modCore (s : State) (d k : Nat) (f : Core → Core) : (s.modCore d k f).launches = s.launches := rfl
@[simp] theorem State.blocks_modCore (s : State) (d k : Nat) (f : Core → Core) : (s.modCore d k f).blocks = s.blocks := rfl
@[simp] theorem State.groups_modCore (s : State) (d k : Nat) (f : Core → Core) : (s.modCore d k f).groups = s.groups := rfl
@[simp] theorem State.pends_modCore (s : State) (d k : Nat) (f : Core → Core) : (s.modCore d k f).pends = s.pends := rfl
@[simp] theorem State.irqs_modCore (s : State) (d k : Nat) (f : Core → Core) : (s.modCore d k f).irqs = s.irqs := rfl
@[simp] theorem State.outbox_modCore (s : State) (d k : Nat) (f : Core → Core) : (s.modCore d k f).outbox = s.outbox := rfl
@[simp] theorem State.fabric_modCore (s : State) (d k : Nat) (f : Core → Core) : (s.modCore d k f).fabric = s.fabric := rfl
@[simp] theorem State.agenda_modCore (s : State) (d k : Nat) (f : Core → Core) : (s.modCore d k f).agenda = s.agenda := rfl
@[simp] theorem State.cur_modCore (s : State) (d k : Nat) (f : Core → Core) : (s.modCore d k f).cur = s.cur := rfl
@[simp] theorem State.turn_modCore (s : State) (d k : Nat) (f : Core → Core) : (s.modCore d k f).turn = s.turn := rfl
@[simp] theorem State.free_modCore (s : State) (d k : Nat) (f : Core → Core) : (s.modCore d k f).free = s.free := rfl
@[simp] theorem State.seq_modCore (s : State) (d k : Nat) (f : Core → Core) : (s.modCore d k f).seq = s.seq := rfl
@[simp] theorem State.ckpts_modCore (s : State) (d k : Nat) (f : Core → Core) : (s.modCore d k f).ckpts = s.ckpts := rfl
@[simp] theorem State.byte_modCore (s : State) (d k : Nat) (f : Core → Core) (a : Nat) :
    (s.modCore d k f).byte a = s.byte a := rfl
@[simp] theorem State.die_modCore (s : State) (d k : Nat) (f : Core → Core) (d' : Nat) :
    (s.modCore d k f).die d' = s.die d' := rfl
@[simp] theorem State.part_modCore (s : State) (d k : Nat) (f : Core → Core) (p' : Nat) :
    (s.modCore d k f).part p' = s.part p' := rfl
@[simp] theorem State.launchOpt_modCore (s : State) (d k : Nat) (f : Core → Core) (k' : Nat) :
    (s.modCore d k f).launch? k' = s.launch? k' := rfl
@[simp] theorem State.launch_modCore (s : State) (d k : Nat) (f : Core → Core) (k' : Nat) :
    (s.modCore d k f).launch k' = s.launch k' := rfl
@[simp] theorem State.blockOpt_modCore (s : State) (d k : Nat) (f : Core → Core) (b' : BId) :
    (s.modCore d k f).block? b' = s.block? b' := rfl
@[simp] theorem State.block_modCore (s : State) (d k : Nat) (f : Core → Core) (b' : BId) :
    (s.modCore d k f).block b' = s.block b' := rfl
@[simp] theorem State.grpOpt_modCore (s : State) (d k : Nat) (f : Core → Core) (g' : GId) :
    (s.modCore d k f).grp? g' = s.grp? g' := rfl
@[simp] theorem State.grp_modCore (s : State) (d k : Nat) (f : Core → Core) (g' : GId) :
    (s.modCore d k f).grp g' = s.grp g' := rfl

/-! ## modQuad -/

@[simp] theorem State.power_modQuad (s : State) (d k q : Nat) (f : Quad → Quad) : (s.modQuad d k q f).power = s.power := rfl
@[simp] theorem State.ready_modQuad (s : State) (d k q : Nat) (f : Quad → Quad) : (s.modQuad d k q f).ready = s.ready := rfl
@[simp] theorem State.fenced_modQuad (s : State) (d k q : Nat) (f : Quad → Quad) : (s.modQuad d k q f).fenced = s.fenced := rfl
@[simp] theorem State.fencing_modQuad (s : State) (d k q : Nat) (f : Quad → Quad) : (s.modQuad d k q f).fencing = s.fencing := rfl
@[simp] theorem State.throttle_modQuad (s : State) (d k q : Nat) (f : Quad → Quad) : (s.modQuad d k q f).throttle = s.throttle := rfl
@[simp] theorem State.cfg_modQuad (s : State) (d k q : Nat) (f : Quad → Quad) : (s.modQuad d k q f).cfg = s.cfg := rfl
@[simp] theorem State.fw_modQuad (s : State) (d k q : Nat) (f : Quad → Quad) : (s.modQuad d k q f).fw = s.fw := rfl
@[simp] theorem State.cycle_modQuad (s : State) (d k q : Nat) (f : Quad → Quad) : (s.modQuad d k q f).cycle = s.cycle := rfl
@[simp] theorem State.nanos_modQuad (s : State) (d k q : Nat) (f : Quad → Quad) : (s.modQuad d k q f).nanos = s.nanos := rfl
@[simp] theorem State.mem_modQuad (s : State) (d k q : Nat) (f : Quad → Quad) : (s.modQuad d k q f).mem = s.mem := rfl
@[simp] theorem State.l2m_modQuad (s : State) (d k q : Nat) (f : Quad → Quad) : (s.modQuad d k q f).l2m = s.l2m := rfl
@[simp] theorem State.low_modQuad (s : State) (d k q : Nat) (f : Quad → Quad) : (s.modQuad d k q f).low = s.low := rfl
@[simp] theorem State.lpd_modQuad (s : State) (d k q : Nat) (f : Quad → Quad) : (s.modQuad d k q f).lpd = s.lpd := rfl
@[simp] theorem State.withheld_modQuad (s : State) (d k q : Nat) (f : Quad → Quad) : (s.modQuad d k q f).withheld = s.withheld := rfl
@[simp] theorem State.ats_modQuad (s : State) (d k q : Nat) (f : Quad → Quad) : (s.modQuad d k q f).ats = s.ats := rfl
@[simp] theorem State.atsOut_modQuad (s : State) (d k q : Nat) (f : Quad → Quad) : (s.modQuad d k q f).atsOut = s.atsOut := rfl
@[simp] theorem State.monitors_modQuad (s : State) (d k q : Nat) (f : Quad → Quad) : (s.modQuad d k q f).monitors = s.monitors := rfl
@[simp] theorem State.wakes_modQuad (s : State) (d k q : Nat) (f : Quad → Quad) : (s.modQuad d k q f).wakes = s.wakes := rfl
@[simp] theorem State.updates_modQuad (s : State) (d k q : Nat) (f : Quad → Quad) : (s.modQuad d k q f).updates = s.updates := rfl
@[simp] theorem State.remote_modQuad (s : State) (d k q : Nat) (f : Quad → Quad) : (s.modQuad d k q f).remote = s.remote := rfl
@[simp] theorem State.outHeld_modQuad (s : State) (d k q : Nat) (f : Quad → Quad) : (s.modQuad d k q f).outHeld = s.outHeld := rfl
@[simp] theorem State.copies_modQuad (s : State) (d k q : Nat) (f : Quad → Quad) : (s.modQuad d k q f).copies = s.copies := rfl
@[simp] theorem State.matq_modQuad (s : State) (d k q : Nat) (f : Quad → Quad) : (s.modQuad d k q f).matq = s.matq := rfl
@[simp] theorem State.casts_modQuad (s : State) (d k q : Nat) (f : Quad → Quad) : (s.modQuad d k q f).casts = s.casts := rfl
@[simp] theorem State.dies_modQuad (s : State) (d k q : Nat) (f : Quad → Quad) : (s.modQuad d k q f).dies = s.dies := rfl
@[simp] theorem State.parts_modQuad (s : State) (d k q : Nat) (f : Quad → Quad) : (s.modQuad d k q f).parts = s.parts := rfl
@[simp] theorem State.launches_modQuad (s : State) (d k q : Nat) (f : Quad → Quad) : (s.modQuad d k q f).launches = s.launches := rfl
@[simp] theorem State.blocks_modQuad (s : State) (d k q : Nat) (f : Quad → Quad) : (s.modQuad d k q f).blocks = s.blocks := rfl
@[simp] theorem State.groups_modQuad (s : State) (d k q : Nat) (f : Quad → Quad) : (s.modQuad d k q f).groups = s.groups := rfl
@[simp] theorem State.pends_modQuad (s : State) (d k q : Nat) (f : Quad → Quad) : (s.modQuad d k q f).pends = s.pends := rfl
@[simp] theorem State.irqs_modQuad (s : State) (d k q : Nat) (f : Quad → Quad) : (s.modQuad d k q f).irqs = s.irqs := rfl
@[simp] theorem State.outbox_modQuad (s : State) (d k q : Nat) (f : Quad → Quad) : (s.modQuad d k q f).outbox = s.outbox := rfl
@[simp] theorem State.fabric_modQuad (s : State) (d k q : Nat) (f : Quad → Quad) : (s.modQuad d k q f).fabric = s.fabric := rfl
@[simp] theorem State.agenda_modQuad (s : State) (d k q : Nat) (f : Quad → Quad) : (s.modQuad d k q f).agenda = s.agenda := rfl
@[simp] theorem State.cur_modQuad (s : State) (d k q : Nat) (f : Quad → Quad) : (s.modQuad d k q f).cur = s.cur := rfl
@[simp] theorem State.turn_modQuad (s : State) (d k q : Nat) (f : Quad → Quad) : (s.modQuad d k q f).turn = s.turn := rfl
@[simp] theorem State.free_modQuad (s : State) (d k q : Nat) (f : Quad → Quad) : (s.modQuad d k q f).free = s.free := rfl
@[simp] theorem State.seq_modQuad (s : State) (d k q : Nat) (f : Quad → Quad) : (s.modQuad d k q f).seq = s.seq := rfl
@[simp] theorem State.ckpts_modQuad (s : State) (d k q : Nat) (f : Quad → Quad) : (s.modQuad d k q f).ckpts = s.ckpts := rfl
@[simp] theorem State.byte_modQuad (s : State) (d k q : Nat) (f : Quad → Quad) (a : Nat) :
    (s.modQuad d k q f).byte a = s.byte a := rfl
@[simp] theorem State.die_modQuad (s : State) (d k q : Nat) (f : Quad → Quad) (d' : Nat) :
    (s.modQuad d k q f).die d' = s.die d' := rfl
@[simp] theorem State.part_modQuad (s : State) (d k q : Nat) (f : Quad → Quad) (p' : Nat) :
    (s.modQuad d k q f).part p' = s.part p' := rfl
@[simp] theorem State.launchOpt_modQuad (s : State) (d k q : Nat) (f : Quad → Quad) (k' : Nat) :
    (s.modQuad d k q f).launch? k' = s.launch? k' := rfl
@[simp] theorem State.launch_modQuad (s : State) (d k q : Nat) (f : Quad → Quad) (k' : Nat) :
    (s.modQuad d k q f).launch k' = s.launch k' := rfl
@[simp] theorem State.blockOpt_modQuad (s : State) (d k q : Nat) (f : Quad → Quad) (b' : BId) :
    (s.modQuad d k q f).block? b' = s.block? b' := rfl
@[simp] theorem State.block_modQuad (s : State) (d k q : Nat) (f : Quad → Quad) (b' : BId) :
    (s.modQuad d k q f).block b' = s.block b' := rfl
@[simp] theorem State.grpOpt_modQuad (s : State) (d k q : Nat) (f : Quad → Quad) (g' : GId) :
    (s.modQuad d k q f).grp? g' = s.grp? g' := rfl
@[simp] theorem State.grp_modQuad (s : State) (d k q : Nat) (f : Quad → Quad) (g' : GId) :
    (s.modQuad d k q f).grp g' = s.grp g' := rfl

/-! ## modDie -/

@[simp] theorem State.power_modDie (s : State) (d : Nat) (f : Die → Die) : (s.modDie d f).power = s.power := rfl
@[simp] theorem State.ready_modDie (s : State) (d : Nat) (f : Die → Die) : (s.modDie d f).ready = s.ready := rfl
@[simp] theorem State.fenced_modDie (s : State) (d : Nat) (f : Die → Die) : (s.modDie d f).fenced = s.fenced := rfl
@[simp] theorem State.fencing_modDie (s : State) (d : Nat) (f : Die → Die) : (s.modDie d f).fencing = s.fencing := rfl
@[simp] theorem State.throttle_modDie (s : State) (d : Nat) (f : Die → Die) : (s.modDie d f).throttle = s.throttle := rfl
@[simp] theorem State.cfg_modDie (s : State) (d : Nat) (f : Die → Die) : (s.modDie d f).cfg = s.cfg := rfl
@[simp] theorem State.fw_modDie (s : State) (d : Nat) (f : Die → Die) : (s.modDie d f).fw = s.fw := rfl
@[simp] theorem State.cycle_modDie (s : State) (d : Nat) (f : Die → Die) : (s.modDie d f).cycle = s.cycle := rfl
@[simp] theorem State.nanos_modDie (s : State) (d : Nat) (f : Die → Die) : (s.modDie d f).nanos = s.nanos := rfl
@[simp] theorem State.mem_modDie (s : State) (d : Nat) (f : Die → Die) : (s.modDie d f).mem = s.mem := rfl
@[simp] theorem State.l2m_modDie (s : State) (d : Nat) (f : Die → Die) : (s.modDie d f).l2m = s.l2m := rfl
@[simp] theorem State.low_modDie (s : State) (d : Nat) (f : Die → Die) : (s.modDie d f).low = s.low := rfl
@[simp] theorem State.lpd_modDie (s : State) (d : Nat) (f : Die → Die) : (s.modDie d f).lpd = s.lpd := rfl
@[simp] theorem State.withheld_modDie (s : State) (d : Nat) (f : Die → Die) : (s.modDie d f).withheld = s.withheld := rfl
@[simp] theorem State.ats_modDie (s : State) (d : Nat) (f : Die → Die) : (s.modDie d f).ats = s.ats := rfl
@[simp] theorem State.atsOut_modDie (s : State) (d : Nat) (f : Die → Die) : (s.modDie d f).atsOut = s.atsOut := rfl
@[simp] theorem State.monitors_modDie (s : State) (d : Nat) (f : Die → Die) : (s.modDie d f).monitors = s.monitors := rfl
@[simp] theorem State.wakes_modDie (s : State) (d : Nat) (f : Die → Die) : (s.modDie d f).wakes = s.wakes := rfl
@[simp] theorem State.updates_modDie (s : State) (d : Nat) (f : Die → Die) : (s.modDie d f).updates = s.updates := rfl
@[simp] theorem State.remote_modDie (s : State) (d : Nat) (f : Die → Die) : (s.modDie d f).remote = s.remote := rfl
@[simp] theorem State.outHeld_modDie (s : State) (d : Nat) (f : Die → Die) : (s.modDie d f).outHeld = s.outHeld := rfl
@[simp] theorem State.copies_modDie (s : State) (d : Nat) (f : Die → Die) : (s.modDie d f).copies = s.copies := rfl
@[simp] theorem State.matq_modDie (s : State) (d : Nat) (f : Die → Die) : (s.modDie d f).matq = s.matq := rfl
@[simp] theorem State.casts_modDie (s : State) (d : Nat) (f : Die → Die) : (s.modDie d f).casts = s.casts := rfl
@[simp] theorem State.cores_modDie (s : State) (d : Nat) (f : Die → Die) : (s.modDie d f).cores = s.cores := rfl
@[simp] theorem State.parts_modDie (s : State) (d : Nat) (f : Die → Die) : (s.modDie d f).parts = s.parts := rfl
@[simp] theorem State.launches_modDie (s : State) (d : Nat) (f : Die → Die) : (s.modDie d f).launches = s.launches := rfl
@[simp] theorem State.blocks_modDie (s : State) (d : Nat) (f : Die → Die) : (s.modDie d f).blocks = s.blocks := rfl
@[simp] theorem State.groups_modDie (s : State) (d : Nat) (f : Die → Die) : (s.modDie d f).groups = s.groups := rfl
@[simp] theorem State.pends_modDie (s : State) (d : Nat) (f : Die → Die) : (s.modDie d f).pends = s.pends := rfl
@[simp] theorem State.irqs_modDie (s : State) (d : Nat) (f : Die → Die) : (s.modDie d f).irqs = s.irqs := rfl
@[simp] theorem State.outbox_modDie (s : State) (d : Nat) (f : Die → Die) : (s.modDie d f).outbox = s.outbox := rfl
@[simp] theorem State.fabric_modDie (s : State) (d : Nat) (f : Die → Die) : (s.modDie d f).fabric = s.fabric := rfl
@[simp] theorem State.agenda_modDie (s : State) (d : Nat) (f : Die → Die) : (s.modDie d f).agenda = s.agenda := rfl
@[simp] theorem State.cur_modDie (s : State) (d : Nat) (f : Die → Die) : (s.modDie d f).cur = s.cur := rfl
@[simp] theorem State.turn_modDie (s : State) (d : Nat) (f : Die → Die) : (s.modDie d f).turn = s.turn := rfl
@[simp] theorem State.free_modDie (s : State) (d : Nat) (f : Die → Die) : (s.modDie d f).free = s.free := rfl
@[simp] theorem State.seq_modDie (s : State) (d : Nat) (f : Die → Die) : (s.modDie d f).seq = s.seq := rfl
@[simp] theorem State.ckpts_modDie (s : State) (d : Nat) (f : Die → Die) : (s.modDie d f).ckpts = s.ckpts := rfl
@[simp] theorem State.byte_modDie (s : State) (d : Nat) (f : Die → Die) (a : Nat) :
    (s.modDie d f).byte a = s.byte a := rfl
@[simp] theorem State.core_modDie (s : State) (d : Nat) (f : Die → Die) (d' k' : Nat) :
    (s.modDie d f).core d' k' = s.core d' k' := rfl
@[simp] theorem State.quad_modDie (s : State) (d : Nat) (f : Die → Die) (d' k' q' : Nat) :
    (s.modDie d f).quad d' k' q' = s.quad d' k' q' := rfl
@[simp] theorem State.part_modDie (s : State) (d : Nat) (f : Die → Die) (p' : Nat) :
    (s.modDie d f).part p' = s.part p' := rfl
@[simp] theorem State.launchOpt_modDie (s : State) (d : Nat) (f : Die → Die) (k' : Nat) :
    (s.modDie d f).launch? k' = s.launch? k' := rfl
@[simp] theorem State.launch_modDie (s : State) (d : Nat) (f : Die → Die) (k' : Nat) :
    (s.modDie d f).launch k' = s.launch k' := rfl
@[simp] theorem State.blockOpt_modDie (s : State) (d : Nat) (f : Die → Die) (b' : BId) :
    (s.modDie d f).block? b' = s.block? b' := rfl
@[simp] theorem State.block_modDie (s : State) (d : Nat) (f : Die → Die) (b' : BId) :
    (s.modDie d f).block b' = s.block b' := rfl
@[simp] theorem State.grpOpt_modDie (s : State) (d : Nat) (f : Die → Die) (g' : GId) :
    (s.modDie d f).grp? g' = s.grp? g' := rfl
@[simp] theorem State.grp_modDie (s : State) (d : Nat) (f : Die → Die) (g' : GId) :
    (s.modDie d f).grp g' = s.grp g' := rfl

/-! ## modPart -/

@[simp] theorem State.power_modPart (s : State) (p : Nat) (f : Part → Part) : (s.modPart p f).power = s.power := rfl
@[simp] theorem State.ready_modPart (s : State) (p : Nat) (f : Part → Part) : (s.modPart p f).ready = s.ready := rfl
@[simp] theorem State.fenced_modPart (s : State) (p : Nat) (f : Part → Part) : (s.modPart p f).fenced = s.fenced := rfl
@[simp] theorem State.fencing_modPart (s : State) (p : Nat) (f : Part → Part) : (s.modPart p f).fencing = s.fencing := rfl
@[simp] theorem State.throttle_modPart (s : State) (p : Nat) (f : Part → Part) : (s.modPart p f).throttle = s.throttle := rfl
@[simp] theorem State.cfg_modPart (s : State) (p : Nat) (f : Part → Part) : (s.modPart p f).cfg = s.cfg := rfl
@[simp] theorem State.fw_modPart (s : State) (p : Nat) (f : Part → Part) : (s.modPart p f).fw = s.fw := rfl
@[simp] theorem State.cycle_modPart (s : State) (p : Nat) (f : Part → Part) : (s.modPart p f).cycle = s.cycle := rfl
@[simp] theorem State.nanos_modPart (s : State) (p : Nat) (f : Part → Part) : (s.modPart p f).nanos = s.nanos := rfl
@[simp] theorem State.mem_modPart (s : State) (p : Nat) (f : Part → Part) : (s.modPart p f).mem = s.mem := rfl
@[simp] theorem State.l2m_modPart (s : State) (p : Nat) (f : Part → Part) : (s.modPart p f).l2m = s.l2m := rfl
@[simp] theorem State.low_modPart (s : State) (p : Nat) (f : Part → Part) : (s.modPart p f).low = s.low := rfl
@[simp] theorem State.lpd_modPart (s : State) (p : Nat) (f : Part → Part) : (s.modPart p f).lpd = s.lpd := rfl
@[simp] theorem State.withheld_modPart (s : State) (p : Nat) (f : Part → Part) : (s.modPart p f).withheld = s.withheld := rfl
@[simp] theorem State.ats_modPart (s : State) (p : Nat) (f : Part → Part) : (s.modPart p f).ats = s.ats := rfl
@[simp] theorem State.atsOut_modPart (s : State) (p : Nat) (f : Part → Part) : (s.modPart p f).atsOut = s.atsOut := rfl
@[simp] theorem State.monitors_modPart (s : State) (p : Nat) (f : Part → Part) : (s.modPart p f).monitors = s.monitors := rfl
@[simp] theorem State.wakes_modPart (s : State) (p : Nat) (f : Part → Part) : (s.modPart p f).wakes = s.wakes := rfl
@[simp] theorem State.updates_modPart (s : State) (p : Nat) (f : Part → Part) : (s.modPart p f).updates = s.updates := rfl
@[simp] theorem State.remote_modPart (s : State) (p : Nat) (f : Part → Part) : (s.modPart p f).remote = s.remote := rfl
@[simp] theorem State.outHeld_modPart (s : State) (p : Nat) (f : Part → Part) : (s.modPart p f).outHeld = s.outHeld := rfl
@[simp] theorem State.copies_modPart (s : State) (p : Nat) (f : Part → Part) : (s.modPart p f).copies = s.copies := rfl
@[simp] theorem State.matq_modPart (s : State) (p : Nat) (f : Part → Part) : (s.modPart p f).matq = s.matq := rfl
@[simp] theorem State.casts_modPart (s : State) (p : Nat) (f : Part → Part) : (s.modPart p f).casts = s.casts := rfl
@[simp] theorem State.dies_modPart (s : State) (p : Nat) (f : Part → Part) : (s.modPart p f).dies = s.dies := rfl
@[simp] theorem State.cores_modPart (s : State) (p : Nat) (f : Part → Part) : (s.modPart p f).cores = s.cores := rfl
@[simp] theorem State.launches_modPart (s : State) (p : Nat) (f : Part → Part) : (s.modPart p f).launches = s.launches := rfl
@[simp] theorem State.blocks_modPart (s : State) (p : Nat) (f : Part → Part) : (s.modPart p f).blocks = s.blocks := rfl
@[simp] theorem State.groups_modPart (s : State) (p : Nat) (f : Part → Part) : (s.modPart p f).groups = s.groups := rfl
@[simp] theorem State.pends_modPart (s : State) (p : Nat) (f : Part → Part) : (s.modPart p f).pends = s.pends := rfl
@[simp] theorem State.irqs_modPart (s : State) (p : Nat) (f : Part → Part) : (s.modPart p f).irqs = s.irqs := rfl
@[simp] theorem State.outbox_modPart (s : State) (p : Nat) (f : Part → Part) : (s.modPart p f).outbox = s.outbox := rfl
@[simp] theorem State.fabric_modPart (s : State) (p : Nat) (f : Part → Part) : (s.modPart p f).fabric = s.fabric := rfl
@[simp] theorem State.agenda_modPart (s : State) (p : Nat) (f : Part → Part) : (s.modPart p f).agenda = s.agenda := rfl
@[simp] theorem State.cur_modPart (s : State) (p : Nat) (f : Part → Part) : (s.modPart p f).cur = s.cur := rfl
@[simp] theorem State.turn_modPart (s : State) (p : Nat) (f : Part → Part) : (s.modPart p f).turn = s.turn := rfl
@[simp] theorem State.free_modPart (s : State) (p : Nat) (f : Part → Part) : (s.modPart p f).free = s.free := rfl
@[simp] theorem State.seq_modPart (s : State) (p : Nat) (f : Part → Part) : (s.modPart p f).seq = s.seq := rfl
@[simp] theorem State.ckpts_modPart (s : State) (p : Nat) (f : Part → Part) : (s.modPart p f).ckpts = s.ckpts := rfl
@[simp] theorem State.byte_modPart (s : State) (p : Nat) (f : Part → Part) (a : Nat) :
    (s.modPart p f).byte a = s.byte a := rfl
@[simp] theorem State.core_modPart (s : State) (p : Nat) (f : Part → Part) (d' k' : Nat) :
    (s.modPart p f).core d' k' = s.core d' k' := rfl
@[simp] theorem State.quad_modPart (s : State) (p : Nat) (f : Part → Part) (d' k' q' : Nat) :
    (s.modPart p f).quad d' k' q' = s.quad d' k' q' := rfl
@[simp] theorem State.die_modPart (s : State) (p : Nat) (f : Part → Part) (d' : Nat) :
    (s.modPart p f).die d' = s.die d' := rfl
@[simp] theorem State.launchOpt_modPart (s : State) (p : Nat) (f : Part → Part) (k' : Nat) :
    (s.modPart p f).launch? k' = s.launch? k' := rfl
@[simp] theorem State.launch_modPart (s : State) (p : Nat) (f : Part → Part) (k' : Nat) :
    (s.modPart p f).launch k' = s.launch k' := rfl
@[simp] theorem State.blockOpt_modPart (s : State) (p : Nat) (f : Part → Part) (b' : BId) :
    (s.modPart p f).block? b' = s.block? b' := rfl
@[simp] theorem State.block_modPart (s : State) (p : Nat) (f : Part → Part) (b' : BId) :
    (s.modPart p f).block b' = s.block b' := rfl
@[simp] theorem State.grpOpt_modPart (s : State) (p : Nat) (f : Part → Part) (g' : GId) :
    (s.modPart p f).grp? g' = s.grp? g' := rfl
@[simp] theorem State.grp_modPart (s : State) (p : Nat) (f : Part → Part) (g' : GId) :
    (s.modPart p f).grp g' = s.grp g' := rfl

/-! ## modLaunch -/

@[simp] theorem State.power_modLaunch (s : State) (k : Nat) (f : Launch → Launch) : (s.modLaunch k f).power = s.power := rfl
@[simp] theorem State.ready_modLaunch (s : State) (k : Nat) (f : Launch → Launch) : (s.modLaunch k f).ready = s.ready := rfl
@[simp] theorem State.fenced_modLaunch (s : State) (k : Nat) (f : Launch → Launch) : (s.modLaunch k f).fenced = s.fenced := rfl
@[simp] theorem State.fencing_modLaunch (s : State) (k : Nat) (f : Launch → Launch) : (s.modLaunch k f).fencing = s.fencing := rfl
@[simp] theorem State.throttle_modLaunch (s : State) (k : Nat) (f : Launch → Launch) : (s.modLaunch k f).throttle = s.throttle := rfl
@[simp] theorem State.cfg_modLaunch (s : State) (k : Nat) (f : Launch → Launch) : (s.modLaunch k f).cfg = s.cfg := rfl
@[simp] theorem State.fw_modLaunch (s : State) (k : Nat) (f : Launch → Launch) : (s.modLaunch k f).fw = s.fw := rfl
@[simp] theorem State.cycle_modLaunch (s : State) (k : Nat) (f : Launch → Launch) : (s.modLaunch k f).cycle = s.cycle := rfl
@[simp] theorem State.nanos_modLaunch (s : State) (k : Nat) (f : Launch → Launch) : (s.modLaunch k f).nanos = s.nanos := rfl
@[simp] theorem State.mem_modLaunch (s : State) (k : Nat) (f : Launch → Launch) : (s.modLaunch k f).mem = s.mem := rfl
@[simp] theorem State.l2m_modLaunch (s : State) (k : Nat) (f : Launch → Launch) : (s.modLaunch k f).l2m = s.l2m := rfl
@[simp] theorem State.low_modLaunch (s : State) (k : Nat) (f : Launch → Launch) : (s.modLaunch k f).low = s.low := rfl
@[simp] theorem State.lpd_modLaunch (s : State) (k : Nat) (f : Launch → Launch) : (s.modLaunch k f).lpd = s.lpd := rfl
@[simp] theorem State.withheld_modLaunch (s : State) (k : Nat) (f : Launch → Launch) : (s.modLaunch k f).withheld = s.withheld := rfl
@[simp] theorem State.ats_modLaunch (s : State) (k : Nat) (f : Launch → Launch) : (s.modLaunch k f).ats = s.ats := rfl
@[simp] theorem State.atsOut_modLaunch (s : State) (k : Nat) (f : Launch → Launch) : (s.modLaunch k f).atsOut = s.atsOut := rfl
@[simp] theorem State.monitors_modLaunch (s : State) (k : Nat) (f : Launch → Launch) : (s.modLaunch k f).monitors = s.monitors := rfl
@[simp] theorem State.wakes_modLaunch (s : State) (k : Nat) (f : Launch → Launch) : (s.modLaunch k f).wakes = s.wakes := rfl
@[simp] theorem State.updates_modLaunch (s : State) (k : Nat) (f : Launch → Launch) : (s.modLaunch k f).updates = s.updates := rfl
@[simp] theorem State.remote_modLaunch (s : State) (k : Nat) (f : Launch → Launch) : (s.modLaunch k f).remote = s.remote := rfl
@[simp] theorem State.outHeld_modLaunch (s : State) (k : Nat) (f : Launch → Launch) : (s.modLaunch k f).outHeld = s.outHeld := rfl
@[simp] theorem State.copies_modLaunch (s : State) (k : Nat) (f : Launch → Launch) : (s.modLaunch k f).copies = s.copies := rfl
@[simp] theorem State.matq_modLaunch (s : State) (k : Nat) (f : Launch → Launch) : (s.modLaunch k f).matq = s.matq := rfl
@[simp] theorem State.casts_modLaunch (s : State) (k : Nat) (f : Launch → Launch) : (s.modLaunch k f).casts = s.casts := rfl
@[simp] theorem State.dies_modLaunch (s : State) (k : Nat) (f : Launch → Launch) : (s.modLaunch k f).dies = s.dies := rfl
@[simp] theorem State.cores_modLaunch (s : State) (k : Nat) (f : Launch → Launch) : (s.modLaunch k f).cores = s.cores := rfl
@[simp] theorem State.parts_modLaunch (s : State) (k : Nat) (f : Launch → Launch) : (s.modLaunch k f).parts = s.parts := rfl
@[simp] theorem State.blocks_modLaunch (s : State) (k : Nat) (f : Launch → Launch) : (s.modLaunch k f).blocks = s.blocks := rfl
@[simp] theorem State.groups_modLaunch (s : State) (k : Nat) (f : Launch → Launch) : (s.modLaunch k f).groups = s.groups := rfl
@[simp] theorem State.pends_modLaunch (s : State) (k : Nat) (f : Launch → Launch) : (s.modLaunch k f).pends = s.pends := rfl
@[simp] theorem State.irqs_modLaunch (s : State) (k : Nat) (f : Launch → Launch) : (s.modLaunch k f).irqs = s.irqs := rfl
@[simp] theorem State.outbox_modLaunch (s : State) (k : Nat) (f : Launch → Launch) : (s.modLaunch k f).outbox = s.outbox := rfl
@[simp] theorem State.fabric_modLaunch (s : State) (k : Nat) (f : Launch → Launch) : (s.modLaunch k f).fabric = s.fabric := rfl
@[simp] theorem State.agenda_modLaunch (s : State) (k : Nat) (f : Launch → Launch) : (s.modLaunch k f).agenda = s.agenda := rfl
@[simp] theorem State.cur_modLaunch (s : State) (k : Nat) (f : Launch → Launch) : (s.modLaunch k f).cur = s.cur := rfl
@[simp] theorem State.turn_modLaunch (s : State) (k : Nat) (f : Launch → Launch) : (s.modLaunch k f).turn = s.turn := rfl
@[simp] theorem State.free_modLaunch (s : State) (k : Nat) (f : Launch → Launch) : (s.modLaunch k f).free = s.free := rfl
@[simp] theorem State.seq_modLaunch (s : State) (k : Nat) (f : Launch → Launch) : (s.modLaunch k f).seq = s.seq := rfl
@[simp] theorem State.ckpts_modLaunch (s : State) (k : Nat) (f : Launch → Launch) : (s.modLaunch k f).ckpts = s.ckpts := rfl
@[simp] theorem State.byte_modLaunch (s : State) (k : Nat) (f : Launch → Launch) (a : Nat) :
    (s.modLaunch k f).byte a = s.byte a := rfl
@[simp] theorem State.core_modLaunch (s : State) (k : Nat) (f : Launch → Launch) (d' k' : Nat) :
    (s.modLaunch k f).core d' k' = s.core d' k' := rfl
@[simp] theorem State.quad_modLaunch (s : State) (k : Nat) (f : Launch → Launch) (d' k' q' : Nat) :
    (s.modLaunch k f).quad d' k' q' = s.quad d' k' q' := rfl
@[simp] theorem State.die_modLaunch (s : State) (k : Nat) (f : Launch → Launch) (d' : Nat) :
    (s.modLaunch k f).die d' = s.die d' := rfl
@[simp] theorem State.part_modLaunch (s : State) (k : Nat) (f : Launch → Launch) (p' : Nat) :
    (s.modLaunch k f).part p' = s.part p' := rfl
@[simp] theorem State.blockOpt_modLaunch (s : State) (k : Nat) (f : Launch → Launch) (b' : BId) :
    (s.modLaunch k f).block? b' = s.block? b' := rfl
@[simp] theorem State.block_modLaunch (s : State) (k : Nat) (f : Launch → Launch) (b' : BId) :
    (s.modLaunch k f).block b' = s.block b' := rfl
@[simp] theorem State.grpOpt_modLaunch (s : State) (k : Nat) (f : Launch → Launch) (g' : GId) :
    (s.modLaunch k f).grp? g' = s.grp? g' := rfl
@[simp] theorem State.grp_modLaunch (s : State) (k : Nat) (f : Launch → Launch) (g' : GId) :
    (s.modLaunch k f).grp g' = s.grp g' := rfl

/-! ## modBlock -/

@[simp] theorem State.power_modBlock (s : State) (b : BId) (f : Block → Block) : (s.modBlock b f).power = s.power := rfl
@[simp] theorem State.ready_modBlock (s : State) (b : BId) (f : Block → Block) : (s.modBlock b f).ready = s.ready := rfl
@[simp] theorem State.fenced_modBlock (s : State) (b : BId) (f : Block → Block) : (s.modBlock b f).fenced = s.fenced := rfl
@[simp] theorem State.fencing_modBlock (s : State) (b : BId) (f : Block → Block) : (s.modBlock b f).fencing = s.fencing := rfl
@[simp] theorem State.throttle_modBlock (s : State) (b : BId) (f : Block → Block) : (s.modBlock b f).throttle = s.throttle := rfl
@[simp] theorem State.cfg_modBlock (s : State) (b : BId) (f : Block → Block) : (s.modBlock b f).cfg = s.cfg := rfl
@[simp] theorem State.fw_modBlock (s : State) (b : BId) (f : Block → Block) : (s.modBlock b f).fw = s.fw := rfl
@[simp] theorem State.cycle_modBlock (s : State) (b : BId) (f : Block → Block) : (s.modBlock b f).cycle = s.cycle := rfl
@[simp] theorem State.nanos_modBlock (s : State) (b : BId) (f : Block → Block) : (s.modBlock b f).nanos = s.nanos := rfl
@[simp] theorem State.mem_modBlock (s : State) (b : BId) (f : Block → Block) : (s.modBlock b f).mem = s.mem := rfl
@[simp] theorem State.l2m_modBlock (s : State) (b : BId) (f : Block → Block) : (s.modBlock b f).l2m = s.l2m := rfl
@[simp] theorem State.low_modBlock (s : State) (b : BId) (f : Block → Block) : (s.modBlock b f).low = s.low := rfl
@[simp] theorem State.lpd_modBlock (s : State) (b : BId) (f : Block → Block) : (s.modBlock b f).lpd = s.lpd := rfl
@[simp] theorem State.withheld_modBlock (s : State) (b : BId) (f : Block → Block) : (s.modBlock b f).withheld = s.withheld := rfl
@[simp] theorem State.ats_modBlock (s : State) (b : BId) (f : Block → Block) : (s.modBlock b f).ats = s.ats := rfl
@[simp] theorem State.atsOut_modBlock (s : State) (b : BId) (f : Block → Block) : (s.modBlock b f).atsOut = s.atsOut := rfl
@[simp] theorem State.monitors_modBlock (s : State) (b : BId) (f : Block → Block) : (s.modBlock b f).monitors = s.monitors := rfl
@[simp] theorem State.wakes_modBlock (s : State) (b : BId) (f : Block → Block) : (s.modBlock b f).wakes = s.wakes := rfl
@[simp] theorem State.updates_modBlock (s : State) (b : BId) (f : Block → Block) : (s.modBlock b f).updates = s.updates := rfl
@[simp] theorem State.remote_modBlock (s : State) (b : BId) (f : Block → Block) : (s.modBlock b f).remote = s.remote := rfl
@[simp] theorem State.outHeld_modBlock (s : State) (b : BId) (f : Block → Block) : (s.modBlock b f).outHeld = s.outHeld := rfl
@[simp] theorem State.copies_modBlock (s : State) (b : BId) (f : Block → Block) : (s.modBlock b f).copies = s.copies := rfl
@[simp] theorem State.matq_modBlock (s : State) (b : BId) (f : Block → Block) : (s.modBlock b f).matq = s.matq := rfl
@[simp] theorem State.casts_modBlock (s : State) (b : BId) (f : Block → Block) : (s.modBlock b f).casts = s.casts := rfl
@[simp] theorem State.dies_modBlock (s : State) (b : BId) (f : Block → Block) : (s.modBlock b f).dies = s.dies := rfl
@[simp] theorem State.cores_modBlock (s : State) (b : BId) (f : Block → Block) : (s.modBlock b f).cores = s.cores := rfl
@[simp] theorem State.parts_modBlock (s : State) (b : BId) (f : Block → Block) : (s.modBlock b f).parts = s.parts := rfl
@[simp] theorem State.launches_modBlock (s : State) (b : BId) (f : Block → Block) : (s.modBlock b f).launches = s.launches := rfl
@[simp] theorem State.groups_modBlock (s : State) (b : BId) (f : Block → Block) : (s.modBlock b f).groups = s.groups := rfl
@[simp] theorem State.pends_modBlock (s : State) (b : BId) (f : Block → Block) : (s.modBlock b f).pends = s.pends := rfl
@[simp] theorem State.irqs_modBlock (s : State) (b : BId) (f : Block → Block) : (s.modBlock b f).irqs = s.irqs := rfl
@[simp] theorem State.outbox_modBlock (s : State) (b : BId) (f : Block → Block) : (s.modBlock b f).outbox = s.outbox := rfl
@[simp] theorem State.fabric_modBlock (s : State) (b : BId) (f : Block → Block) : (s.modBlock b f).fabric = s.fabric := rfl
@[simp] theorem State.agenda_modBlock (s : State) (b : BId) (f : Block → Block) : (s.modBlock b f).agenda = s.agenda := rfl
@[simp] theorem State.cur_modBlock (s : State) (b : BId) (f : Block → Block) : (s.modBlock b f).cur = s.cur := rfl
@[simp] theorem State.turn_modBlock (s : State) (b : BId) (f : Block → Block) : (s.modBlock b f).turn = s.turn := rfl
@[simp] theorem State.free_modBlock (s : State) (b : BId) (f : Block → Block) : (s.modBlock b f).free = s.free := rfl
@[simp] theorem State.seq_modBlock (s : State) (b : BId) (f : Block → Block) : (s.modBlock b f).seq = s.seq := rfl
@[simp] theorem State.ckpts_modBlock (s : State) (b : BId) (f : Block → Block) : (s.modBlock b f).ckpts = s.ckpts := rfl
@[simp] theorem State.byte_modBlock (s : State) (b : BId) (f : Block → Block) (a : Nat) :
    (s.modBlock b f).byte a = s.byte a := rfl
@[simp] theorem State.core_modBlock (s : State) (b : BId) (f : Block → Block) (d' k' : Nat) :
    (s.modBlock b f).core d' k' = s.core d' k' := rfl
@[simp] theorem State.quad_modBlock (s : State) (b : BId) (f : Block → Block) (d' k' q' : Nat) :
    (s.modBlock b f).quad d' k' q' = s.quad d' k' q' := rfl
@[simp] theorem State.die_modBlock (s : State) (b : BId) (f : Block → Block) (d' : Nat) :
    (s.modBlock b f).die d' = s.die d' := rfl
@[simp] theorem State.part_modBlock (s : State) (b : BId) (f : Block → Block) (p' : Nat) :
    (s.modBlock b f).part p' = s.part p' := rfl
@[simp] theorem State.launchOpt_modBlock (s : State) (b : BId) (f : Block → Block) (k' : Nat) :
    (s.modBlock b f).launch? k' = s.launch? k' := rfl
@[simp] theorem State.launch_modBlock (s : State) (b : BId) (f : Block → Block) (k' : Nat) :
    (s.modBlock b f).launch k' = s.launch k' := rfl
@[simp] theorem State.grpOpt_modBlock (s : State) (b : BId) (f : Block → Block) (g' : GId) :
    (s.modBlock b f).grp? g' = s.grp? g' := rfl
@[simp] theorem State.grp_modBlock (s : State) (b : BId) (f : Block → Block) (g' : GId) :
    (s.modBlock b f).grp g' = s.grp g' := rfl

/-! ## modGrp -/

@[simp] theorem State.power_modGrp (s : State) (g : GId) (f : Grp → Grp) : (s.modGrp g f).power = s.power := rfl
@[simp] theorem State.ready_modGrp (s : State) (g : GId) (f : Grp → Grp) : (s.modGrp g f).ready = s.ready := rfl
@[simp] theorem State.fenced_modGrp (s : State) (g : GId) (f : Grp → Grp) : (s.modGrp g f).fenced = s.fenced := rfl
@[simp] theorem State.fencing_modGrp (s : State) (g : GId) (f : Grp → Grp) : (s.modGrp g f).fencing = s.fencing := rfl
@[simp] theorem State.throttle_modGrp (s : State) (g : GId) (f : Grp → Grp) : (s.modGrp g f).throttle = s.throttle := rfl
@[simp] theorem State.cfg_modGrp (s : State) (g : GId) (f : Grp → Grp) : (s.modGrp g f).cfg = s.cfg := rfl
@[simp] theorem State.fw_modGrp (s : State) (g : GId) (f : Grp → Grp) : (s.modGrp g f).fw = s.fw := rfl
@[simp] theorem State.cycle_modGrp (s : State) (g : GId) (f : Grp → Grp) : (s.modGrp g f).cycle = s.cycle := rfl
@[simp] theorem State.nanos_modGrp (s : State) (g : GId) (f : Grp → Grp) : (s.modGrp g f).nanos = s.nanos := rfl
@[simp] theorem State.mem_modGrp (s : State) (g : GId) (f : Grp → Grp) : (s.modGrp g f).mem = s.mem := rfl
@[simp] theorem State.l2m_modGrp (s : State) (g : GId) (f : Grp → Grp) : (s.modGrp g f).l2m = s.l2m := rfl
@[simp] theorem State.low_modGrp (s : State) (g : GId) (f : Grp → Grp) : (s.modGrp g f).low = s.low := rfl
@[simp] theorem State.lpd_modGrp (s : State) (g : GId) (f : Grp → Grp) : (s.modGrp g f).lpd = s.lpd := rfl
@[simp] theorem State.withheld_modGrp (s : State) (g : GId) (f : Grp → Grp) : (s.modGrp g f).withheld = s.withheld := rfl
@[simp] theorem State.ats_modGrp (s : State) (g : GId) (f : Grp → Grp) : (s.modGrp g f).ats = s.ats := rfl
@[simp] theorem State.atsOut_modGrp (s : State) (g : GId) (f : Grp → Grp) : (s.modGrp g f).atsOut = s.atsOut := rfl
@[simp] theorem State.monitors_modGrp (s : State) (g : GId) (f : Grp → Grp) : (s.modGrp g f).monitors = s.monitors := rfl
@[simp] theorem State.wakes_modGrp (s : State) (g : GId) (f : Grp → Grp) : (s.modGrp g f).wakes = s.wakes := rfl
@[simp] theorem State.updates_modGrp (s : State) (g : GId) (f : Grp → Grp) : (s.modGrp g f).updates = s.updates := rfl
@[simp] theorem State.remote_modGrp (s : State) (g : GId) (f : Grp → Grp) : (s.modGrp g f).remote = s.remote := rfl
@[simp] theorem State.outHeld_modGrp (s : State) (g : GId) (f : Grp → Grp) : (s.modGrp g f).outHeld = s.outHeld := rfl
@[simp] theorem State.copies_modGrp (s : State) (g : GId) (f : Grp → Grp) : (s.modGrp g f).copies = s.copies := rfl
@[simp] theorem State.matq_modGrp (s : State) (g : GId) (f : Grp → Grp) : (s.modGrp g f).matq = s.matq := rfl
@[simp] theorem State.casts_modGrp (s : State) (g : GId) (f : Grp → Grp) : (s.modGrp g f).casts = s.casts := rfl
@[simp] theorem State.dies_modGrp (s : State) (g : GId) (f : Grp → Grp) : (s.modGrp g f).dies = s.dies := rfl
@[simp] theorem State.cores_modGrp (s : State) (g : GId) (f : Grp → Grp) : (s.modGrp g f).cores = s.cores := rfl
@[simp] theorem State.parts_modGrp (s : State) (g : GId) (f : Grp → Grp) : (s.modGrp g f).parts = s.parts := rfl
@[simp] theorem State.launches_modGrp (s : State) (g : GId) (f : Grp → Grp) : (s.modGrp g f).launches = s.launches := rfl
@[simp] theorem State.blocks_modGrp (s : State) (g : GId) (f : Grp → Grp) : (s.modGrp g f).blocks = s.blocks := rfl
@[simp] theorem State.pends_modGrp (s : State) (g : GId) (f : Grp → Grp) : (s.modGrp g f).pends = s.pends := rfl
@[simp] theorem State.irqs_modGrp (s : State) (g : GId) (f : Grp → Grp) : (s.modGrp g f).irqs = s.irqs := rfl
@[simp] theorem State.outbox_modGrp (s : State) (g : GId) (f : Grp → Grp) : (s.modGrp g f).outbox = s.outbox := rfl
@[simp] theorem State.fabric_modGrp (s : State) (g : GId) (f : Grp → Grp) : (s.modGrp g f).fabric = s.fabric := rfl
@[simp] theorem State.agenda_modGrp (s : State) (g : GId) (f : Grp → Grp) : (s.modGrp g f).agenda = s.agenda := rfl
@[simp] theorem State.cur_modGrp (s : State) (g : GId) (f : Grp → Grp) : (s.modGrp g f).cur = s.cur := rfl
@[simp] theorem State.turn_modGrp (s : State) (g : GId) (f : Grp → Grp) : (s.modGrp g f).turn = s.turn := rfl
@[simp] theorem State.free_modGrp (s : State) (g : GId) (f : Grp → Grp) : (s.modGrp g f).free = s.free := rfl
@[simp] theorem State.seq_modGrp (s : State) (g : GId) (f : Grp → Grp) : (s.modGrp g f).seq = s.seq := rfl
@[simp] theorem State.ckpts_modGrp (s : State) (g : GId) (f : Grp → Grp) : (s.modGrp g f).ckpts = s.ckpts := rfl
@[simp] theorem State.byte_modGrp (s : State) (g : GId) (f : Grp → Grp) (a : Nat) :
    (s.modGrp g f).byte a = s.byte a := rfl
@[simp] theorem State.core_modGrp (s : State) (g : GId) (f : Grp → Grp) (d' k' : Nat) :
    (s.modGrp g f).core d' k' = s.core d' k' := rfl
@[simp] theorem State.quad_modGrp (s : State) (g : GId) (f : Grp → Grp) (d' k' q' : Nat) :
    (s.modGrp g f).quad d' k' q' = s.quad d' k' q' := rfl
@[simp] theorem State.die_modGrp (s : State) (g : GId) (f : Grp → Grp) (d' : Nat) :
    (s.modGrp g f).die d' = s.die d' := rfl
@[simp] theorem State.part_modGrp (s : State) (g : GId) (f : Grp → Grp) (p' : Nat) :
    (s.modGrp g f).part p' = s.part p' := rfl
@[simp] theorem State.launchOpt_modGrp (s : State) (g : GId) (f : Grp → Grp) (k' : Nat) :
    (s.modGrp g f).launch? k' = s.launch? k' := rfl
@[simp] theorem State.launch_modGrp (s : State) (g : GId) (f : Grp → Grp) (k' : Nat) :
    (s.modGrp g f).launch k' = s.launch k' := rfl
@[simp] theorem State.blockOpt_modGrp (s : State) (g : GId) (f : Grp → Grp) (b' : BId) :
    (s.modGrp g f).block? b' = s.block? b' := rfl
@[simp] theorem State.block_modGrp (s : State) (g : GId) (f : Grp → Grp) (b' : BId) :
    (s.modGrp g f).block b' = s.block b' := rfl

/-! ## modBank -/

@[simp] theorem State.power_modBank (s : State) (g : GId) (f : Bank → Bank) : (s.modBank g f).power = s.power := rfl
@[simp] theorem State.ready_modBank (s : State) (g : GId) (f : Bank → Bank) : (s.modBank g f).ready = s.ready := rfl
@[simp] theorem State.fenced_modBank (s : State) (g : GId) (f : Bank → Bank) : (s.modBank g f).fenced = s.fenced := rfl
@[simp] theorem State.fencing_modBank (s : State) (g : GId) (f : Bank → Bank) : (s.modBank g f).fencing = s.fencing := rfl
@[simp] theorem State.throttle_modBank (s : State) (g : GId) (f : Bank → Bank) : (s.modBank g f).throttle = s.throttle := rfl
@[simp] theorem State.cfg_modBank (s : State) (g : GId) (f : Bank → Bank) : (s.modBank g f).cfg = s.cfg := rfl
@[simp] theorem State.fw_modBank (s : State) (g : GId) (f : Bank → Bank) : (s.modBank g f).fw = s.fw := rfl
@[simp] theorem State.cycle_modBank (s : State) (g : GId) (f : Bank → Bank) : (s.modBank g f).cycle = s.cycle := rfl
@[simp] theorem State.nanos_modBank (s : State) (g : GId) (f : Bank → Bank) : (s.modBank g f).nanos = s.nanos := rfl
@[simp] theorem State.mem_modBank (s : State) (g : GId) (f : Bank → Bank) : (s.modBank g f).mem = s.mem := rfl
@[simp] theorem State.l2m_modBank (s : State) (g : GId) (f : Bank → Bank) : (s.modBank g f).l2m = s.l2m := rfl
@[simp] theorem State.low_modBank (s : State) (g : GId) (f : Bank → Bank) : (s.modBank g f).low = s.low := rfl
@[simp] theorem State.lpd_modBank (s : State) (g : GId) (f : Bank → Bank) : (s.modBank g f).lpd = s.lpd := rfl
@[simp] theorem State.withheld_modBank (s : State) (g : GId) (f : Bank → Bank) : (s.modBank g f).withheld = s.withheld := rfl
@[simp] theorem State.ats_modBank (s : State) (g : GId) (f : Bank → Bank) : (s.modBank g f).ats = s.ats := rfl
@[simp] theorem State.atsOut_modBank (s : State) (g : GId) (f : Bank → Bank) : (s.modBank g f).atsOut = s.atsOut := rfl
@[simp] theorem State.monitors_modBank (s : State) (g : GId) (f : Bank → Bank) : (s.modBank g f).monitors = s.monitors := rfl
@[simp] theorem State.wakes_modBank (s : State) (g : GId) (f : Bank → Bank) : (s.modBank g f).wakes = s.wakes := rfl
@[simp] theorem State.updates_modBank (s : State) (g : GId) (f : Bank → Bank) : (s.modBank g f).updates = s.updates := rfl
@[simp] theorem State.remote_modBank (s : State) (g : GId) (f : Bank → Bank) : (s.modBank g f).remote = s.remote := rfl
@[simp] theorem State.outHeld_modBank (s : State) (g : GId) (f : Bank → Bank) : (s.modBank g f).outHeld = s.outHeld := rfl
@[simp] theorem State.copies_modBank (s : State) (g : GId) (f : Bank → Bank) : (s.modBank g f).copies = s.copies := rfl
@[simp] theorem State.matq_modBank (s : State) (g : GId) (f : Bank → Bank) : (s.modBank g f).matq = s.matq := rfl
@[simp] theorem State.casts_modBank (s : State) (g : GId) (f : Bank → Bank) : (s.modBank g f).casts = s.casts := rfl
@[simp] theorem State.dies_modBank (s : State) (g : GId) (f : Bank → Bank) : (s.modBank g f).dies = s.dies := rfl
@[simp] theorem State.cores_modBank (s : State) (g : GId) (f : Bank → Bank) : (s.modBank g f).cores = s.cores := rfl
@[simp] theorem State.parts_modBank (s : State) (g : GId) (f : Bank → Bank) : (s.modBank g f).parts = s.parts := rfl
@[simp] theorem State.launches_modBank (s : State) (g : GId) (f : Bank → Bank) : (s.modBank g f).launches = s.launches := rfl
@[simp] theorem State.blocks_modBank (s : State) (g : GId) (f : Bank → Bank) : (s.modBank g f).blocks = s.blocks := rfl
@[simp] theorem State.pends_modBank (s : State) (g : GId) (f : Bank → Bank) : (s.modBank g f).pends = s.pends := rfl
@[simp] theorem State.irqs_modBank (s : State) (g : GId) (f : Bank → Bank) : (s.modBank g f).irqs = s.irqs := rfl
@[simp] theorem State.outbox_modBank (s : State) (g : GId) (f : Bank → Bank) : (s.modBank g f).outbox = s.outbox := rfl
@[simp] theorem State.fabric_modBank (s : State) (g : GId) (f : Bank → Bank) : (s.modBank g f).fabric = s.fabric := rfl
@[simp] theorem State.agenda_modBank (s : State) (g : GId) (f : Bank → Bank) : (s.modBank g f).agenda = s.agenda := rfl
@[simp] theorem State.cur_modBank (s : State) (g : GId) (f : Bank → Bank) : (s.modBank g f).cur = s.cur := rfl
@[simp] theorem State.turn_modBank (s : State) (g : GId) (f : Bank → Bank) : (s.modBank g f).turn = s.turn := rfl
@[simp] theorem State.free_modBank (s : State) (g : GId) (f : Bank → Bank) : (s.modBank g f).free = s.free := rfl
@[simp] theorem State.seq_modBank (s : State) (g : GId) (f : Bank → Bank) : (s.modBank g f).seq = s.seq := rfl
@[simp] theorem State.ckpts_modBank (s : State) (g : GId) (f : Bank → Bank) : (s.modBank g f).ckpts = s.ckpts := rfl
@[simp] theorem State.byte_modBank (s : State) (g : GId) (f : Bank → Bank) (a : Nat) :
    (s.modBank g f).byte a = s.byte a := rfl
@[simp] theorem State.core_modBank (s : State) (g : GId) (f : Bank → Bank) (d' k' : Nat) :
    (s.modBank g f).core d' k' = s.core d' k' := rfl
@[simp] theorem State.quad_modBank (s : State) (g : GId) (f : Bank → Bank) (d' k' q' : Nat) :
    (s.modBank g f).quad d' k' q' = s.quad d' k' q' := rfl
@[simp] theorem State.die_modBank (s : State) (g : GId) (f : Bank → Bank) (d' : Nat) :
    (s.modBank g f).die d' = s.die d' := rfl
@[simp] theorem State.part_modBank (s : State) (g : GId) (f : Bank → Bank) (p' : Nat) :
    (s.modBank g f).part p' = s.part p' := rfl
@[simp] theorem State.launchOpt_modBank (s : State) (g : GId) (f : Bank → Bank) (k' : Nat) :
    (s.modBank g f).launch? k' = s.launch? k' := rfl
@[simp] theorem State.launch_modBank (s : State) (g : GId) (f : Bank → Bank) (k' : Nat) :
    (s.modBank g f).launch k' = s.launch k' := rfl
@[simp] theorem State.blockOpt_modBank (s : State) (g : GId) (f : Bank → Bank) (b' : BId) :
    (s.modBank g f).block? b' = s.block? b' := rfl
@[simp] theorem State.block_modBank (s : State) (g : GId) (f : Bank → Bank) (b' : BId) :
    (s.modBank g f).block b' = s.block b' := rfl

/-! ## modSlot -/

@[simp] theorem State.power_modSlot (s : State) (g : GId) (sl : SlotId) (f : Slot → Slot) : (s.modSlot g sl f).power = s.power := rfl
@[simp] theorem State.ready_modSlot (s : State) (g : GId) (sl : SlotId) (f : Slot → Slot) : (s.modSlot g sl f).ready = s.ready := rfl
@[simp] theorem State.fenced_modSlot (s : State) (g : GId) (sl : SlotId) (f : Slot → Slot) : (s.modSlot g sl f).fenced = s.fenced := rfl
@[simp] theorem State.fencing_modSlot (s : State) (g : GId) (sl : SlotId) (f : Slot → Slot) : (s.modSlot g sl f).fencing = s.fencing := rfl
@[simp] theorem State.throttle_modSlot (s : State) (g : GId) (sl : SlotId) (f : Slot → Slot) : (s.modSlot g sl f).throttle = s.throttle := rfl
@[simp] theorem State.cfg_modSlot (s : State) (g : GId) (sl : SlotId) (f : Slot → Slot) : (s.modSlot g sl f).cfg = s.cfg := rfl
@[simp] theorem State.fw_modSlot (s : State) (g : GId) (sl : SlotId) (f : Slot → Slot) : (s.modSlot g sl f).fw = s.fw := rfl
@[simp] theorem State.cycle_modSlot (s : State) (g : GId) (sl : SlotId) (f : Slot → Slot) : (s.modSlot g sl f).cycle = s.cycle := rfl
@[simp] theorem State.nanos_modSlot (s : State) (g : GId) (sl : SlotId) (f : Slot → Slot) : (s.modSlot g sl f).nanos = s.nanos := rfl
@[simp] theorem State.mem_modSlot (s : State) (g : GId) (sl : SlotId) (f : Slot → Slot) : (s.modSlot g sl f).mem = s.mem := rfl
@[simp] theorem State.l2m_modSlot (s : State) (g : GId) (sl : SlotId) (f : Slot → Slot) : (s.modSlot g sl f).l2m = s.l2m := rfl
@[simp] theorem State.low_modSlot (s : State) (g : GId) (sl : SlotId) (f : Slot → Slot) : (s.modSlot g sl f).low = s.low := rfl
@[simp] theorem State.lpd_modSlot (s : State) (g : GId) (sl : SlotId) (f : Slot → Slot) : (s.modSlot g sl f).lpd = s.lpd := rfl
@[simp] theorem State.withheld_modSlot (s : State) (g : GId) (sl : SlotId) (f : Slot → Slot) : (s.modSlot g sl f).withheld = s.withheld := rfl
@[simp] theorem State.ats_modSlot (s : State) (g : GId) (sl : SlotId) (f : Slot → Slot) : (s.modSlot g sl f).ats = s.ats := rfl
@[simp] theorem State.atsOut_modSlot (s : State) (g : GId) (sl : SlotId) (f : Slot → Slot) : (s.modSlot g sl f).atsOut = s.atsOut := rfl
@[simp] theorem State.monitors_modSlot (s : State) (g : GId) (sl : SlotId) (f : Slot → Slot) : (s.modSlot g sl f).monitors = s.monitors := rfl
@[simp] theorem State.wakes_modSlot (s : State) (g : GId) (sl : SlotId) (f : Slot → Slot) : (s.modSlot g sl f).wakes = s.wakes := rfl
@[simp] theorem State.updates_modSlot (s : State) (g : GId) (sl : SlotId) (f : Slot → Slot) : (s.modSlot g sl f).updates = s.updates := rfl
@[simp] theorem State.remote_modSlot (s : State) (g : GId) (sl : SlotId) (f : Slot → Slot) : (s.modSlot g sl f).remote = s.remote := rfl
@[simp] theorem State.outHeld_modSlot (s : State) (g : GId) (sl : SlotId) (f : Slot → Slot) : (s.modSlot g sl f).outHeld = s.outHeld := rfl
@[simp] theorem State.copies_modSlot (s : State) (g : GId) (sl : SlotId) (f : Slot → Slot) : (s.modSlot g sl f).copies = s.copies := rfl
@[simp] theorem State.matq_modSlot (s : State) (g : GId) (sl : SlotId) (f : Slot → Slot) : (s.modSlot g sl f).matq = s.matq := rfl
@[simp] theorem State.casts_modSlot (s : State) (g : GId) (sl : SlotId) (f : Slot → Slot) : (s.modSlot g sl f).casts = s.casts := rfl
@[simp] theorem State.dies_modSlot (s : State) (g : GId) (sl : SlotId) (f : Slot → Slot) : (s.modSlot g sl f).dies = s.dies := rfl
@[simp] theorem State.cores_modSlot (s : State) (g : GId) (sl : SlotId) (f : Slot → Slot) : (s.modSlot g sl f).cores = s.cores := rfl
@[simp] theorem State.parts_modSlot (s : State) (g : GId) (sl : SlotId) (f : Slot → Slot) : (s.modSlot g sl f).parts = s.parts := rfl
@[simp] theorem State.launches_modSlot (s : State) (g : GId) (sl : SlotId) (f : Slot → Slot) : (s.modSlot g sl f).launches = s.launches := rfl
@[simp] theorem State.blocks_modSlot (s : State) (g : GId) (sl : SlotId) (f : Slot → Slot) : (s.modSlot g sl f).blocks = s.blocks := rfl
@[simp] theorem State.pends_modSlot (s : State) (g : GId) (sl : SlotId) (f : Slot → Slot) : (s.modSlot g sl f).pends = s.pends := rfl
@[simp] theorem State.irqs_modSlot (s : State) (g : GId) (sl : SlotId) (f : Slot → Slot) : (s.modSlot g sl f).irqs = s.irqs := rfl
@[simp] theorem State.outbox_modSlot (s : State) (g : GId) (sl : SlotId) (f : Slot → Slot) : (s.modSlot g sl f).outbox = s.outbox := rfl
@[simp] theorem State.fabric_modSlot (s : State) (g : GId) (sl : SlotId) (f : Slot → Slot) : (s.modSlot g sl f).fabric = s.fabric := rfl
@[simp] theorem State.agenda_modSlot (s : State) (g : GId) (sl : SlotId) (f : Slot → Slot) : (s.modSlot g sl f).agenda = s.agenda := rfl
@[simp] theorem State.cur_modSlot (s : State) (g : GId) (sl : SlotId) (f : Slot → Slot) : (s.modSlot g sl f).cur = s.cur := rfl
@[simp] theorem State.turn_modSlot (s : State) (g : GId) (sl : SlotId) (f : Slot → Slot) : (s.modSlot g sl f).turn = s.turn := rfl
@[simp] theorem State.free_modSlot (s : State) (g : GId) (sl : SlotId) (f : Slot → Slot) : (s.modSlot g sl f).free = s.free := rfl
@[simp] theorem State.seq_modSlot (s : State) (g : GId) (sl : SlotId) (f : Slot → Slot) : (s.modSlot g sl f).seq = s.seq := rfl
@[simp] theorem State.ckpts_modSlot (s : State) (g : GId) (sl : SlotId) (f : Slot → Slot) : (s.modSlot g sl f).ckpts = s.ckpts := rfl
@[simp] theorem State.byte_modSlot (s : State) (g : GId) (sl : SlotId) (f : Slot → Slot) (a : Nat) :
    (s.modSlot g sl f).byte a = s.byte a := rfl
@[simp] theorem State.core_modSlot (s : State) (g : GId) (sl : SlotId) (f : Slot → Slot) (d' k' : Nat) :
    (s.modSlot g sl f).core d' k' = s.core d' k' := rfl
@[simp] theorem State.quad_modSlot (s : State) (g : GId) (sl : SlotId) (f : Slot → Slot) (d' k' q' : Nat) :
    (s.modSlot g sl f).quad d' k' q' = s.quad d' k' q' := rfl
@[simp] theorem State.die_modSlot (s : State) (g : GId) (sl : SlotId) (f : Slot → Slot) (d' : Nat) :
    (s.modSlot g sl f).die d' = s.die d' := rfl
@[simp] theorem State.part_modSlot (s : State) (g : GId) (sl : SlotId) (f : Slot → Slot) (p' : Nat) :
    (s.modSlot g sl f).part p' = s.part p' := rfl
@[simp] theorem State.launchOpt_modSlot (s : State) (g : GId) (sl : SlotId) (f : Slot → Slot) (k' : Nat) :
    (s.modSlot g sl f).launch? k' = s.launch? k' := rfl
@[simp] theorem State.launch_modSlot (s : State) (g : GId) (sl : SlotId) (f : Slot → Slot) (k' : Nat) :
    (s.modSlot g sl f).launch k' = s.launch k' := rfl
@[simp] theorem State.blockOpt_modSlot (s : State) (g : GId) (sl : SlotId) (f : Slot → Slot) (b' : BId) :
    (s.modSlot g sl f).block? b' = s.block? b' := rfl
@[simp] theorem State.block_modSlot (s : State) (g : GId) (sl : SlotId) (f : Slot → Slot) (b' : BId) :
    (s.modSlot g sl f).block b' = s.block b' := rfl

/-! ## What an update reads as -/

theorem State.core_modCore (s : State) (d k d' k' : Nat) (f : Core → Core) :
    (s.modCore d k f).core d' k' = if 256 * d + k = 256 * d' + k' then f (s.core d k) else s.core d' k' := by
  simp [State.core, State.modCore, mget_mset]

@[simp] theorem State.core_modCore_self (s : State) (d k : Nat) (f : Core → Core) :
    (s.modCore d k f).core d k = f (s.core d k) := by simp [State.core_modCore]

theorem State.die_modDie (s : State) (d d' : Nat) (f : Die → Die) :
    (s.modDie d f).die d' = if d = d' then f (s.die d) else s.die d' := by simp [State.die, State.modDie, mget_mset]

@[simp] theorem State.die_modDie_self (s : State) (d : Nat) (f : Die → Die) : (s.modDie d f).die d = f (s.die d) := by
  simp [State.die_modDie]

theorem State.part_modPart (s : State) (p p' : Nat) (f : Part → Part) :
    (s.modPart p f).part p' = if p = p' then f (s.part p) else s.part p' := by
  simp [State.part, State.modPart, mget_mset]

@[simp] theorem State.part_modPart_self (s : State) (p : Nat) (f : Part → Part) :
    (s.modPart p f).part p = f (s.part p) := by simp [State.part_modPart]

theorem State.launchOpt_modLaunch (s : State) (k k' : Nat) (f : Launch → Launch) :
    (s.modLaunch k f).launch? k' = if k = k' then (s.launch? k').map f else s.launch? k' := by
  simp [State.launch?, State.modLaunch, alook_amod]

theorem State.blockOpt_modBlock (s : State) (b b' : BId) (f : Block → Block) :
    (s.modBlock b f).block? b' = if b = b' then (s.block? b').map f else s.block? b' := by
  simp [State.block?, State.modBlock, alook_amod]

theorem State.grpOpt_modGrp (s : State) (g g' : GId) (f : Grp → Grp) :
    (s.modGrp g f).grp? g' = if g = g' then (s.grp? g').map f else s.grp? g' := by
  simp [State.grp?, State.modGrp, alook_amod]

theorem State.grp_modGrp_ne (s : State) (g g' : GId) (f : Grp → Grp) (h : g ≠ g') :
    (s.modGrp g f).grp g' = s.grp g' := by simp [State.grp, State.grpOpt_modGrp, h]

theorem State.grp_modGrp_self (s : State) (g : GId) (f : Grp → Grp) (h : (s.grp? g).isSome) :
    (s.modGrp g f).grp g = f (s.grp g) := by
  obtain ⟨r, hr⟩ := Option.isSome_iff_exists.1 h
  simp [State.grp, State.grpOpt_modGrp, hr]

theorem State.block_modBlock_ne (s : State) (b b' : BId) (f : Block → Block) (h : b ≠ b') :
    (s.modBlock b f).block b' = s.block b' := by simp [State.block, State.blockOpt_modBlock, h]

theorem State.block_modBlock_self (s : State) (b : BId) (f : Block → Block) (h : (s.block? b).isSome) :
    (s.modBlock b f).block b = f (s.block b) := by
  obtain ⟨r, hr⟩ := Option.isSome_iff_exists.1 h
  simp [State.block, State.blockOpt_modBlock, hr]

end Sys2Proof.Machine
end

