-- ==== Sys2Proof/Laws/Bank.lean ====
section
/-! SUPPORT. Read after write for the registers of a bank (Regs.lean). -/

namespace Sys2Proof.Machine

/-! ## setS -/

@[simp] theorem Bank.v_setS (k : Bank) (n : Nat) (v : W64) : (k.setS n v).v = k.v := by unfold Bank.setS; split <;> rfl
@[simp] theorem Bank.m_setS (k : Bank) (n : Nat) (v : W64) : (k.setS n v).m = k.m := by unfold Bank.setS; split <;> rfl
@[simp] theorem Bank.x_setS (k : Bank) (n : Nat) (v : W64) : (k.setS n v).x = k.x := by unfold Bank.setS; split <;> rfl
@[simp] theorem Bank.wb_setS (k : Bank) (n : Nat) (v : W64) : (k.setS n v).wb = k.wb := by unfold Bank.setS; split <;> rfl
@[simp] theorem Bank.rmode_setS (k : Bank) (n : Nat) (v : W64) : (k.setS n v).rmode = k.rmode := by unfold Bank.setS; split <;> rfl
@[simp] theorem Bank.stkbase_setS (k : Bank) (n : Nat) (v : W64) : (k.setS n v).stkbase = k.stkbase := by unfold Bank.setS; split <;> rfl
@[simp] theorem Bank.stklim_setS (k : Bank) (n : Nat) (v : W64) : (k.setS n v).stklim = k.stklim := by unfold Bank.setS; split <;> rfl
@[simp] theorem Bank.slotA_setS (k : Bank) (n : Nat) (v : W64) : (k.setS n v).slotA = k.slotA := by unfold Bank.setS; split <;> rfl
@[simp] theorem Bank.slotB_setS (k : Bank) (n : Nat) (v : W64) : (k.setS n v).slotB = k.slotB := by unfold Bank.setS; split <;> rfl
@[simp] theorem Bank.stk_setS (k : Bank) (n : Nat) (v : W64) : (k.setS n v).stk = k.stk := by unfold Bank.setS; split <;> rfl
@[simp] theorem Bank.spilled_setS (k : Bank) (n : Nat) (v : W64) : (k.setS n v).spilled = k.spilled := by unfold Bank.setS; split <;> rfl
@[simp] theorem Bank.wins_setS (k : Bank) (n : Nat) (v : W64) : (k.setS n v).wins = k.wins := by unfold Bank.setS; split <;> rfl
@[simp] theorem Bank.getM_setS (k : Bank) (n : Nat) (v : W64) (i : Nat) : (k.setS n v).getM i = k.getM i := by simp [Bank.getM]
@[simp] theorem Bank.getX_setS (k : Bank) (n : Nat) (v : W64) (i : Nat) : (k.setS n v).getX i = k.getX i := by simp [Bank.getX]
@[simp] theorem Bank.getP_setS (k : Bank) (n : Nat) (v : W64) (i j : Nat) : (k.setS n v).getP i j = k.getP i j := by simp [Bank.getP]
@[simp] theorem Bank.slot_setS (k : Bank) (n : Nat) (v : W64) (sl : SlotId) : (k.setS n v).slot sl = k.slot sl := by cases sl <;> simp [Bank.slot]

/-! ## setM -/

@[simp] theorem Bank.s_setM (k : Bank) (n : Nat) (v : W64) : (k.setM n v).s = k.s := rfl
@[simp] theorem Bank.v_setM (k : Bank) (n : Nat) (v : W64) : (k.setM n v).v = k.v := rfl
@[simp] theorem Bank.x_setM (k : Bank) (n : Nat) (v : W64) : (k.setM n v).x = k.x := rfl
@[simp] theorem Bank.wb_setM (k : Bank) (n : Nat) (v : W64) : (k.setM n v).wb = k.wb := rfl
@[simp] theorem Bank.rmode_setM (k : Bank) (n : Nat) (v : W64) : (k.setM n v).rmode = k.rmode := rfl
@[simp] theorem Bank.stkbase_setM (k : Bank) (n : Nat) (v : W64) : (k.setM n v).stkbase = k.stkbase := rfl
@[simp] theorem Bank.stklim_setM (k : Bank) (n : Nat) (v : W64) : (k.setM n v).stklim = k.stklim := rfl
@[simp] theorem Bank.slotA_setM (k : Bank) (n : Nat) (v : W64) : (k.setM n v).slotA = k.slotA := rfl
@[simp] theorem Bank.slotB_setM (k : Bank) (n : Nat) (v : W64) : (k.setM n v).slotB = k.slotB := rfl
@[simp] theorem Bank.stk_setM (k : Bank) (n : Nat) (v : W64) : (k.setM n v).stk = k.stk := rfl
@[simp] theorem Bank.spilled_setM (k : Bank) (n : Nat) (v : W64) : (k.setM n v).spilled = k.spilled := rfl
@[simp] theorem Bank.wins_setM (k : Bank) (n : Nat) (v : W64) : (k.setM n v).wins = k.wins := rfl
@[simp] theorem Bank.getS_setM (k : Bank) (n : Nat) (v : W64) (i : Nat) : (k.setM n v).getS i = k.getS i := by simp [Bank.getS]
@[simp] theorem Bank.getX_setM (k : Bank) (n : Nat) (v : W64) (i : Nat) : (k.setM n v).getX i = k.getX i := by simp [Bank.getX]
@[simp] theorem Bank.getP_setM (k : Bank) (n : Nat) (v : W64) (i j : Nat) : (k.setM n v).getP i j = k.getP i j := by simp [Bank.getP]
@[simp] theorem Bank.slot_setM (k : Bank) (n : Nat) (v : W64) (sl : SlotId) : (k.setM n v).slot sl = k.slot sl := by cases sl <;> simp [Bank.slot]

/-! ## setX -/

@[simp] theorem Bank.s_setX (k : Bank) (n : Nat) (x : XReg) : (k.setX n x).s = k.s := rfl
@[simp] theorem Bank.v_setX (k : Bank) (n : Nat) (x : XReg) : (k.setX n x).v = k.v := rfl
@[simp] theorem Bank.m_setX (k : Bank) (n : Nat) (x : XReg) : (k.setX n x).m = k.m := rfl
@[simp] theorem Bank.wb_setX (k : Bank) (n : Nat) (x : XReg) : (k.setX n x).wb = k.wb := rfl
@[simp] theorem Bank.rmode_setX (k : Bank) (n : Nat) (x : XReg) : (k.setX n x).rmode = k.rmode := rfl
@[simp] theorem Bank.stkbase_setX (k : Bank) (n : Nat) (x : XReg) : (k.setX n x).stkbase = k.stkbase := rfl
@[simp] theorem Bank.stklim_setX (k : Bank) (n : Nat) (x : XReg) : (k.setX n x).stklim = k.stklim := rfl
@[simp] theorem Bank.slotA_setX (k : Bank) (n : Nat) (x : XReg) : (k.setX n x).slotA = k.slotA := rfl
@[simp] theorem Bank.slotB_setX (k : Bank) (n : Nat) (x : XReg) : (k.setX n x).slotB = k.slotB := rfl
@[simp] theorem Bank.stk_setX (k : Bank) (n : Nat) (x : XReg) : (k.setX n x).stk = k.stk := rfl
@[simp] theorem Bank.spilled_setX (k : Bank) (n : Nat) (x : XReg) : (k.setX n x).spilled = k.spilled := rfl
@[simp] theorem Bank.wins_setX (k : Bank) (n : Nat) (x : XReg) : (k.setX n x).wins = k.wins := rfl
@[simp] theorem Bank.getS_setX (k : Bank) (n : Nat) (x : XReg) (i : Nat) : (k.setX n x).getS i = k.getS i := by simp [Bank.getS]
@[simp] theorem Bank.getM_setX (k : Bank) (n : Nat) (x : XReg) (i : Nat) : (k.setX n x).getM i = k.getM i := by simp [Bank.getM]
@[simp] theorem Bank.getP_setX (k : Bank) (n : Nat) (x : XReg) (i j : Nat) : (k.setX n x).getP i j = k.getP i j := by simp [Bank.getP]
@[simp] theorem Bank.slot_setX (k : Bank) (n : Nat) (x : XReg) (sl : SlotId) : (k.setX n x).slot sl = k.slot sl := by cases sl <;> simp [Bank.slot]

/-! ## setP -/

@[simp] theorem Bank.s_setP (k : Bank) (p l : Nat) (v : W32) : (k.setP p l v).s = k.s := rfl
@[simp] theorem Bank.m_setP (k : Bank) (p l : Nat) (v : W32) : (k.setP p l v).m = k.m := rfl
@[simp] theorem Bank.x_setP (k : Bank) (p l : Nat) (v : W32) : (k.setP p l v).x = k.x := rfl
@[simp] theorem Bank.wb_setP (k : Bank) (p l : Nat) (v : W32) : (k.setP p l v).wb = k.wb := rfl
@[simp] theorem Bank.rmode_setP (k : Bank) (p l : Nat) (v : W32) : (k.setP p l v).rmode = k.rmode := rfl
@[simp] theorem Bank.stkbase_setP (k : Bank) (p l : Nat) (v : W32) : (k.setP p l v).stkbase = k.stkbase := rfl
@[simp] theorem Bank.stklim_setP (k : Bank) (p l : Nat) (v : W32) : (k.setP p l v).stklim = k.stklim := rfl
@[simp] theorem Bank.slotA_setP (k : Bank) (p l : Nat) (v : W32) : (k.setP p l v).slotA = k.slotA := rfl
@[simp] theorem Bank.slotB_setP (k : Bank) (p l : Nat) (v : W32) : (k.setP p l v).slotB = k.slotB := rfl
@[simp] theorem Bank.stk_setP (k : Bank) (p l : Nat) (v : W32) : (k.setP p l v).stk = k.stk := rfl
@[simp] theorem Bank.spilled_setP (k : Bank) (p l : Nat) (v : W32) : (k.setP p l v).spilled = k.spilled := rfl
@[simp] theorem Bank.wins_setP (k : Bank) (p l : Nat) (v : W32) : (k.setP p l v).wins = k.wins := rfl
@[simp] theorem Bank.getS_setP (k : Bank) (p l : Nat) (v : W32) (i : Nat) : (k.setP p l v).getS i = k.getS i := by simp [Bank.getS]
@[simp] theorem Bank.getM_setP (k : Bank) (p l : Nat) (v : W32) (i : Nat) : (k.setP p l v).getM i = k.getM i := by simp [Bank.getM]
@[simp] theorem Bank.getX_setP (k : Bank) (p l : Nat) (v : W32) (i : Nat) : (k.setP p l v).getX i = k.getX i := by simp [Bank.getX]
@[simp] theorem Bank.slot_setP (k : Bank) (p l : Nat) (v : W32) (sl : SlotId) : (k.setP p l v).slot sl = k.slot sl := by cases sl <;> simp [Bank.slot]

/-! ## Reading after a write -/

theorem Bank.getS_setS (k : Bank) (n i : Nat) (v : W64) : (k.setS n v).getS i = if n = i ∧ i ≠ 0 then v else k.getS i := by
  unfold Bank.setS Bank.getS
  by_cases hn : n = 0
  · subst hn; by_cases hi : i = 0 <;> simp [hi, eq_comm]
  · by_cases hi : i = 0
    · simp [hn, hi]
    · by_cases h : n = i <;> simp [hn, hi, h, mget_mset]

/-- s0 reads zero (R32). -/
@[simp] theorem Bank.getS_zero (k : Bank) : k.getS 0 = 0 := rfl

theorem Bank.getM_setM (k : Bank) (n i : Nat) (v : W64) : (k.setM n v).getM i = if n = i then v else k.getM i := by
  simp [Bank.setM, Bank.getM, mget_mset]

theorem Bank.getX_setX (k : Bank) (n i : Nat) (v : XReg) : (k.setX n v).getX i = if n = i then v else k.getX i := by
  simp [Bank.setX, Bank.getX, mget_mset]

/-- Lanes of physical registers stand apart below lane 64. -/
theorem Bank.getP_setP (k : Bank) (p l p' l' : Nat) (v : W32) (h : l < 64) (h' : l' < 64) :
    (k.setP p l v).getP p' l' = if p = p' ∧ l = l' then v else k.getP p' l' := by
  simp only [Bank.setP, Bank.getP, mget_mset]
  by_cases e : 64 * p + l = 64 * p' + l'
  · have : p = p' ∧ l = l' := by omega
    simp [this]
  · have : ¬ (p = p' ∧ l = l') := by rintro ⟨rfl, rfl⟩; exact e rfl
    simp [e, this]

/-! ## Lanes of a vector (R49) -/

theorem lt_of_mem_lanesOf {m : W64} {l : Nat} (h : l ∈ lanesOf m) : l < 64 := by
  simp [lanesOf] at h; exact h.1

theorem Bank.setV_cons (k : Bank) (n l : Nat) (ls : List Nat) (f : Nat → W32) :
    k.setV n (l :: ls) f = (k.setP (physOf k.wb n) l (f l)).setV n ls f := rfl

/-- What setV does not touch. -/
theorem Bank.setV_rest (k : Bank) (n : Nat) (ls : List Nat) (f : Nat → W32) :
    k.setV n ls f = { k with v := (k.setV n ls f).v } := by
  induction ls generalizing k with
  | nil => rfl
  | cons l ls ih => rw [Bank.setV_cons, ih]; rfl

@[simp] theorem Bank.s_setV (k : Bank) (n : Nat) (ls : List Nat) (f : Nat → W32) :
    (k.setV n ls f).s = k.s := by rw [Bank.setV_rest]
@[simp] theorem Bank.m_setV (k : Bank) (n : Nat) (ls : List Nat) (f : Nat → W32) :
    (k.setV n ls f).m = k.m := by rw [Bank.setV_rest]
@[simp] theorem Bank.x_setV (k : Bank) (n : Nat) (ls : List Nat) (f : Nat → W32) :
    (k.setV n ls f).x = k.x := by rw [Bank.setV_rest]
@[simp] theorem Bank.wb_setV (k : Bank) (n : Nat) (ls : List Nat) (f : Nat → W32) :
    (k.setV n ls f).wb = k.wb := by rw [Bank.setV_rest]
@[simp] theorem Bank.rmode_setV (k : Bank) (n : Nat) (ls : List Nat) (f : Nat → W32) :
    (k.setV n ls f).rmode = k.rmode := by rw [Bank.setV_rest]
@[simp] theorem Bank.stkbase_setV (k : Bank) (n : Nat) (ls : List Nat) (f : Nat → W32) :
    (k.setV n ls f).stkbase = k.stkbase := by rw [Bank.setV_rest]
@[simp] theorem Bank.stklim_setV (k : Bank) (n : Nat) (ls : List Nat) (f : Nat → W32) :
    (k.setV n ls f).stklim = k.stklim := by rw [Bank.setV_rest]
@[simp] theorem Bank.slotA_setV (k : Bank) (n : Nat) (ls : List Nat) (f : Nat → W32) :
    (k.setV n ls f).slotA = k.slotA := by rw [Bank.setV_rest]
@[simp] theorem Bank.slotB_setV (k : Bank) (n : Nat) (ls : List Nat) (f : Nat → W32) :
    (k.setV n ls f).slotB = k.slotB := by rw [Bank.setV_rest]
@[simp] theorem Bank.stk_setV (k : Bank) (n : Nat) (ls : List Nat) (f : Nat → W32) :
    (k.setV n ls f).stk = k.stk := by rw [Bank.setV_rest]
@[simp] theorem Bank.spilled_setV (k : Bank) (n : Nat) (ls : List Nat) (f : Nat → W32) :
    (k.setV n ls f).spilled = k.spilled := by rw [Bank.setV_rest]
@[simp] theorem Bank.wins_setV (k : Bank) (n : Nat) (ls : List Nat) (f : Nat → W32) :
    (k.setV n ls f).wins = k.wins := by rw [Bank.setV_rest]

/-- Lane l of the physical register behind n reads as written, every other lane and register as before. -/
theorem Bank.getP_setV (k : Bank) (n : Nat) (ls : List Nat) (f : Nat → W32) (p l : Nat) (hl : ∀ i ∈ ls, i < 64)
    (h : l < 64) : (k.setV n ls f).getP p l = if physOf k.wb n = p ∧ l ∈ ls then f l else k.getP p l := by
  induction ls generalizing k with
  | nil => simp [Bank.setV]
  | cons i ls ih =>
    rw [Bank.setV_cons, ih _ fun j hj => hl j (by simp [hj])]
    simp only [Bank.wb_setP, List.mem_cons]
    rw [Bank.getP_setP _ _ _ _ _ _ (hl i (by simp)) h]
    by_cases hp : physOf k.wb n = p
    · by_cases hm : l ∈ ls
      · simp [hp, hm]
      · by_cases hi : i = l
        · simp [hp, hi]
        · simp [hp, hm, hi, Ne.symm hi]
    · simp [hp]

end Sys2Proof.Machine
end

