-- ==== Sys2Proof/Laws/Ops.lean ====
section
/-! SUPPORT. What the shared operations of issue do: a ready word runs its body, and a retired instruction leaves
everything alone but its group's bank and the run in progress (Ops.lean). -/

namespace Sys2Proof.Machine

/-! ## Issue -/

/-- The slot that issues belongs to a group that the state holds, and its context is the group's. -/
theorem issuing_spec {s : State} {c : Ctx} (h : s.issuing = some c) :
    s.grp? c.g = some c.grp ∧ c = s.ctx c.g c.sl ∧ (c.b.slot c.sl).empty = false ∧ (c.b.slot c.sl).wait = .none ∧
      (c.grp.run = .running ∨ c.grp.run = .stopping) := by
  unfold State.issuing at h
  split at h
  · cases h
  · split at h
    · cases h
    · split at h
      · cases h
      · rename_i g sl _ _ _ r hr
        have hg : s.grp g = r := by simp [State.grp, hr]
        simp only [Option.ite_none_right_eq_some, Option.some.injEq, Bool.and_eq_true, Bool.not_eq_true', beq_iff_eq] at h
        obtain ⟨⟨⟨h1, h2⟩, h3⟩, rfl⟩ := h
        refine ⟨by simp [State.ctx, hg, hr], rfl, by simpa [State.ctx, Ctx.b, hg] using h2,
          by simpa [State.ctx, Ctx.b, hg] using h3, ?_⟩
        simp only [State.ctx, hg]
        revert h1
        cases r.run <;> simp

/-- A ready word's group issues, no check of its description finds a fault, and its quadrant is sound where it matters. -/
theorem ready_spec {i : Instr} {s : State} {c : Ctx} (h : ready i s = some c) : s.issuing = some c ∧ ∃ d₀, desc i = some d₀ ∧
    let d := d₀.resolve (s.block c.bid)
    d.check c.grp.priv (s.part c.q.part).debug c.grp.valloc c.b.wb c.l.tiles = none ∧ c.grp.ahead = none ∧
      d.lookaheadHit c.sl c.b = false ∧ d.interlocked c.sl c.b = false ∧
      (d.covered = true → ∀ t, aluIssue c d s t = .good t) := by
  unfold ready at h
  cases hi : s.issuing with
  | none => simp [hi] at h
  | some c' =>
    cases hd : desc i with
    | none => simp [hi, hd] at h
    | some d =>
      simp only [hi, hd] at h
      split at h
      · rename_i hc
        cases h
        simp only [Bool.and_eq_true, Bool.not_eq_true', Option.isNone_iff_eq_none, Bool.or_eq_true] at hc
        obtain ⟨⟨⟨⟨h1, h2⟩, h3⟩, h4⟩, h5⟩ := hc
        refine ⟨rfl, d, rfl, h1, h2, h3, h4, fun hcov t => ?_⟩
        rcases h5 with h5 | h5
        · rw [hcov] at h5; cases h5
        · simp [aluIssue, h5]
      · cases h

theorem ready_issuing {i : Instr} {s : State} {c : Ctx} (h : ready i s = some c) : s.issuing = some c := (ready_spec h).1

/-- The description of a word once the alphabet register that it names has been read. -/
def Ctx.resolved (c : Ctx) (s : State) (d : Desc) : Desc := d.resolve (s.block c.bid)

theorem ready_grp {i : Instr} {s : State} {c : Ctx} (h : ready i s = some c) : s.grp? c.g = some c.grp :=
  (issuing_spec (ready_issuing h)).1

/-- The context of a ready word holds its group as the state has it. -/
theorem ready_grp_eq {i : Instr} {s : State} {c : Ctx} (h : ready i s = some c) : s.grp c.g = c.grp := by
  simp [State.grp, ready_grp h]

/-- A ready word runs its body. -/
theorem issueMem_ready {i : Instr} {d : Desc} {s : State} {c : Ctx} (h : ready i s = some c) (hd : desc i = some d)
    (body : Ctx → State → Res) (ts : Ctx → List (State → Tr)) :
    issueMem d s body ts = .next (finish c (c.resolved s d) s (body c s)) := by
  obtain ⟨hi, d₀, hd₀, h1, h2, h3, h4, h5⟩ := ready_spec h
  rw [hd] at hd₀
  cases hd₀
  have hA : c.grp.allocation = c.grp.valloc := by simp [Grp.allocation, h2]
  simp only [issueMem, hi, hA, h1, h2, h3, h4, Bool.false_eq_true, if_false, Ctx.resolved]
  split
  · rename_i hcov
    cases hb : body c s <;> simp [checkIssue, h5 hcov]
  · rfl

theorem issue_ready {i : Instr} {d : Desc} {s : State} {c : Ctx} (h : ready i s = some c) (hd : desc i = some d)
    (body : Ctx → State → Res) : issue d s body = .next (finish c (c.resolved s d) s (body c s)) := issueMem_ready h hd body _

theorem issueBank_ready {i : Instr} {d : Desc} {s : State} {c : Ctx} (h : ready i s = some c) (hd : desc i = some d)
    (f : Ctx → Bank → Bank) : issueBank d s f = .next (bankNext c (c.resolved s d) f s) := by
  rw [issueBank, issue_ready h hd]; rfl

/-! ## What a retired instruction leaves alone -/

theorem Grp.Keeps.refl (r : Grp) : r.Keeps r := ⟨rfl, fun _ => ⟨rfl, rfl, rfl⟩⟩

theorem Grp.Keeps.trans {r r' r'' : Grp} (h : r.Keeps r') (h' : r'.Keeps r'') : r.Keeps r'' := by
  constructor
  · have e : ({ r'' with b := r.b, run := r.run, epc := r.epc, eslot := r.eslot } : Grp) =
        { ({ r'' with b := r'.b, run := r'.run, epc := r'.epc, eslot := r'.eslot } : Grp) with
          b := r.b, run := r.run, epc := r.epc, eslot := r.eslot } := rfl
    rw [e, h'.rest, h.rest]
  · intro hr
    have h1 := h.run hr
    have h2 := h'.run (by rw [h1.1]; exact hr)
    exact ⟨h2.1.trans h1.1, h2.2.1.trans h1.2.1, h2.2.2.trans h1.2.2⟩

theorem CoresKept.refl (s : State) : CoresKept s s := ⟨fun _ _ => rfl, fun _ _ _ => rfl⟩

theorem CoresKept.trans {s t u : State} (h : CoresKept s t) (h' : CoresKept t u) : CoresKept s u :=
  ⟨fun d k => (h'.core d k).trans (h.core d k), fun d k q => (h'.quad d k q).trans (h.quad d k q)⟩

theorem CoresKept.modQuad (s : State) (d k q : Nat) (f : Quad → Quad)
    (hf : ∀ x, { f x with cur := none, last := 0 } = ({ x with cur := none, last := 0 } : Quad)) :
    CoresKept s (s.modQuad d k q f) := by
  constructor
  · intro d' k'
    rw [State.modQuad, State.core_modCore]
    split
    · rename_i e
      have : s.core d' k' = s.core d k := by simp [State.core, e]
      rw [this]
    · rfl
  · intro d' k' q'
    rw [State.quad, State.modQuad, State.core_modCore]
    split
    · rename_i e
      have hc : s.core d' k' = s.core d k := by simp [State.core, e]
      simp only [Core.quad, State.quad, hc, mget_mset]
      split
      · rename_i e'; rw [e']; exact hf _
      · rfl
    · rfl

theorem OnlyBank.refl (c : Ctx) (s : State) : OnlyBank c s s :=
  ⟨rfl, fun _ _ => rfl, Grp.Keeps.refl _, CoresKept.refl s⟩

theorem OnlyBank.trans {c : Ctx} {s t u : State} (h : OnlyBank c s t) (h' : OnlyBank c t u) : OnlyBank c s u := by
  refine ⟨?_, fun g hg => (h'.others g hg).trans (h.others g hg), h.grp.trans h'.grp, h.cores.trans h'.cores⟩
  have e : ({ u with groups := s.groups, cores := s.cores, cur := s.cur } : State) =
      { ({ u with groups := t.groups, cores := t.cores, cur := t.cur } : State) with
        groups := s.groups, cores := s.cores, cur := s.cur } := rfl
  rw [e, h'.rest, h.rest]

/-- A change of the issuing group within what Grp.Keeps allows. -/
theorem OnlyBank.modGrp (c : Ctx) (s : State) (f : Grp → Grp) (hf : ∀ r : Grp, r.Keeps (f r)) :
    OnlyBank c s (s.modGrp c.g f) := by
  refine ⟨rfl, fun g hg => ?_, ?_, ⟨fun _ _ => rfl, fun _ _ _ => rfl⟩⟩
  · simp [State.grpOpt_modGrp, Ne.symm hg]
  · cases h : s.grp? c.g with
    | none => simp only [State.grp, State.grpOpt_modGrp, h]; exact Grp.Keeps.refl _
    | some r => simp only [State.grp, State.grpOpt_modGrp, h]; exact hf r

theorem OnlyBank.modBank (c : Ctx) (s : State) (f : Bank → Bank) : OnlyBank c s (s.modBank c.g f) :=
  OnlyBank.modGrp c s _ fun _ => ⟨rfl, fun _ => ⟨rfl, rfl, rfl⟩⟩

theorem OnlyBank.modQuad (c : Ctx) (s : State) (d k q : Nat) (f : Quad → Quad)
    (hf : ∀ x, { f x with cur := none, last := 0 } = ({ x with cur := none, last := 0 } : Quad)) :
    OnlyBank c s (s.modQuad d k q f) :=
  ⟨rfl, fun _ _ => rfl, Grp.Keeps.refl _, CoresKept.modQuad s d k q f hf⟩

theorem Grp.keeps_runEnds (sl : SlotId) (r : Grp) : r.Keeps (r.runEnds sl) := by
  unfold Grp.runEnds
  split
  · rename_i h; exact ⟨rfl, fun hn => absurd h hn⟩
  · exact Grp.Keeps.refl r

theorem OnlyBank.endRun (c : Ctx) (s : State) (sl : SlotId) : OnlyBank c s (s.endRun c.g sl) := by
  unfold State.endRun
  refine OnlyBank.trans ?_ (OnlyBank.modGrp c _ _ (Grp.keeps_runEnds sl))
  have h := OnlyBank.modQuad c s (s.whereIs c.g).1 (s.whereIs c.g).2.1 (s.whereIs c.g).2.2
    (Quad.runEnds c.g sl (s.grp c.g).rslot) fun _ => rfl
  exact ⟨h.rest, h.others, h.grp, ⟨h.cores.core, h.cores.quad⟩⟩

theorem OnlyBank.countRun (c : Ctx) (s : State) (sl : SlotId) (e : Bool) : OnlyBank c s (s.countRun c.g sl e) := by
  unfold State.countRun
  simp only
  split
  · exact OnlyBank.refl c s
  · split
    · exact OnlyBank.endRun c s sl
    · exact OnlyBank.modQuad c s _ _ _ _ fun _ => rfl

/-- Retiring an instruction changes nothing but the bank of its group and the run in progress. -/
theorem OnlyBank.retire (c : Ctx) (d : Desc) (s : State) (pc : W64) (w e : Bool) : OnlyBank c s (s.retire c d pc w e) :=
  ((OnlyBank.modBank c s _).trans (OnlyBank.modBank c _ _)).trans (OnlyBank.countRun c _ _ _)

/-- A slot that waits for anything but a translation by the host changes nothing else either. -/
theorem OnlyBank.park (c : Ctx) (s : State) (w : Wait) (p : List WReg) (h : w.asks = none) : OnlyBank c s (s.park c w p) := by
  unfold State.park State.askAts
  rw [h]
  have e : ∀ t : State, OnlyBank c t (t.suspend c.g c.sl w) := fun t => by
    unfold State.suspend; split
    · exact OnlyBank.modBank c t _
    · exact OnlyBank.refl c t
  exact ((OnlyBank.modBank c s _).trans (e _)).trans (OnlyBank.endRun c _ _)

theorem OnlyBank.bankNext (c : Ctx) (d : Desc) (f : Ctx → Bank → Bank) (s : State) : OnlyBank c s (bankNext c d f s) :=
  (OnlyBank.modBank c s _).trans (OnlyBank.retire c d _ _ _ _)

/-! ## The bank after a retired instruction -/

/-- The registers of k' are those of k: only the slots and the lookahead windows may differ. -/
def Bank.SameRegs (k k' : Bank) : Prop := { k' with slotA := k.slotA, slotB := k.slotB, wins := k.wins } = k

theorem grp_b_modGrp (s : State) (g : GId) (f : Grp → Grp) (h : (s.grp? g).isSome) :
    ((s.modGrp g f).grp g).b = (f (s.grp g)).b := by rw [State.grp_modGrp_self s g f h]

theorem grpOpt_isSome_modGrp (s : State) (g g' : GId) (f : Grp → Grp) :
    ((s.modGrp g f).grp? g').isSome = (s.grp? g').isSome := by
  rw [State.grpOpt_modGrp]; split <;> simp

theorem grp_b_modGrp_same (s : State) (g g' : GId) (f : Grp → Grp) (hf : ∀ r, (f r).b = r.b) :
    ((s.modGrp g f).grp g').b = (s.grp g').b := by
  simp only [State.grp, State.grpOpt_modGrp]
  by_cases e : g = g'
  · simp only [e, if_true]
    cases s.grp? g' with
    | none => rfl
    | some r => exact hf r
  · simp only [e, if_false]

/-- The end of a run leaves the banks alone. -/
theorem grp_b_endRun (s : State) (g g' : GId) (sl : SlotId) : ((s.endRun g sl).grp g').b = (s.grp g').b := by
  unfold State.endRun
  refine (grp_b_modGrp_same _ g g' _ fun r => ?_).trans rfl
  unfold Grp.runEnds
  split <;> rfl

theorem grp_b_countRun (s : State) (g g' : GId) (sl : SlotId) (e : Bool) :
    ((s.countRun g sl e).grp g').b = (s.grp g').b := by
  unfold State.countRun
  simp only
  split
  · rfl
  · split
    · exact grp_b_endRun ..
    · rfl

/-- The bank after a retired instruction: windows, the next address. -/
theorem grp_b_retire (c : Ctx) (d : Desc) (s : State) (pc : W64) (w e : Bool) (h : (s.grp? c.g).isSome) :
    ((s.retire c d pc w e).grp c.g).b =
      Bank.modSlot { (s.grp c.g).b with wins := d.winsAfter c w (s.grp c.g).b } c.sl (Slot.goesTo pc) := by
  unfold State.retire
  rw [grp_b_countRun]
  unfold State.setPc State.openWindow State.modSlot State.modBank
  rw [grp_b_modGrp _ _ _ (by rw [grpOpt_isSome_modGrp]; exact h), State.grp_modGrp_self _ _ _ h]

/-- The bank after an instruction whose only effect is on the bank. -/
theorem grp_b_bankNext {c : Ctx} {s : State} (h : s.grp? c.g = some c.grp) (d : Desc) (f : Ctx → Bank → Bank) :
    ((bankNext c d f s).grp c.g).b =
      Bank.modSlot { f c c.b with wins := d.winsAfter c true (f c c.b) } c.sl (Slot.goesTo c.next) := by
  unfold bankNext
  rw [grp_b_retire _ _ _ _ _ _ (by unfold State.modBank; rw [grpOpt_isSome_modGrp, h]; rfl)]
  have : ((s.modBank c.g (f c)).grp c.g).b = f c c.b := by
    unfold State.modBank
    rw [grp_b_modGrp _ _ _ (by simp [h])]
    simp [State.grp, h, Ctx.b]
  simp [this]

end Sys2Proof.Machine
end

