-- ==== Sys2Proof/Laws/Mem.lean ====
section
/-! SUPPORT. What the accesses of the memory system do inside the package: loads and stores return and write State.mem,
and else change only the lines of the caches and the layers below (Mem.lean). -/

namespace Sys2Proof.Machine

/-! ## CachesOnly -/

theorem CachesOnly.refl (s : State) : CachesOnly s s := ⟨rfl, fun _ => rfl, fun _ _ => rfl⟩

theorem CachesOnly.trans {s t u : State} (h : CachesOnly s t) (h' : CachesOnly t u) : CachesOnly s u := by
  refine ⟨?_, fun d => (h'.die d).trans (h.die d), fun d k => (h'.core d k).trans (h.core d k)⟩
  have e : ({ u with l2m := s.l2m, low := s.low, lpd := s.lpd, dies := s.dies, cores := s.cores, fabric := s.fabric } : State) =
      { ({ u with l2m := t.l2m, low := t.low, lpd := t.lpd, dies := t.dies, cores := t.cores, fabric := t.fabric } : State) with
        l2m := s.l2m, low := s.low, lpd := s.lpd, dies := s.dies, cores := s.cores, fabric := s.fabric } := rfl
  rw [e, h'.rest, h.rest]

/-- A change of the layers below State.mem. -/
theorem CachesOnly.layers (s : State) (a b c : SMap Byte) : CachesOnly s { s with l2m := a, low := b, lpd := c } :=
  ⟨rfl, fun _ => rfl, fun _ _ => rfl⟩

/-- A transfer over the on-chip network. -/
theorem CachesOnly.fabric (s : State) (f : List Transfer) : CachesOnly s { s with fabric := f } :=
  ⟨rfl, fun _ => rfl, fun _ _ => rfl⟩

/-- A change of one die in what CachesOnly allows. -/
theorem CachesOnly.modDieAt (s : State) (n : Nat) (f : Die → Die)
    (hf : { f (s.die n) with l2 := [], cooper := [], coopWrites := [], coopFills := [] } =
      ({ s.die n with l2 := [], cooper := [], coopWrites := [], coopFills := [] } : Die)) : CachesOnly s (s.modDie n f) := by
  refine ⟨rfl, fun d => ?_, fun _ _ => rfl⟩
  rw [State.die_modDie]
  split
  · subst_vars; exact hf
  · rfl

theorem CachesOnly.modDie (s : State) (n : Nat) (f : Die → Die)
    (hf : ∀ x, { f x with l2 := [], cooper := [], coopWrites := [], coopFills := [] } =
      ({ x with l2 := [], cooper := [], coopWrites := [], coopFills := [] } : Die)) : CachesOnly s (s.modDie n f) :=
  CachesOnly.modDieAt s n f (hf _)

theorem CachesOnly.modCore (s : State) (d k : Nat) (f : Core → Core)
    (hf : ∀ x, { f x with l1 := [] } = ({ x with l1 := [] } : Core)) : CachesOnly s (s.modCore d k f) := by
  refine ⟨rfl, fun _ => rfl, fun d' k' => ?_⟩
  rw [State.core_modCore]
  split
  · rename_i e
    have : s.core d' k' = s.core d k := by simp [State.core, e]
    rw [this]; exact hf _
  · rfl

/-! ### What CachesOnly keeps -/

section keeps
variable {s t : State} (h : CachesOnly s t)
include h

theorem CachesOnly.mem : t.mem = s.mem := by have e := congrArg State.mem h.rest; exact e
theorem CachesOnly.withheld : t.withheld = s.withheld := by have e := congrArg State.withheld h.rest; exact e
theorem CachesOnly.monitors : t.monitors = s.monitors := by have e := congrArg State.monitors h.rest; exact e
theorem CachesOnly.updates : t.updates = s.updates := by have e := congrArg State.updates h.rest; exact e
theorem CachesOnly.cfg : t.cfg = s.cfg := by have e := congrArg State.cfg h.rest; exact e
theorem CachesOnly.ready : t.ready = s.ready := by have e := congrArg State.ready h.rest; exact e
theorem CachesOnly.parts : t.parts = s.parts := by have e := congrArg State.parts h.rest; exact e
theorem CachesOnly.groups : t.groups = s.groups := by have e := congrArg State.groups h.rest; exact e
theorem CachesOnly.launches : t.launches = s.launches := by have e := congrArg State.launches h.rest; exact e

theorem CachesOnly.part (p : Nat) : t.part p = s.part p := by simp [State.part, h.parts]

theorem CachesOnly.readyBit : t.readyBit = s.readyBit := funext fun n => by simp [State.readyBit, h.ready]

theorem CachesOnly.reach (p pa : Nat) : t.reach p pa = s.reach p pa := by
  simp only [State.reach, State.dieServes, State.coopPos, State.coopSectors, State.shareBytes, State.routeUp,
    State.ownPort, h.part, h.cfg, h.readyBit]
  rfl

theorem CachesOnly.replicaHeld (p pa : Nat) : t.replicaHeld p pa = s.replicaHeld p pa := by
  simp only [State.replicaHeld, h.part]

theorem CachesOnly.coopPos (p pa : Nat) : t.coopPos p pa = s.coopPos p pa := by
  simp only [State.coopPos, State.coopSectors, h.part, h.cfg]

theorem CachesOnly.grpOpt (g : GId) : t.grp? g = s.grp? g := by simp [State.grp?, h.groups]

theorem CachesOnly.quiet (hq : s.Quiet) : t.Quiet := fun d => by
  have e := h.die d
  obtain ⟨h1, h2, h3, h4, h5⟩ := hq d
  exact ⟨(congrArg Die.damage e :).trans h1, (congrArg Die.coopDamage e :).trans h2, (congrArg Die.coopReqs e :).trans h3,
    (congrArg Die.blocked e :).trans h4, (congrArg Die.lost e :).trans h5⟩

end keeps

theorem State.Serves.of_caches {s t : State} {part pa : Nat} (h : s.Serves part pa) (c : CachesOnly s t) : t.Serves part pa := by
  exact ⟨h.inside, by rw [c.reach]; exact h.reach, by rw [c.withheld]; exact h.held, by rw [c.replicaHeld]; exact h.repl,
    by rw [c.updates]; exact h.copies, c.quiet h.quiet⟩

/-! ## Where no memory error stands in the way -/

/-- Where no memory error stands in the way, t is s but for its caches. -/
structure Caches (s t : State) : Prop where
  only : s.Quiet → CachesOnly s t

theorem Caches.refl (s : State) : Caches s s := ⟨fun _ => CachesOnly.refl s⟩

theorem CachesOnly.caches {s t : State} (h : CachesOnly s t) : Caches s t := ⟨fun _ => h⟩

theorem Caches.modDie (s : State) (n : Nat) (f : Die → Die)
    (hf : ∀ x, { f x with l2 := [], cooper := [], coopWrites := [], coopFills := [] } =
      ({ x with l2 := [], cooper := [], coopWrites := [], coopFills := [] } : Die)) : Caches s (s.modDie n f) :=
  (CachesOnly.modDie s n f hf).caches

theorem Caches.modCore (s : State) (d k : Nat) (f : Core → Core) (hf : ∀ x, { f x with l1 := [] } = ({ x with l1 := [] } : Core)) :
    Caches s (s.modCore d k f) := (CachesOnly.modCore s d k f hf).caches

theorem Caches.trans {s t u : State} (h : Caches s t) (h' : Caches t u) : Caches s u :=
  ⟨fun q => (h.only q).trans (h'.only ((h.only q).quiet q))⟩

theorem Caches.ite {s t u : State} (p : Prop) [Decidable p] (h : Caches s t) (h' : Caches s u) : Caches s (if p then t else u) := by
  split <;> assumption

theorem Caches.foldl {α : Type} (f : State → α → State) (hf : ∀ s x, Caches s (f s x)) (l : List α) (s : State) :
    Caches s (l.foldl f s) := by
  induction l generalizing s with
  | nil => exact Caches.refl s
  | cons x l ih => exact (hf s x).trans (ih _)

/-- The same of an access: of the state with which it answers. -/
def Acc.Caches (s : State) : Acc → Prop
  | .ok _ t => Machine.Caches s t
  | .abort t => Machine.Caches s t
  | .wait _ => True

theorem Acc.Caches.bind {s : State} {a : Acc} {f : Nat → State → Acc} (h : a.Caches s) (hf : ∀ v t, (f v t).Caches t) :
    (a.bind f).Caches s := by
  cases a with
  | ok v t =>
    have := hf v t
    show (f v t).Caches s
    cases hx : f v t <;> rw [hx] at this <;> first | trivial | exact Machine.Caches.trans h this
  | abort t => exact h
  | wait w => trivial

theorem Acc.Caches.state {s : State} {a : Acc} (h : a.Caches s) : Machine.Caches s (a.state s) := by
  cases a with
  | ok v t => exact h
  | abort t => exact h
  | wait w => exact Machine.Caches.refl s

/-! ## The Cooper and L2 -/

theorem caches_lpddrWrite (s : State) (n : Nat) : CachesOnly s (s.lpddrWrite n) := CachesOnly.layers s _ _ _

theorem caches_setSector (s : State) (die slot : Nat) (x : Sector) : CachesOnly s (s.setSector die slot x) :=
  CachesOnly.modDie s _ _ fun _ => rfl

theorem caches_coopWritesDone (s : State) (die : Nat) (f : CoopWrite → Bool) : Caches s (s.coopWritesDone die f) := by
  unfold State.coopWritesDone
  have h1 : ∀ l : List CoopWrite, Caches s (l.foldl (fun s w => s.lpddrWrite w.sector) s) := fun l =>
    Caches.foldl (fun (s : State) (w : CoopWrite) => s.lpddrWrite w.sector) (fun s w => (caches_lpddrWrite s w.sector).caches) l s
  exact (h1 _).trans (Caches.modDie _ _ _ fun _ => rfl)

/-- Marks of wrong symbols that go away were not there. -/
theorem caches_sound (s : State) (n : Nat) (f : Die → Die)
    (hf : ∀ x : Die, x.Sound → { f x with l2 := [], cooper := [], coopWrites := [], coopFills := [] } =
      ({ x with l2 := [], cooper := [], coopWrites := [], coopFills := [] } : Die)) : Caches s (s.modDie n f) :=
  ⟨fun q => CachesOnly.modDieAt s n f (hf _ (q n))⟩

theorem caches_coopFillDone (s : State) (part die slot sector : Nat) : Caches s (s.coopFillDone part die slot sector) := by
  unfold State.coopFillDone
  generalize hu : s.coopWritesDone die (fun w => w.sector == sector) = u
  have h1 : Caches s u := hu ▸ caches_coopWritesDone s die _
  have h2 : CachesOnly u { u with low := mcopy u.lpd u.low (sectorAddr sector) 2048 } := CachesOnly.layers u u.l2m _ u.lpd
  exact (h1.trans h2.caches).trans ((caches_setSector _ _ _ _).caches.trans
    (caches_sound _ _ _ fun x h => by simp [h.coopDamage]))

theorem caches_coopFillStart (s : State) (part : Nat) (p : CoopPos) : CachesOnly s (s.coopFillStart part p) := by
  have fills : ∀ u : State, CachesOnly u ((u.setSector p.die p.slot {}).modDie p.die fun d =>
      { d with coopFills := d.coopFills ++ [{ slot := p.slot, sector := p.n }] }) :=
    fun u => (caches_setSector u _ _ _).trans (CachesOnly.modDie _ _ _ fun _ => rfl)
  unfold State.coopFillStart
  simp only
  split
  · refine CachesOnly.trans ?_ (fills _)
    exact CachesOnly.modDie s p.die _ fun _ => rfl
  · exact fills s

/-- A request that the Cooper serves, where no memory error stands in the way. -/
theorem caches_coopServe (s : State) (part pa : Nat) (wb done : Bool) (q : s.Quiet) :
    ∃ t, s.coopServe part pa wb 0 done = .ok 0 t ∧ Caches s t := by
  have e : s.coopErrors (s.coopPos part pa) pa wb 0 = [] := by simp [State.coopErrors, (q _).coopDamage]
  unfold State.coopServe
  simp only [e, State.coopCheck, (q _).blocked, List.contains_nil, Bool.false_eq_true, if_false, Acc.bind]
  split
  · exact ⟨_, rfl, Caches.refl s⟩
  · exact ⟨_, rfl, (caches_coopFillStart ..).caches.trans (Caches.ite _ (caches_coopFillDone ..) (Caches.refl _))⟩

theorem caches_coopPut (s : State) (part pa : Nat) : Caches s (s.coopPut part pa) := by
  unfold State.coopPut
  exact (CachesOnly.layers s s.l2m (mcopy s.l2m s.low pa 64) s.lpd).caches.trans ((caches_setSector _ _ _ _).caches.trans
    (caches_sound _ _ _ fun x h => by simp [h.coopDamage, h.lost]))

theorem caches_coopSettle (s : State) (part : Nat) (p : CoopPos) : Caches s (s.coopSettle part p) := by
  unfold State.coopSettle
  split
  · exact Caches.refl s
  · rename_i f _
    refine ⟨fun q => ?_⟩
    have h := (caches_coopFillDone s part p.die p.slot f.sector).only q
    have hr := h.quiet q
    simp only [State.coopTake, (hr p.die).coopReqs, List.filter_nil, List.foldl_nil]
    exact h.trans ((caches_sound _ _ _ fun x h => by simp [h.coopReqs]).only hr)

theorem caches_coopEnsure (s : State) (part pa : Nat) : (s.coopEnsure part pa).Caches s := by
  unfold State.coopEnsure
  have h := caches_coopSettle s part (s.coopPos part pa)
  by_cases q : s.Quiet
  · obtain ⟨t, ht, h2⟩ :=
      caches_coopServe (s.coopSettle part (s.coopPos part pa)) part pa false true ((h.only q).quiet q)
    rw [ht]; exact h.trans h2
  · cases State.coopServe (s.coopSettle part (s.coopPos part pa)) part pa false 0 true
    · exact ⟨fun q' => absurd q' q⟩
    · exact ⟨fun q' => absurd q' q⟩
    · trivial

theorem caches_mend (s : State) (lo n : Nat) : Caches s (s.mend lo n) := by
  unfold State.mend
  split
  · rename_i d off _
    exact caches_sound _ _ _ fun x h => by simp [h.damage]
  · exact Caches.refl s

/-- A write-back is performed where no memory error stands in the way. -/
theorem caches_coopWriteback (s : State) (part pa : Nat) (q : s.Quiet) :
    ∃ t, s.coopWriteback part pa = (t, true) ∧ Caches s t := by
  obtain ⟨u, hu, h⟩ := caches_coopServe s part pa true true q
  unfold State.coopWriteback
  rw [hu]
  exact ⟨_, rfl, h.trans (caches_coopPut ..)⟩

theorem caches_sectorWriteback (s : State) (part pa : Nat) : Caches s (s.sectorWriteback part pa) := by
  unfold State.sectorWriteback
  split
  · refine ⟨fun q => ?_⟩
    have h := (caches_coopSettle s part (s.coopPos part pa)).only q
    obtain ⟨t, ht, h2⟩ := caches_coopWriteback (s.coopSettle part (s.coopPos part pa)) part pa (h.quiet q)
    simp only [ht, if_true]
    exact h.trans (h2.only (h.quiet q))
  · exact (CachesOnly.layers s s.l2m (mcopy s.l2m s.low pa 64) s.lpd).caches.trans (caches_mend ..)

theorem caches_l2Clean (s : State) (part die line : Nat) : Caches s (s.l2Clean part die line) := by
  unfold State.l2Clean
  split
  · exact Caches.refl s
  · refine (Caches.foldl _ (fun s k => ?_) _ s).trans (Caches.modDie _ _ _ fun _ => rfl)
    exact Caches.ite _ (caches_sectorWriteback ..) (Caches.refl s)

theorem caches_l2Room (s : State) (part die pa : Nat) : Caches s (s.l2Room part die pa) := by
  unfold State.l2Room
  simp only
  split
  · exact Caches.refl s
  · split
    · exact Caches.refl s
    · rename_i v _
      refine ⟨fun q => ?_⟩
      have h : CachesOnly s ((s.l2Clean part die v.line).l2Drop die v.line) :=
        (caches_l2Clean s part die v.line).only q |>.trans (CachesOnly.modDie _ die _ fun _ => rfl)
      simp only [(h.quiet q die).lost, List.any_nil, Bool.false_eq_true, if_false]
      exact h

theorem l2Touch_rest (x : Die) (line h : Nat) :
    { x.l2Touch line h with l2 := [], cooper := [], coopWrites := [], coopFills := [] } =
      { x with l2 := [], cooper := [], coopWrites := [], coopFills := [] } := by
  unfold Die.l2Touch; split <;> rfl

/-- The fill of a line whose bursts are sound. -/
theorem fillCheck_quiet {s : State} (q : s.Quiet) (part pa : Nat) : s.fillCheck part pa = .ok 0 s := by
  unfold State.fillCheck State.lineDamage
  split
  · rename_i d _ _; simp [(q d).damage]
  · rfl

theorem caches_fill (s : State) (part pa : Nat) (q : s.Quiet) :
    (match region pa with | .lpddr _ _ => s.coopEnsure part pa | _ => s.fillCheck part pa).Caches s := by
  split
  · exact caches_coopEnsure ..
  · rw [fillCheck_quiet q]; exact Caches.refl s

/-- The home slice holds a line, or reads it past the slice. -/
theorem caches_l2Ensure (s : State) (part pa h : Nat) (q : s.Quiet) : (s.l2Ensure part pa h).Caches s := by
  unfold State.l2Ensure
  simp only
  split
  · exact Caches.refl s
  · split
    · exact Caches.modDie _ _ _ fun _ => l2Touch_rest ..
    · refine (caches_fill s part pa q).bind fun v t => ?_
      split
      · exact Caches.refl t
      · exact (caches_l2Room ..).trans (Caches.modDie _ _ _ fun _ => rfl)

/-- A slice that serves a line holds it. -/
theorem l2Ensure_serves {s : State} {part pa : Nat} (h : s.Serves part pa) (hint : Nat) :
    ∃ t, s.l2Ensure part pa hint = .ok 0 t ∧ CachesOnly s t := by
  have hc := caches_l2Ensure s part pa hint h.quiet
  suffices ∃ t, s.l2Ensure part pa hint = .ok 0 t by
    obtain ⟨t, ht⟩ := this
    rw [ht] at hc
    exact ⟨t, ht, hc.only h.quiet⟩
  have fill : ∃ t, (match region pa with | .lpddr _ _ => s.coopEnsure part pa | _ => s.fillCheck part pa) = .ok 0 t := by
    split
    · have hs := (caches_coopSettle s part (s.coopPos part pa)).only h.quiet
      obtain ⟨t, ht, -⟩ := caches_coopServe _ part pa false true (hs.quiet h.quiet)
      exact ⟨t, ht⟩
    · exact ⟨s, fillCheck_quiet h.quiet part pa⟩
  obtain ⟨u, hu⟩ := fill
  unfold State.l2Ensure
  have hw : s.withheld.contains (pa / 256) = false := by simpa using h.held
  simp only [hw, Bool.false_eq_true, if_false]
  split
  · exact ⟨_, rfl⟩
  · have hb : ∀ (a : Acc) (f : Nat → State → Acc), a = .ok 0 u → (∃ t, f 0 u = .ok 0 t) → ∃ t, a.bind f = .ok 0 t := by
      rintro a f rfl h; exact h
    refine hb _ _ hu ?_
    split <;> exact ⟨_, rfl⟩

/-! ## L1 -/

theorem caches_l1Merge (s : State) (part line mask : Nat) : Caches s (s.l1Merge part line mask) := by
  unfold State.l1Merge
  split
  · exact Caches.refl s
  · refine ⟨fun q => ?_⟩
    simp only
    have hp : CachesOnly s (s.plain 64) := CachesOnly.fabric s _
    generalize s.plain 64 = p at hp ⊢
    have hq := hp.quiet q
    generalize hu : (if ((p.die (p.homeDie part (64 * line))).l2Find (64 * line / 256)).isSome then
      p.modDie (p.homeDie part (64 * line)) fun d => d.l2Touch (64 * line / 256) 1
      else (p.l2Ensure part (64 * line) 0).state p) = u
    have h1 : CachesOnly s u := by
      refine hp.trans ?_
      rw [← hu]
      split
      · exact CachesOnly.modDie _ _ _ fun _ => l2Touch_rest ..
      · exact (caches_l2Ensure p part (64 * line) 0 hq).state.only hq
    exact h1.trans ((CachesOnly.layers u _ u.low u.lpd).trans (CachesOnly.modDie _ _ _ fun _ => rfl))

theorem caches_l1Recall (s : State) (part line : Nat) (keep : Option Nat) (drop : Bool) :
    Caches s (s.l1Recall part line keep drop) := by
  unfold State.l1Recall
  refine Caches.foldl _ (fun s e => ?_) _ s
  refine Caches.ite _ (Caches.refl s) ?_
  split
  · exact Caches.refl s
  · exact (caches_l1Merge ..).trans (Caches.modCore _ _ _ _ fun _ => rfl)

theorem caches_l1Room (s : State) (part die core : Nat) : Caches s (s.l1Room part die core) := by
  unfold State.l1Room
  simp only
  split
  · exact Caches.refl s
  · split
    · exact Caches.refl s
    · exact (caches_l1Merge ..).trans (Caches.modCore _ _ _ _ fun _ => rfl)

theorem caches_l1Take (s : State) (part die core line h mask : Nat) (e : Bool) :
    Caches s (s.l1Take part die core line h mask e) := by
  unfold State.l1Take
  split
  · exact Caches.modCore _ _ _ _ fun _ => rfl
  · split
    · exact Caches.refl s
    · exact (caches_l1Room ..).trans (Caches.modCore _ _ _ _ fun _ => rfl)

/-! ## Accesses inside the package -/

/-- A line without update-only copies has nothing to recall. -/
theorem recallUpdates_none {s : State} {part line : Nat} (h : ∀ u ∈ s.updates, u.line ≠ line) : s.recallUpdates part line = s := by
  have h1 : (s.updates.filter fun u => u.line == line) = [] := by simpa using h
  simp [State.recallUpdates, h1]

theorem lineAccess_serves {s : State} {part pa : Nat} (h : s.Serves part pa) (hint : Nat) (load : Bool) :
    ∃ t, s.lineAccess part pa hint load = .ok 0 t ∧ CachesOnly s t := by
  obtain ⟨t, ht, hc⟩ := l2Ensure_serves h hint
  refine ⟨t, ?_, hc⟩
  unfold State.lineAccess
  simp [h.reach, h.repl, recallUpdates_none h.copies, ht]

/-- A load at the home slice returns State.mem. -/
theorem homeLoad_serves {s : State} {part pa : Nat} (h : s.Serves part pa) (n : Nat) :
    ∃ t, s.homeLoad part pa n = .ok (loadN s.mem pa n) t ∧ CachesOnly s t := by
  obtain ⟨t, ht, hc⟩ := lineAccess_serves h 0 true
  refine ⟨_, by rw [State.homeLoad, ht, Acc.bind, hc.mem], hc.trans ((caches_l1Recall t part (pa / 64) none false).only (hc.quiet h.quiet))⟩

/-- The messages of an L1's miss. -/
theorem caches_l1Answer (s : State) (q : Req) (pa : Nat) : CachesOnly s (s.l1Answer q pa) := CachesOnly.fabric s _

/-- A load by a core returns State.mem. -/
theorem coreLoad_serves {s : State} {q : Req} {pa : Nat} (h : s.Serves q.part pa) (n hint : Nat) :
    ∃ t, s.coreLoad q pa n hint = .ok (loadN s.mem pa n) t ∧ CachesOnly s t := by
  have go : ∀ u, CachesOnly s u → ∃ t, (Acc.ok (loadN (u.l1Recall q.part (pa / 64) (some (256 * q.die + q.core)) false).mem pa n)
      ((u.l1Recall q.part (pa / 64) (some (256 * q.die + q.core)) false).l1Take q.part q.die q.core (pa / 64) hint 0 false)) =
      .ok (loadN s.mem pa n) t ∧ CachesOnly s t := by
    intro u hu
    have h1 := hu.trans ((caches_l1Recall u q.part (pa / 64) (some (256 * q.die + q.core)) false).only (hu.quiet h.quiet))
    exact ⟨_, by rw [h1.mem], h1.trans ((caches_l1Take ..).only (h1.quiet h.quiet))⟩
  unfold State.coreLoad
  simp only
  split
  · rw [recallUpdates_none h.copies]; exact go s (CachesOnly.refl s)
  · obtain ⟨t, ht, hc⟩ := lineAccess_serves h hint true
    rw [ht]
    refine go _ (hc.trans ?_)
    split
    · exact CachesOnly.refl t
    · exact caches_l1Answer t q pa

/-- A write at the home slice of a line that no monitor watches. -/
theorem monitorWrite_unwatched {s : State} {pa n : Nat} (h : s.Unwatched pa n) : s.monitorWrite pa n = s := by
  have h1 : ∀ m ∈ s.monitors, (decide (m.pa < pa + n) && decide (pa < m.pa + 8) && condMet m.c (s.elem m.pa) m.v) = false := by
    intro m hm
    have h2 : (decide (m.pa < pa + n) && decide (pa < m.pa + 8)) = false := by
      have := (h m hm).2
      rw [Bool.and_eq_false_iff, decide_eq_false_iff_not, decide_eq_false_iff_not]
      omega
    rw [h2, Bool.false_and]
  unfold State.monitorWrite
  have e1 : (s.monitors.filter fun m => !(decide (m.pa < pa + n) && decide (pa < m.pa + 8) && condMet m.c (s.elem m.pa) m.v)) =
      s.monitors := List.filter_eq_self.2 fun m hm => by simp [h1 m hm]
  have e2 : (s.monitors.filter fun m => (decide (m.pa < pa + n) && decide (pa < m.pa + 8) && condMet m.c (s.elem m.pa) m.v)) = [] :=
    List.filter_eq_nil_iff.2 fun m hm => by simp [h1 m hm]
  simp only [e1, e2, List.map_nil, List.append_nil]

theorem CachesOnly.setMem {s t : State} (h : CachesOnly s t) (m : SMap Byte) : CachesOnly { s with mem := m } { t with mem := m } :=
  ⟨by have e := congrArg (fun x : State => { x with mem := m }) h.rest; exact e, h.die, h.core⟩

theorem CachesOnly.setWatch {s t : State} (h : CachesOnly s t) (a : List Mon) (b : List Wake) :
    CachesOnly { s with monitors := a, wakes := b } { t with monitors := a, wakes := b } :=
  ⟨by have e := congrArg (fun x : State => { x with monitors := a, wakes := b }) h.rest; exact e, h.die, h.core⟩

theorem Caches.setMem {s t : State} (h : Caches s t) (m : SMap Byte) : Caches { s with mem := m } { t with mem := m } :=
  ⟨fun q => (h.only q).setMem m⟩

/-- The bytes that the home slice puts: State.mem takes them. -/
theorem caches_homePut (s : State) (part pa n v : Nat) :
    Caches { s with mem := storeN s.mem pa v n } (s.homePut part pa n v) := by
  refine ⟨fun q => ?_⟩
  have h1 := (caches_l1Recall s part (pa / 64) none true).only q
  unfold State.homePut
  simp only
  have h2 : CachesOnly { s with mem := storeN s.mem pa v n } { s.l1Recall part (pa / 64) none true with
      mem := storeN (s.l1Recall part (pa / 64) none true).mem pa v n
      l2m := storeN (s.l1Recall part (pa / 64) none true).l2m pa v n } := by
    refine ⟨?_, h1.die, h1.core⟩
    rw [h1.mem]
    have e := congrArg (fun x : State => { x with mem := storeN s.mem pa v n }) h1.rest
    exact e
  refine h2.trans ?_
  split
  · exact CachesOnly.modDie _ _ _ fun _ => rfl
  · exact (caches_sectorWriteback ..).only (h2.quiet q)

/-- A write at the home slice: State.mem takes it, and the monitors see it. -/
theorem caches_homeWrite (s : State) (part pa n v : Nat) :
    Caches ({ s with mem := storeN s.mem pa v n }.monitorWrite pa n) (s.homeWrite part pa n v) := by
  refine ⟨fun q => ?_⟩
  have mono : ∀ t u : State, CachesOnly t u → CachesOnly (t.monitorWrite pa n) (u.monitorWrite pa n) := by
    intro t u h
    unfold State.monitorWrite
    have hm : ∀ a, u.elem a = t.elem a := fun a => by simp [State.elem, h.mem]
    have hw : u.wakes = t.wakes := by have e := congrArg State.wakes h.rest; exact e
    simp only [h.monitors, hm, hw]
    exact h.setWatch _ _
  exact mono _ _ ((caches_homePut s part pa n v).only q)

/-- A store by a core to a line that no monitor watches. -/
theorem coreStore_serves {s : State} {q : Req} {pa n : Nat} (h : s.Serves q.part pa) (hu : s.Unwatched pa n) (v hint : Nat) :
    ∃ t, s.coreStore q pa n v hint = .ok 0 t ∧ CachesOnly { s with mem := storeN s.mem pa v n } t := by
  have hm : s.monitored pa = false := by
    unfold State.monitored
    rw [List.any_eq_false]
    intro m hm
    simpa using (hu m hm).1
  have go : ∀ u, CachesOnly s u → ∃ t, (Acc.ok 0 (State.l1Take { u.l1Recall q.part (pa / 64) (some (256 * q.die + q.core)) true with
      mem := storeN (u.l1Recall q.part (pa / 64) (some (256 * q.die + q.core)) true).mem pa v n } q.part q.die q.core (pa / 64) hint
        (byteMask pa n) true)) = .ok 0 t ∧ CachesOnly { s with mem := storeN s.mem pa v n } t := by
    intro u hc
    have h1 := hc.trans ((caches_l1Recall u q.part (pa / 64) (some (256 * q.die + q.core)) true).only (hc.quiet h.quiet))
    refine ⟨_, rfl, ?_⟩
    have h2 : CachesOnly { s with mem := storeN s.mem pa v n }
        { u.l1Recall q.part (pa / 64) (some (256 * q.die + q.core)) true with
          mem := storeN (u.l1Recall q.part (pa / 64) (some (256 * q.die + q.core)) true).mem pa v n } := by
      rw [h1.mem]; exact h1.setMem _
    exact h2.trans ((caches_l1Take ..).only (h2.quiet h.quiet))
  unfold State.coreStore
  simp only [hm, Bool.false_or]
  split
  · unfold State.homeStore
    have hp : CachesOnly s (s.plain n) := CachesOnly.fabric s _
    obtain ⟨t, ht, hc⟩ := lineAccess_serves (h.of_caches hp) hint false
    replace hc := hp.trans hc
    refine ⟨_, by rw [ht]; rfl, ?_⟩
    have h2 : ({ t with mem := storeN t.mem pa v n } : State).Unwatched pa n := by
      intro m hm; exact hu m (by rw [← hc.monitors]; exact hm)
    have h1 := caches_homeWrite t q.part pa n v
    rw [monitorWrite_unwatched h2] at h1
    refine CachesOnly.trans ?_ (h1.only (hc.quiet h.quiet))
    rw [hc.mem]
    exact hc.setMem _
  · split
    · rw [recallUpdates_none h.copies]; exact go s (CachesOnly.refl s)
    · obtain ⟨t, ht, hc⟩ := lineAccess_serves h hint false
      rw [ht]
      refine go _ (hc.trans ?_)
      split
      · exact CachesOnly.refl t
      · exact caches_l1Answer t q pa

end Sys2Proof.Machine
end

