-- ==== Sys2Proof/Laws/Access.lean ====
section
/-! SUPPORT. What a group's accesses do, lane by lane: translation through a register, loads and read-modify-writes of all
active lanes (Xlate.lean, Access.lean). -/

namespace Sys2Proof.Machine

/-! ## Translation through a register -/

/-- An address that a register maps translates without a walk and without a change. -/
theorem translate_maps {s : State} {c : Ctx} {x n va pa : Nat} {kind : Kind} (hc : (s.grp c.q.g).b = c.b)
    (h : c.Maps x n kind va pa) (hr : isRemote pa = false) : s.translate c.q x va kind = .ok pa false s := by
  obtain ⟨⟨hsp, hst, hrp⟩, ⟨hcan, -⟩, hin, ⟨h1, h2⟩, rfl⟩ := h
  unfold State.translate
  have hh : isHost ((c.b.getX x).frame + (va57 va - pageBase (c.b.getX x).base (c.b.getX x).size)) = false := by
    unfold isRemote at hr
    unfold isHost
    simp only [decide_eq_false_iff_not] at hr
    simp only [Bool.and_eq_false_iff, decide_eq_false_iff_not]; exact Or.inl hr
  simp only [hcan, hc, hst, hin, Bool.not_true, Bool.false_eq_true, if_false, Bool.and_false, if_true]
  simp only [refusal, XReg.trans, Trans.at, h1, h2, hrp, hh, Bool.not_true, Bool.false_eq_true, if_false, Bool.false_and, if_true]

/-- The checks of a lane whose address a register maps, where the token is not needed or not asked for. -/
theorem checkLane_maps {s : State} {c : Ctx} {x n l : Nat} {kind : Kind} {va : Nat → Nat} {tok : Option Bool} {pa : Nat}
    (hc : (s.grp c.q.g).b = c.b) (h : c.Maps x n kind (va l) pa) (hr : isRemote pa = false)
    (ht : s.tokenCheck c tok (some l) (va l) = none) : checkLane c x n kind va tok l s = .ok pa false s := by
  unfold checkLane checkVa
  simp only [h.addr.2, ne_eq, not_true, if_false, translate_maps hc h hr, Tr.token, ht]

theorem lanesTr_maps {s : State} {c : Ctx} {x n : Nat} {kind : Kind} {va pa : Nat → Nat} {tok : Option Bool}
    (hc : (s.grp c.q.g).b = c.b) (ls : List Nat)
    (h : ∀ l ∈ ls, c.Maps x n kind (va l) (pa l) ∧ isRemote (pa l) = false ∧ s.tokenCheck c tok (some l) (va l) = none) :
    lanesTr (checkLane c x n kind va tok) ls s = .ok (ls.map fun l => (l, pa l, false)) s := by
  induction ls with
  | nil => rfl
  | cons l ls ih =>
    have hl := h l (by simp)
    unfold lanesTr
    simp only [checkLane_maps hc hl.1 hl.2.1 hl.2.2, ih fun l' h' => h l' (by simp [h']), List.map_cons]

/-- A launch that is not of token grade needs no token. -/
theorem tokenCheck_plain {s : State} {c : Ctx} (h : c.tokened = false) (tok : Option Bool) (lane : Option Nat) (va : Nat) :
    s.tokenCheck c tok lane va = none := by
  unfold State.tokenCheck; cases tok <;> simp [h]

/-- A line that is served lies outside the register range. -/
theorem State.Serves.notReg {s : State} {part pa : Nat} (h : s.Serves part pa) : isReg pa = false := by
  have := h.reach
  unfold State.reach at this
  unfold isReg
  split
  · rename_i e; rw [e] at this; cases this
  · rfl

theorem sext32_toNat (v : W32) : sext 32 v.toNat = v.toInt := by
  unfold sext BitVec.toInt
  have : v.toNat % 2 ^ 32 = v.toNat := Nat.mod_eq_of_lt v.isLt
  rw [this]
  split <;> split <;> omega

/-- The address of a lane: the register's base plus a signed 32-bit offset (R174). -/
theorem laneVa_eq (c : Ctx) (x a l : Nat) : c.laneVa x a l = low 64 ((c.b.getX x).base64 + (c.b.getV a l).toInt) := by
  unfold Ctx.laneVa XReg.va; rw [sext32_toNat]

/-- The group of a context that comes from a state has the same name. -/
theorem ctx_q_g {s : State} {c : Ctx} (h : s.issuing = some c) : c.q.g = c.g := by
  have := (issuing_spec h).2.1
  rw [this]
  show (s.reqOf c.g).g = c.g
  cases c.g <;> rfl

theorem ready_bank {i : Instr} {s : State} {c : Ctx} (h : ready i s = some c) : (s.grp c.q.g).b = c.b := by
  rw [ctx_q_g (ready_issuing h), ready_grp_eq h]; rfl

/-! ## Reads of all lanes -/

/-- The loads of the lanes return memory, whatever the caches do between them. -/
theorem lanesDo_load {c : Ctx} {n hint : Nat} {pa : Nat → Nat} (ht : c.ticketed = false) (ls : List Nat) (s : State)
    (h : ∀ l ∈ ls, s.Serves c.q.part (pa l)) :
    ∃ t, lanesDo (fun s e => s.gLoad c e.2.1 n e.2.2 hint) (·.1) (ls.map fun l => (l, pa l, false)) s =
      .done (ls.map fun l => (l, loadN s.mem (pa l) n)) t ∧ CachesOnly s t := by
  induction ls generalizing s with
  | nil => exact ⟨s, rfl, CachesOnly.refl s⟩
  | cons l ls ih =>
    have hl := h l (by simp)
    obtain ⟨u, hu, hcu⟩ := coreLoad_serves (q := c.q) hl n hint
    obtain ⟨t, ht', hct⟩ := ih u fun l' h' => (h l' (by simp [h'])).of_caches hcu
    refine ⟨t, ?_, hcu.trans hct⟩
    have hg : s.gLoad c (pa l) n false hint = .ok (loadN s.mem (pa l) n) u := by
      simp [State.gLoad, loadAddr, State.load, hl.inside, hl.notReg, hu, ht, Acc.bind]
    simp only [List.map_cons, lanesDo, hg, ht', hcu.mem]

theorem laneVal_map (ls : List Nat) (f : Nat → Nat) {l : Nat} (h : l ∈ ls) : laneVal (ls.map fun l => (l, f l)) l = f l := by
  induction ls with
  | nil => cases h
  | cons a ls ih =>
    simp only [laneVal, List.map_cons, alook] at ih ⊢
    by_cases e : a = l
    · simp [e]
    · simp only [e, if_false]; exact ih (by simpa [Ne.symm e] using h)

/-! ## Read-modify-writes of all lanes -/

theorem State.Serves.setMem {s : State} {part pa : Nat} (h : s.Serves part pa) (m : SMap Byte) :
    ({ s with mem := m } : State).Serves part pa := ⟨h.inside, h.reach, h.held, h.repl, h.copies, h.quiet⟩

theorem State.Unwatched.of_caches {s t : State} {pa n : Nat} (h : s.Unwatched pa n) (c : CachesOnly s t) : t.Unwatched pa n := by
  intro m hm; rw [c.monitors] at hm; exact h m hm

theorem State.Unwatched.setMem {s : State} {pa n : Nat} (h : s.Unwatched pa n) (m : SMap Byte) :
    ({ s with mem := m } : State).Unwatched pa n := h

/-- A read-modify-write by a core where no monitor watches. -/
theorem coreRmw_serves {s : State} {q : Req} {pa n : Nat} (h : s.Serves q.part pa) (hu : s.Unwatched pa n) (hint : Nat)
    (f : Nat → Option Nat) :
    ∃ t, s.coreRmw q pa n hint f = .ok (loadN s.mem pa n) t ∧
      CachesOnly { s with mem := writeIf s.mem pa n (f (loadN s.mem pa n)) } t := by
  have hm : s.monitored pa = false := by
    unfold State.monitored
    rw [List.any_eq_false]
    intro m hm
    simpa using (hu m hm).1
  obtain ⟨u, hu1, hcu⟩ := coreLoad_serves (q := q) h n hint
  unfold State.coreRmw
  simp only [hm, Bool.false_eq_true, if_false, hu1, Acc.bind]
  cases hf : f (loadN s.mem pa n) with
  | none => exact ⟨u, by simp, hcu⟩
  | some v =>
    obtain ⟨t, ht, hct⟩ := coreStore_serves (q := q) (h.of_caches hcu) (hu.of_caches hcu) v hint
    refine ⟨t, by simp [ht], ?_⟩
    rw [hcu.mem] at hct
    exact (hcu.setMem _).trans hct

/-- The read-modify-writes of the lanes, in order. -/
theorem lanesDo_rmw {c : Ctx} {n hint : Nat} {pa : Nat → Nat} (ht : c.ticketed = false) (f : Nat → Nat → Option Nat)
    (ls : List Nat) (hls : ls.Pairwise (· < ·)) (s : State)
    (h : ∀ l ∈ ls, s.Serves c.q.part (pa l) ∧ s.Unwatched (pa l) n) :
    ∃ t, lanesDo (fun s e => s.gRmw c e.2.1 n hint (f e.1)) (·.1) (ls.map fun l => (l, pa l, false)) s =
        .done (ls.map fun l => (l, loadN (rmwLanes n pa f (ls.filter (· < l)) s.mem) (pa l) n)) t ∧
      CachesOnly { s with mem := rmwLanes n pa f ls s.mem } t := by
  induction ls generalizing s with
  | nil => exact ⟨s, rfl, CachesOnly.refl s⟩
  | cons l ls ih =>
    have hl := h l (by simp)
    rw [List.pairwise_cons] at hls
    obtain ⟨u, hu, hcu⟩ := coreRmw_serves (q := c.q) hl.1 hl.2 hint (f l)
    have hg : s.gRmw c (pa l) n hint (f l) = .ok (loadN s.mem (pa l) n) u := by
      simp [State.gRmw, State.rmw, hl.1.inside, hu, ht]
    obtain ⟨t, ht', hct⟩ := ih hls.2 u fun l' h' =>
      ⟨((h l' (by simp [h'])).1.setMem _).of_caches hcu, State.Unwatched.of_caches (State.Unwatched.setMem (h l' (by simp [h'])).2 _) hcu⟩
    refine ⟨t, ?_, ?_⟩
    · have h0 : List.filter (fun x => decide (x < l)) (l :: ls) = [] := by
        rw [List.filter_eq_nil_iff]
        intro a ha
        simp only [List.mem_cons] at ha
        rcases ha with rfl | ha
        · simp
        · have := hls.1 a ha; simp; omega
      have h1 : (ls.map fun l' => (l', loadN (rmwLanes n pa f ((l :: ls).filter (· < l')) s.mem) (pa l') n)) =
          ls.map fun l' => (l', loadN (rmwLanes n pa f (ls.filter (· < l')) u.mem) (pa l') n) := by
        refine List.map_congr_left fun l' h' => ?_
        have : l < l' := hls.1 l' h'
        simp only [List.filter_cons, this, decide_true, if_true, rmwLanes, hcu.mem]
      rw [List.map_cons, List.map_cons, h1, h0]
      simp only [lanesDo, hg, ht', rmwLanes]
    · refine CachesOnly.trans ?_ hct
      rw [hcu.mem]
      exact hcu.setMem _

/-- The lanes of a mask rise. -/
theorem pairwise_lanesOf (m : W64) : (lanesOf m).Pairwise (· < ·) := List.Pairwise.filter _ (List.pairwise_lt_range)

end Sys2Proof.Machine
end

