-- ==== Sys2Proof/Laws/Image.lean ====
section
/-! SUPPORT. The sections of a pre-emption image have the sizes of R385, and a checkpoint's body that of R386. -/

namespace Sys2Proof.Machine

@[simp] theorem leBytes_length (v n : Nat) : (leBytes v n).length = n := by
  induction n generalizing v with
  | zero => rfl
  | succ n ih => simp [leBytes, ih]

/-- Parts of one size. -/
theorem length_flatMap_of {α β : Type} (f : α → List β) (n : Nat) (l : List α) (h : ∀ x ∈ l, (f x).length = n) :
    (l.flatMap f).length = l.length * n := by
  induction l with
  | nil => simp
  | cons x r ih =>
    rw [List.flatMap_cons, List.length_append, h x (by simp), ih fun y hy => h y (by simp [hy]), List.length_cons, Nat.succ_mul,
      Nat.add_comm]

@[simp] theorem dwBytes_length (l : List Nat) : (dwBytes l).length = 8 * l.length := by
  rw [dwBytes, length_flatMap_of _ 8 l fun _ _ => leBytes_length _ _, Nat.mul_comm]

@[simp] theorem ownBytes_length (k off n : Nat) : (ownBytes k off n).length = n := by simp [ownBytes, upFrom]

@[simp] theorem laidOut_length (sec n : Nat) (vals : List Nat) : (laidOut sec n vals).length = n := by simp [laidOut]

@[simp] theorem bytesAt_length (m : SMap Byte) (a n : Nat) : (bytesAt m a n).length = n := by
  induction n generalizing a with
  | zero => rfl
  | succ n ih => simp [bytesAt, ih]

/-- The header is 64 bytes. -/
@[simp] theorem imageHeader_length (l : Launch) (k flat : Nat) : (l.imageHeader k flat).length = 64 := by simp [Launch.imageHeader]

/-- A group's section is 3,584 bytes and its vector registers. -/
@[simp] theorem Grp.image_length (r : Grp) (k off : Nat) : (r.image k off).length = 3584 + 256 * r.valloc := by
  have h (p : Nat) : ((List.range 64).flatMap fun l => leBytes (r.b.getP p l).toNat 4).length = 256 := by
    rw [length_flatMap_of _ 4 _ fun _ _ => leBytes_length _ _, List.length_range]
  simp only [Grp.image, List.length_append, dwBytes_length, laidOut_length, ownBytes_length, List.length_map, List.length_range,
    length_flatMap_of _ 256 _ fun p _ => h p]
  omega

/-- The block registers are 1,024 bytes. -/
@[simp] theorem Block.imageRegs_length (b : Block) (k off : Nat) : (b.imageRegs k off).length = 1024 := by
  simp only [Block.imageRegs, List.length_append, dwBytes_length, laidOut_length, ownBytes_length, List.length_map, List.length_range,
    length_flatMap_of (fun n => (List.range 64).map fun l => b.draft n l) 64 _ fun _ _ => by simp]

/-- A tile is 24,576 bytes. -/
@[simp] theorem Block.imageTile_length (b : Block) (t : Nat) : (b.imageTile t).length = 24576 := by
  simp only [Block.imageTile, List.length_append, List.length_range,
    length_flatMap_of (fun e => leBytes (b.getT t (e / 64) (e % 64)).toNat 4) 4 _ fun _ _ => leBytes_length _ _,
    length_flatMap_of (fun e => leBytes (b.getC t (e / 64) (e % 64)).toNat 2) 2 _ fun _ _ => leBytes_length _ _]

/-- The image of a block whose groups have A vector registers each (R385). -/
theorem State.image_length (s : State) (k : Nat) (b : BId) (A : Nat)
    (h : ∀ i < (s.launch b.launch).groupsPerBlock, (s.grp (.grp b.launch b.flat i)).valloc = A) :
    (s.image k b).length = 64 + (s.launch b.launch).groupsPerBlock * (3584 + 256 * A) + 1024 + (s.launch b.launch).tiles * 24576 +
      (s.launch b.launch).scratch := by
  have hg (i : Nat) (hi : i ∈ List.range (s.launch b.launch).groupsPerBlock) :
      ((s.grp (.grp b.launch b.flat i)).image k (4096 * (i + 1))).length = 3584 + 256 * A := by
    rw [Grp.image_length, h i (List.mem_range.mp hi)]
  simp only [State.image, List.length_append, imageHeader_length, Block.imageRegs_length, bytesAt_length, List.length_range,
    length_flatMap_of _ _ _ hg, length_flatMap_of _ 24576 _ fun t _ => Block.imageTile_length _ t]

/-- The body of the checkpoint of a launch with one resident block: generation, record, counter, one offset, the bitmap up to a
multiple of 64 bytes, and the image (R386). -/
theorem State.ckptBody_length (s : State) (k key gen : Nat) (b : BId) : (s.ckptBody k key gen [b]).length =
    8 + 8 * (s.launch key).record.length + 24 + ((s.launch key).bitmap.length +
      (64 * ceilDiv (296 + (s.launch key).bitmap.length) 64 - (296 + (s.launch key).bitmap.length))) +
      (s.image ((s.block b).image.getD (k + b.flat)) b).length := by
  simp only [State.ckptBody, List.mergeSort_singleton, List.map_cons, List.map_nil, List.length_cons, List.length_nil, offsetsFrom,
    List.length_append, dwBytes_length, List.length_map, List.length_replicate, List.flatten_cons, List.flatten_nil, List.append_nil]

end Sys2Proof.Machine
end

