-- ==== Sys2Proof/Laws/Results.lean ====
section
/-! SUPPORT. From the bank that a word's body computes to the result statements of Safety.lean. -/

namespace Sys2Proof.Machine

/-- The registers of k' are those of k but for the slots, the windows, and what is named. -/
theorem keeps_moved {k k1 : Bank} {ws : List Nat} {wv : List (Nat × Nat)} {wm wx : List Nat} (h : k.Keeps k1 ws wv wm wx)
    (w : List Window) (sl : SlotId) (f : Slot → Slot) : k.Keeps (Bank.modSlot { k1 with wins := w } sl f) ws wv wm wx := by
  cases sl <;> exact ⟨h.s, h.v, h.m, h.x, h.wb, h.rmode, h.stk⟩

theorem goesOn_moved {k k1 : Bank} (ha : k1.slotA = k.slotA) (hb : k1.slotB = k.slotB) (w : List Window) (sl : SlotId)
    (pc : W64) :
    k.GoesOn (Bank.modSlot { k1 with wins := w } sl (Slot.goesTo pc)) sl pc := by
  cases sl <;> exact ⟨rfl, rfl, rfl, by simp [Bank.modSlot, Bank.slot, Slot.goesTo, ha, hb],
    by simp [Bank.modSlot, Bank.slot, otherSlot, ha, hb]⟩

/-- A word whose only effect is on the bank. -/
theorem wrote_bankNext {c : Ctx} {s : State} (h : s.grp? c.g = some c.grp) (d : Desc) (f : Ctx → Bank → Bank)
    {ws : List Nat} {wv : List (Nat × Nat)} {wm wx : List Nat} (hk : c.b.Keeps (f c c.b) ws wv wm wx)
    (ha : (f c c.b).slotA = c.b.slotA) (hb : (f c c.b).slotB = c.b.slotB) :
    Wrote c s (bankNext c d f s) (c.pc + 4) ws wv wm wx := by
  refine ⟨?_, ?_, OnlyBank.bankNext c d f s⟩
  · rw [grp_b_bankNext h]; exact keeps_moved hk _ _ _
  · rw [grp_b_bankNext h]; exact goesOn_moved ha hb _ _ _

@[simp] theorem getS_modSlot (k : Bank) (sl : SlotId) (f : Slot → Slot) (n : Nat) : (k.modSlot sl f).getS n = k.getS n := by
  cases sl <;> rfl
@[simp] theorem getM_modSlot (k : Bank) (sl : SlotId) (f : Slot → Slot) (n : Nat) : (k.modSlot sl f).getM n = k.getM n := by
  cases sl <;> rfl
@[simp] theorem getV_modSlot (k : Bank) (sl : SlotId) (f : Slot → Slot) (n l : Nat) : (k.modSlot sl f).getV n l = k.getV n l := by
  cases sl <;> rfl
@[simp] theorem getV2_modSlot (k : Bank) (sl : SlotId) (f : Slot → Slot) (n l : Nat) :
    (k.modSlot sl f).getV2 n l = k.getV2 n l := by cases sl <;> rfl

theorem keeps_refl (k : Bank) (ws : List Nat) (wv : List (Nat × Nat)) (wm wx : List Nat) : k.Keeps k ws wv wm wx :=
  ⟨fun _ _ => rfl, fun _ _ _ _ => rfl, fun _ _ => rfl, fun _ _ => rfl, rfl, rfl, ⟨rfl, rfl, rfl, rfl⟩⟩

theorem keeps_setS (k : Bank) (n : Nat) (v : W64) : k.Keeps (k.setS n v) [n] [] [] [] :=
  ⟨fun i hi => by
      have : n ≠ i := fun e => hi (by simp [e])
      simp [Bank.getS_setS, this],
    fun _ _ _ _ => by simp, fun _ _ => by simp, fun _ _ => by simp, by simp, by simp, by simp⟩

theorem keeps_setM (k : Bank) (n : Nat) (v : W64) : k.Keeps (k.setM n v) [] [] [n] [] :=
  ⟨fun _ _ => by simp, fun _ _ _ _ => by simp, fun i hi => by
      have : n ≠ i := fun e => hi (by simp [e])
      simp [Bank.getM_setM, this], fun _ _ => by simp, by simp, by simp, by simp⟩

theorem keeps_setX (k : Bank) (n : Nat) (v : XReg) : k.Keeps (k.setX n v) [] [] [] [n] :=
  ⟨fun _ _ => by simp, fun _ _ _ _ => by simp, fun _ _ => by simp, fun i hi => by
      have : n ≠ i := fun e => hi (by simp [e])
      simp [Bank.getX_setX, this], by simp, by simp, by simp⟩

theorem lt_of_mem_lanes {c : Ctx} {l : Nat} (h : l ∈ c.lanes) : l < 64 := lt_of_mem_lanesOf h

theorem keeps_setV (c : Ctx) (n : Nat) (f : Nat → W32) : c.b.Keeps (c.b.setV n c.lanes f) [] (c.written n) [] [] :=
  ⟨fun _ _ => by simp [Bank.getS],
    fun p l hl hn => by
      rw [Bank.getP_setV _ _ _ _ _ _ (fun i hi => lt_of_mem_lanes (c := c) hi) hl]
      split
      · rename_i h
        exact absurd (List.mem_map.2 ⟨l, h.2, by simp [h.1]⟩) hn
      · rfl,
    fun _ _ => by simp [Bank.getM], fun _ _ => by simp [Bank.getX], by simp, by simp, by simp⟩

/-! ## Words that retire -/

/-- A retired instruction. -/
theorem retired_retire (c : Ctx) (d : Desc) (u : State) (pc : W64) (w e : Bool) (h : (u.grp? c.g).isSome) :
    Retired c u (u.retire c d pc w e) pc := by
  refine ⟨?_, ?_, OnlyBank.retire c d u pc w e⟩
  · rw [grp_b_retire _ _ _ _ _ _ h]; exact keeps_moved (keeps_refl _ _ _ _ _) _ _ _
  · rw [grp_b_retire _ _ _ _ _ _ h]; exact goesOn_moved rfl rfl _ _ _

/-- A word that waits for anything that neither asks the host nor suspends fetch. -/
theorem parked_park (i : Instr) (c : Ctx) (u : State) (w : Wait) (h : (u.grp? c.g).isSome) (hw : w.asks = none)
    (hs : w.suspends = false) : Parked i c u (u.park c w (pendOf i c)) w := by
  have hb : ((u.park c w (pendOf i c)).grp c.g).b =
      (u.grp c.g).b.modSlot c.sl fun x => { x with wait := w, waited := 0, pend := pendOf i c } := by
    unfold State.park State.askAts State.suspend
    simp only [hw, hs]
    refine (grp_b_endRun ..).trans ?_
    simp only [Bool.false_eq_true, if_false]
    unfold State.modSlot State.modBank
    rw [grp_b_modGrp _ _ _ h]
  refine ⟨?_, ?_, ?_, OnlyBank.park c u w _ hw⟩
  · rw [hb]; cases c.sl <;> exact ⟨fun _ _ => rfl, fun _ _ _ _ => rfl, fun _ _ => rfl, fun _ _ => rfl, rfl, rfl, ⟨rfl, rfl, rfl, rfl⟩⟩
  · rw [hb]; cases c.sl <;> rfl
  · rw [hb]; cases c.sl <;> rfl

/-- A ready word whose body ends at the next instruction completes. -/
theorem completes_issue {i : Instr} {D : Desc} {s u : State} {c : Ctx} {body : Ctx → State → Res} (h : ready i s = some c)
    (hd : desc i = some D) (he : exec i s = issue D s body) (hb : body c s = .ok u) (hu : (u.grp? c.g).isSome) :
    Completes i s c u (c.pc + 4) :=
  ⟨_, by rw [he, issue_ready h hd, hb]; rfl, retired_retire c _ u _ _ _ hu⟩

/-! ## Words that end in `bankNext` -/

/-- A word that writes one scalar. -/
theorem givesScalar_of_next {i : Instr} {D : Ctx → State → Desc} {f : Ctx → State → Bank → Bank} {n : Nat} {v : Ctx → State → W64}
    {p : Ctx → State → W64 → Prop}
    (he : ∀ c s, ready i s = some c → exec i s = .next (bankNext c (D c s) (fun c => f c s) s))
    (hf : ∀ c s, f c s c.b = c.b.setS n (v c s))
    (hp : ∀ c s, ready i s = some c → p c s (v c s)) : GivesScalar i n p := by
  intro c s h
  have hg := ready_grp h
  refine ⟨_, v c s, he c s h, hp c s h, ?_, ?_⟩
  · rw [grp_b_bankNext hg, hf]
    simp only [getS_modSlot]
    show ((c.b.setS n (v c s)).getS n : W64) = _
    rw [Bank.getS_setS]
    by_cases hn : n = 0 <;> simp [hn]
  · exact wrote_bankNext hg _ _ (by rw [hf]; exact keeps_setS _ _ _) (by rw [hf]; simp) (by rw [hf]; simp)

/-- A word that writes one vector. -/
theorem givesVector_of_next {i : Instr} {D : Ctx → State → Desc} {f : Ctx → State → Bank → Bank} {n : Nat}
    {v : Ctx → State → Nat → W32} {p : Ctx → State → Nat → W32 → Prop}
    (he : ∀ c s, ready i s = some c → exec i s = .next (bankNext c (D c s) (fun c => f c s) s))
    (hf : ∀ c s, f c s c.b = c.b.setV n c.lanes (v c s)) (hp : ∀ c s, ready i s = some c → ∀ l ∈ c.lanes, p c s l (v c s l)) :
    GivesVector i n p := by
  intro c s h
  have hg := ready_grp h
  refine ⟨_, he c s h, fun l hl => ?_, ?_⟩
  · rw [grp_b_bankNext hg, hf]
    simp only [getV_modSlot]
    have : ((c.b.setV n c.lanes (v c s)).getV n l : W32) = v c s l := by
      simp only [Bank.getV, Bank.wb_setV]
      rw [Bank.getP_setV _ _ _ _ _ _ (fun i hi => lt_of_mem_lanes (c := c) hi) (lt_of_mem_lanes hl)]
      simp [hl]
    show p c s l ((c.b.setV n c.lanes (v c s)).getV n l)
    rw [this]
    exact hp c s h l hl
  · exact wrote_bankNext hg _ _ (by rw [hf]; exact keeps_setV _ _ _) (by rw [hf]; simp) (by rw [hf]; simp)

/-- A word that writes one mask. -/
theorem setsMask_of_next {i : Instr} {D : Ctx → State → Desc} {f : Ctx → State → Bank → Bank} {n : Nat} {w : Ctx → State → W64}
    (he : ∀ c s, ready i s = some c → exec i s = .next (bankNext c (D c s) (fun c => f c s) s))
    (hf : ∀ c s, f c s c.b = c.b.setM n (w c s)) : SetsMask i n w := by
  intro c s h
  have hg := ready_grp h
  refine ⟨_, he c s h, ?_, ?_⟩
  · rw [grp_b_bankNext hg, hf]
    simp only [getM_modSlot]
    show ((c.b.setM n (w c s)).getM n : W64) = _
    simp [Bank.getM_setM]
  · exact wrote_bankNext hg _ _ (by rw [hf]; exact keeps_setM _ _ _) (by rw [hf]; simp) (by rw [hf]; simp)

/-! ## Words that are an `issueBank` -/

/-- A word whose bank function writes one scalar. -/
theorem givesScalar_of_bank {i : Instr} {D : Desc} {f : Ctx → Bank → Bank} {n : Nat} {v : Ctx → W64}
    {p : Ctx → State → W64 → Prop} (hd : desc i = some D) (he : ∀ s, exec i s = issueBank D s f)
    (hf : ∀ c, f c c.b = c.b.setS n (v c)) (hp : ∀ c s, ready i s = some c → p c s (v c)) : GivesScalar i n p :=
  givesScalar_of_next (D := fun c s => c.resolved s D) (f := fun c _ => f c) (v := fun c _ => v c)
    (fun c s h => by rw [he, issueBank_ready h hd]) (fun c _ => hf c) hp

/-- A word whose bank function writes one vector. -/
theorem givesVector_of_bank {i : Instr} {D : Desc} {f : Ctx → Bank → Bank} {n : Nat} {v : Ctx → Nat → W32}
    {p : Ctx → State → Nat → W32 → Prop} (hd : desc i = some D) (he : ∀ s, exec i s = issueBank D s f)
    (hf : ∀ c, f c c.b = c.b.setV n c.lanes (v c)) (hp : ∀ c s, ready i s = some c → ∀ l ∈ c.lanes, p c s l (v c l)) : GivesVector i n p :=
  givesVector_of_next (D := fun c s => c.resolved s D) (f := fun c _ => f c) (v := fun c _ => v c)
    (fun c s h => by rw [he, issueBank_ready h hd]) (fun c _ => hf c) hp

/-- A word whose bank function writes one mask. -/
theorem setsMask_of_bank {i : Instr} {D : Desc} {f : Ctx → Bank → Bank} {n : Nat} {w : Ctx → State → W64} (hd : desc i = some D)
    (he : ∀ s, exec i s = issueBank D s f) (hf : ∀ c s, f c c.b = c.b.setM n (w c s)) : SetsMask i n w :=
  setsMask_of_next (D := fun c s => c.resolved s D) (f := fun c _ => f c) (fun c s h => by rw [he, issueBank_ready h hd]) hf

end Sys2Proof.Machine
end

