-- ==== Sys2Proof/WellFormed.lean ====
section
/-! DEFINITION. Which instructions are well-formed: every code assigned, every register in its class, every group in its
place (R32, R33, R38, R39). Reserved fields have no place in an instruction: the decoder refuses a word in which one is
not zero (R26). -/

namespace Sys2Proof

/-- Every function, condition and mode code of a word is assigned (R39). -/
def Instr.codesOk (i : Instr) : Bool :=
  match Machine.desc i with
  | some d => d.codeOk
  | none => true

/-- Every register field lies in its class and every register group is in its place (R32, R33). -/
def Instr.registersOk (i : Instr) : Bool :=
  match Machine.desc i with
  | some d => d.uses.all Machine.Use.classOk
  | none => true

/-- An instruction that the core executes without ILL. The operands of an event are choices of the outside world or name
the unit that acts: each is admitted, and an event that does not apply leaves the machine as it is. -/
def Instr.wellFormed (i : Instr) : Bool := i.codesOk && i.registersOk

end Sys2Proof
end

