-- ==== Sys2Proof/Tests/Slice0.lean ====
section
/-! SUPPORT. The tests of this slice: ill-formed terms that WellFormed refuses, words of the spec's own encoding tables, small
results taken from the spec's examples, and, for the statements that have hypotheses, states and operands that meet them. -/

namespace Sys2Proof

open Machine

set_option Elab.async false

/-! ## States to test on -/

/-- A module with one partition of die 0 in which one group of a launch runs on core 0: slot A at 0x10000, lanes as given,
registers, memory, launch record fields and privilege as given. Translation register 1 maps the page 0x20000 and the
core's TLB holds that page and the code's. -/
def fixB (priv : Bool) (b : Bank) (dw5 dw6 : W64) (mem : SMap Byte) : State :=
  let page (n : Nat) : Trans := {
    vbase := n, frame := n, ipa := n, size := .k64, size2 := .k64, p1 := { rd := true, w := true, a := true, x := true }
    p2 := { rd := true, w := true, a := true, x := true }, host := false, repl := false }
  let x : XReg := {
    v := true, base := 0x20000, frame := 0x20000, limit := 0x10000, p1 := { rd := true, w := true, a := true }
    p2 := { rd := true, w := true, a := true }, ipa := 0x20000 }
  let rec_ : List W64 := [0x10000, 0x10000, 0, 0, 0, dw5, dw6] ++ List.replicate 25 0
  { State.reset with
    power := true, ready := BitVec.ofNat 64 (2 ^ 59 - 1), mem := mem
    parts := [(0, { dies := [0], nextLaunch := 2, tqbuf := 0x20000 })]
    cores := [(0, { p := 0x10000, tlb := [{ part := 0, tag := 0, tr := page 0x10000 }, { part := 0, tag := 0, tr := page 0x20000 }]
                    quads := [(0, { cur := some (.grp 8 0 0, .a, 0) })] })]
    launches := [(8, { part := 0, id := 1, record := rec_, counter := 1, held := [(0, 0)] })]
    blocks := [(⟨8, 0⟩, { place := .core 0 0 })]
    groups := [(.grp 8 0 0, { b := { b with x := [(1, x)] }, valloc := 256, priv := priv })]
    cur := some (0, 0, 0) }

/-- The group's bank with scalars and vector lanes as given, eight lanes active. -/
def bank0 (s : SMap W64) (v : SMap W32) : Bank :=
  { s := s, v := v, slotA := { pc := 0x10000, lanes := 0xFF }, stklim := 0x1000 }

/-- The plain fixture: two levels, 16 tiles, A = 256, a scratchpad of 64 KiB, privileged or not. -/
def fix (priv : Bool) (s : SMap W64) (v : SMap W32) (mem : SMap Byte) : State :=
  fixB priv (bank0 s v) 2 (0x0000102000010000 : W64) mem

/-- The fixture with nothing in its registers. -/
def fix0 : State := fix true [] [] []

/-- The issuing slot of a fixture. -/
def ctxOf (s : State) : Ctx := s.ctx (.grp 8 0 0) .a

/-- The group of a fixture. -/
def gA : GId := .grp 8 0 0

/-! ## Every word issues somewhere

Each word of each family is ready in the fixture: the hypothesis that the statements share. -/

/-! ## Ill-formed instructions -/

/-- A selector that R56 does not assign is refused by the code check, and so are unassigned codes of FCVT and FENCE. -/
theorem test_codes_refused :
    [Instr.gets false 4 0x7FF, .fcvt false 0 8 8 127, .sets false 4 0x7FF].map (fun i => (i.codesOk, i.registersOk, i.wellFormed)) =
      [(false, true, false), (false, true, false), (false, true, false)] := by
  decide

/-- A scalar number from 64 on, and an odd vector pair, are refused by the register check (R32, R33). -/
theorem test_registers_refused :
    [Instr.add false 64 0 0, .atomAdd true 1 0 9 0 0, .fxsplit false 9 8].map (fun i => (i.codesOk, i.registersOk, i.wellFormed)) =
      [(true, false, false), (true, false, false), (true, false, false)] := by
  decide

/-- A well-formed instruction is not refused. -/
theorem test_well_formed : [Instr.add false 63 0 0, .gets false 4 0, .jmp false 0].all Instr.wellFormed = true := by decide

/-! ## Words of the spec's encoding tables -/

/-- Words of R24 to R46 and their table. -/
theorem test_words_base :
    [0x0000C082, 0xB060C082, 0x041C3FFF, 0x9A21FFFD, 0x40614228, 0x4C018116, 0x603840E5, 0x00000000, 0x20000000, 0xFE000000,
      0x1A400005].map (decodeTableWord 32) =
    [some (.add false 3 1 2), some (.fma true 3 1 2), some (.addi false 7 7 0x7FF), some (.bruNez true 7 0x3FFD),
      some (.ld false 3 5 4 2 2 0), some (.pkld false 0 6 2 1 3 0), some (.twr false 3 1 4 7 5), some (.add false 0 0 0),
      some (.nop false), some (.eret true), some (.bruLtz false 0 5)] := by
  decide

/-- Words that are no instruction (R38, R39, R333). -/
theorem test_words_refused :
    [0x38000000, 0xFFFFFFFF, 0x1C400005].map (decodeTableWord 32) = [none, none, none] := by
  decide

/-- Words of the scalar pipe and of control (03, 04, 15). -/
theorem test_words_scalar :
    [0x03214307, 0x0C081403, 0x14100012, 0x16001803, 0x18000010, 0x16002902, 0x10240004, 0x12263456, 0x9227CDEF,
      0x1A01C004, 0x1E200028, 0x1E1FFFF0, 0xA0200000, 0x20400280, 0x20600280, 0x20800000, 0xA0A00000, 0x20C00000, 0x20E00000,
      0x1C004003].map (decodeTableWord 32) =
    [some (.div false 5 6 7), some (.srai false 2 2 3), some (.gets false 4 0x12), some (.sets false 3 3), some (.win false 0 16),
      some (.xlt false 5 2), some (.li false 9 4), some (.lis false 9 144470), some (.lis true 9 249327),
      some (.bruEqz false 7 4), some (.call false 40), some (.jmp false 0x1FFFF0), some (.ret true), some (.jr false 5),
      some (.callr false 5), some (.join false), some (.exit true), some (.yield false), some (.brk false),
      some (.brdSet false 1 3)] := by
  decide

/-- Words of the vector pipe, masks, floats and lanes (09, 10, 11). -/
theorem test_words_vector :
    [0x2400C082, 0x27A10281, 0x281837F8, 0x2A083C05, 0x2CE08184, 0x2EE14100, 0x31E1C080, 0x34424184, 0x36228406, 0x78610100,
      0x78C18101, 0x79014100, 0x32C18102, 0x3200C20D, 0x32414090, 0x79210103, 0x79414303, 0x79608280, 0x79814100, 0x78020501,
      0x78208600, 0x78414307].map (decodeTableWord 32) =
    [some (.vadd false 3 1 2), some (.vsel false 4 5 1), some (.vaddi false 6 6 0x7F8), some (.vsrai false 2 7 5),
      some (.flt false 2 3 4), some (.mfirst false 5 2), some (.fclass false 7 1), some (.fdiv false 2 9 3 4),
      some (.vtrTanh false 1 10 8), some (.rsum false 4 2 0), some (.argmin false 6 2 1), some (.scan false 5 2 0),
      some (.fcvt false 6 6 2 2), some (.fcvt false 0 3 4 13), some (.fcvt false 2 5 1 16), some (.pkx false 4 2 3),
      some (.pki false 5 6 3), some (.alset false 2 5), some (.alget false 5 2), some (.weave false 8 10 1),
      some (.wdraft false 2 12), some (.shfl false 5 6 7)] := by
  decide

/-- Words of memory, copies, atomics and ordering (06, 08, 09, 14). -/
theorem test_words_memory :
    [0x5B610286, 0x42014228, 0x4401819C, 0xC601C198, 0x48020118, 0x4A024109, 0x4C41C231, 0x4E018116, 0x5802858C, 0x5A010286,
      0x5A210006, 0x5A60C50B, 0xDA400180, 0x5B410286, 0x50018220, 0x51020238, 0x5201411B, 0x54028228, 0x56018490, 0x5601849B,
      0x5A814000, 0x5AA0C205, 0x5AC00205, 0xDAE08205].map (decodeTableWord 32) =
    [some (.msq false 4 5 6), some (.st false 0 5 4 2 2 0), some (.lds false 0 6 3 1 3 0), some (.sts true 0 7 3 1 2 0),
      some (.ldp false 0 8 2 1 2 0), some (.stp false 0 9 2 0 2 1), some (.pkld false 2 7 4 3 0 1), some (.pkst false 0 6 2 1 3 0),
      some (.copy false 0 10 11 12), some (.cwait false 4 5 6), some (.cstat false 4 6), some (.shadow false 3 10 11),
      some (.publish true 3), some (.mbx false 4 5 6), some (.atomAdd false 0 0 6 4 2), some (.atomXchg false 1 0 8 4 3),
      some (.redFadd false 0 5 2 1), some (.cas false 0 10 4 2 0 0), some (.waitcEq false 6 9 1 0), some (.waitcGe false 6 9 1 1),
      some (.fence false 5), some (.clean false 3 4 5), some (.inval false 0 4 5), some (.clinv true 2 4 5)] := by
  decide

/-- Words of tiles, the matrix queue, the KV space, barriers, tokens and launches (05, 09, 12, 13, 15, 16). -/
theorem test_words_units :
    [0x623040E0, 0xE000013F, 0x64008818, 0x66014209, 0x6801828A, 0xEA018102, 0x6C008000, 0x6C210100, 0x6C414106, 0x6C608388,
      0x5B00C000, 0x5B200180, 0x7041050B, 0x7201450B, 0x7220C50C, 0x7240C500, 0x7261050B, 0x72800500, 0xF2A00500, 0x7400C200,
      0x7420C280, 0x74418000, 0x76000000, 0x76200200, 0x76418200, 0x76600206, 0x76800000, 0x76A00000,
      0x76E0C400].map (decodeTableWord 32) =
    [some (.trd false 3 0 4 7 0), some (.twr true 0 0 0 9 31), some (.mloop false 2 16 24), some (.had false 5 4 9),
      some (.qnt false 6 5 10), some (.tdrAgree true 6 2), some (.tzero false 2), some (.tcopy false 4 2),
      some (.tstat false 5 2 6), some (.tsets false 2 7 8), some (.mbatch false 3), some (.mwait false 3), some (.kvld false 2 4 10 11),
      some (.kvapp false 5 10 11), some (.kvfork false 3 10 12), some (.kvtrim false 3 10), some (.kvq false 4 10 11),
      some (.kvpin false 10), some (.kvunpin true 10), some (.pass false 3 4), some (.take false 3 5), some (.query false 6),
      some (.bar false), some (.gbar false 4), some (.arrive false 6 4), some (.await false 4 6), some (.tokw false),
      some (.tokp false), some (.launch false 3 8)] := by
  decide

theorem witness_words_ready_0 : ([
    .add false 8 8 8, .sub false 8 8 8, .and false 8 8 8, .or false 8 8 8, .xor false 8 8 8, .shl false 8 8 8,
    .shr false 8 8 8, .sra false 8 8 8, .mul false 8 8 8, .mulh false 8 8 8, .mulhn false 8 8 8, .min false 8 8 8,
    .max false 8 8 8, .minn false 8 8 8, .maxn false 8 8 8, .andn false 8 8 8, .slt false 8 8 8, .sltn false 8 8 8,
    .seq false 8 8 8, .clz false 8 8, .popc false 8 8, .brev false 8 8, .rotl false 8 8 8, .bfx false 8 8 8,
    .bfi false 8 8 8] : List Instr).all (fun i => (ready i fix0).isSome) = true := by
  decide

theorem witness_words_ready_1 : ([
    .div false 8 8 8, .divn false 8 8 8, .rem false 8 8 8, .remn false 8 8 8, .csel false 8 8 8, .addw false 8 8 8,
    .addi false 8 8 8, .andi false 8 8 8, .ori false 8 8 8, .xori false 8 8 8, .shli false 8 8 0, .shri false 8 8 0,
    .srai false 8 8 0, .rotli false 8 8 0, .slti false 8 8 8, .li false 8 8, .lis false 8 8, .gets false 8 1,
    .sets false 8 3, .xlt false 8 1, .setsXsp false 8 1, .win false 8 8, .bruEqz false 8 8, .bruNez false 8 8,
    .bruLtz false 8 8] : List Instr).all (fun i => (ready i fix0).isSome) = true := by
  decide

theorem witness_words_ready_2 : ([
    .bruGez false 8 8, .bruGtz false 8 8, .bruLez false 8 8, .bruAlw false 8, .brdSet false 1 8, .brdClr false 1 8,
    .jmp false 0, .call false 0, .nop false, .ret false, .jr false 8, .callr false 8, .join false, .exit false,
    .yield false, .brk false, .trap false 8 8 8, .vadd false 8 8 8, .vsub false 8 8 8, .vmul false 8 8 8,
    .vmulh false 8 8 8, .vmulhn false 8 8 8, .vmad false 8 8 8, .vmin false 8 8 8, .vmax false 8 8 8] : List Instr).all (fun i => (ready i fix0).isSome) = true := by
  decide

theorem witness_words_ready_3 : ([
    .vminn false 8 8 8, .vmaxn false 8 8 8, .vabs false 8 8, .vneg false 8 8, .vand false 8 8 8, .vor false 8 8 8,
    .vxor false 8 8 8, .vandn false 8 8 8, .vshl false 8 8 8, .vshr false 8 8 8, .vsra false 8 8 8,
    .vrotl false 8 8 8, .vclz false 8 8, .vpopc false 8 8, .vbrev false 8 8, .vbfx false 8 8 8, .vbfi false 8 8 8,
    .vadds false 8 8 8, .vsubs false 8 8 8, .vaddsn false 8 8 8, .vsubsn false 8 8 8, .vsel false 8 8 1,
    .vsplat false 8 8, .vlane false 8, .vaddi false 8 8 8] : List Instr).all (fun i => (ready i fix0).isSome) = true := by
  decide

theorem witness_words_ready_4 : ([
    .vshli false 8 8 0, .vshri false 8 8 0, .vsrai false 8 8 0, .vrotli false 8 8 0, .ceq false 1 8 8,
    .cne false 1 8 8, .clt false 1 8 8, .cle false 1 8 8, .cltn false 1 8 8, .clen false 1 8 8, .feq false 1 8 8,
    .flt false 1 8 8, .fle false 1 8 8, .fun false 1 8 8, .tlt false 1 8 8, .tle false 1 8 8, .teq false 1 8 8,
    .mand false 1 1 1, .mor false 1 1 1, .mxor false 1 1 1, .mandn false 1 1 1, .mnot false 1 1, .mmov false 1 1,
    .mpop false 8 1, .mfirst false 8 1] : List Instr).all (fun i => (ready i fix0).isSome) = true := by
  decide

theorem witness_words_ready_5 : ([
    .mtos false 8 1, .stom false 1 8, .mset false 1, .fadd false 8 8 8, .fsub false 8 8 8, .fmul false 8 8 8,
    .fma false 8 8 8, .fms false 8 8 8, .fnma false 8 8 8, .fmin false 8 8 8, .fmax false 8 8 8, .fmini false 8 8 8,
    .fmaxi false 8 8 8, .fabs false 8 8, .fneg false 8 8, .fcps false 8 8 8, .frint false 8 8, .fscl false 8 8 8,
    .fclass false 8 8, .fcvt false 0 8 8 0x10, .fdiv false 0 8 8 8, .vtrSqrt false 0 8 8, .vtrRcp false 0 8 8,
    .vtrRsq false 0 8 8, .vtrExp2 false 0 8 8] : List Instr).all (fun i => (ready i fix0).isSome) = true := by
  decide

theorem witness_words_ready_6 : ([
    .vtrLog2 false 0 8 8, .vtrExp false 0 8 8, .vtrTanh false 0 8 8, .vtrSin false 0 8 8, .vtrCos false 0 8 8,
    .ld false 0 8 8 1 0 0, .st false 0 8 8 1 0 0, .lds false 0 8 8 1 0 0, .sts false 0 8 8 1 0 0,
    .ldp false 0 8 8 1 0 0, .stp false 0 8 8 1 0 0, .pkld false 0 8 8 1 1 0, .pkst false 0 8 8 1 1 0,
    .atomAdd false 0 1 8 8 1, .atomAnd false 0 1 8 8 1, .atomOr false 0 1 8 8 1, .atomXor false 0 1 8 8 1,
    .atomMin false 0 1 8 8 1, .atomMax false 0 1 8 8 1, .atomMinn false 0 1 8 8 1, .atomMaxn false 0 1 8 8 1,
    .atomXchg false 0 1 8 8 1, .atomInc false 0 1 8 8 1, .atomDec false 0 1 8 8 1, .atomFadd false 1 8 8 1] : List Instr).all (fun i => (ready i fix0).isSome) = true := by
  decide

theorem witness_words_ready_7 : ([
    .redAdd false 0 1 8 8 1, .redAnd false 0 1 8 8 1, .redOr false 0 1 8 8 1, .redXor false 0 1 8 8 1,
    .redMin false 0 1 8 8 1, .redMax false 0 1 8 8 1, .redMinn false 0 1 8 8 1, .redMaxn false 0 1 8 8 1,
    .redXchg false 0 1 8 8 1, .redInc false 0 1 8 8 1, .redDec false 0 1 8 8 1, .redFadd false 1 8 8 1,
    .cas false 0 8 8 1 0 0, .waitcEq false 8 8 1 0, .waitcNe false 8 8 1 0, .waitcLt false 8 8 1 0,
    .waitcGe false 8 8 1 0, .waitcLtn false 8 8 1 0, .waitcGen false 8 8 1 0, .waitcAny false 8 8 1 0,
    .copy false 0 8 8 8, .cwait false 8 8 8, .cstat false 8 8, .publish false 8, .shadow false 8 8 8] : List Instr).all (fun i => (ready i fix0).isSome) = true := by
  decide

theorem witness_words_ready_8 : ([
    .fence false 1, .clean false 0 8 8, .inval false 0 8 8, .clinv false 0 8 8, .mbatch false 8, .mwait false 8,
    .mbx false 8 8 8, .msq false 8 8 8, .twr false 0 0 8 8 0, .trd false 0 0 8 8 0, .mloop false 8 8 8,
    .had false 8 8 8, .qnt false 8 8 8, .tdrDiff false 8 8, .tdrCanc false 8 8, .tdrAgree false 8 8,
    .tdrRaw false 8 8, .tzero false 8, .tcopy false 8 8, .tstat false 8 8 8, .tsets false 8 8 8, .kvld false 0 8 8 8,
    .kvapp false 8 8 8, .kvfork false 8 8 8, .kvtrim false 8 8] : List Instr).all (fun i => (ready i fix0).isSome) = true := by
  decide

theorem witness_words_ready_9 : ([
    .kvq false 8 8 8, .kvpin false 8, .kvunpin false 8, .pass false 8 8, .take false 8 8, .query false 8, .bar false,
    .gbar false 8, .arrive false 8 8, .await false 8 8, .tokw false, .tokp false, .tickq false 8 8,
    .launch false 8 8, .weave false 8 8 0, .wdraft false 0 8, .shfl false 8 8 8, .rsum false 8 8 0,
    .rmin false 8 8 0, .rmax false 8 8 0, .argmin false 8 8 0, .argmax false 8 8 0, .scan false 8 8 0,
    .pkx false 8 8 1, .pki false 8 8 1] : List Instr).all (fun i => (ready i fix0).isSome) = true := by
  decide

theorem witness_words_ready_10 : ([
    .alset false 1 8, .alget false 8 1, .rand false 8 8 8, .fxsplit false 8 8, .fxjoin false 8 8 1, .crc false 8 8 8,
    .clk false 8 8, .eret false, .grd false 8 8, .gwr false 8 8, .gres false 8, .gkill false 8 8, .tqpop false 8 8 8,
    .xset false 8 8, .ckpt false 8 8 8] : List Instr).all (fun i => (ready i fix0).isSome) = true := by
  decide

/-! ## States that meet the hypotheses: registers, floats, lanes -/

/-- A word is ready in a state and its context satisfies p. -/
def issues (i : Instr) (s : State) (p : Ctx → Bool) : Bool := (ready i s).any p

/-- Privileged code with s8 = v. -/
def fixS (v : W64) : State := fix true [(8, v)] [] []

theorem witness_SpecialRegistersWritten_good :
    [(0x003, 4), (0x004, 255), (0x006, 0), (0x006, 0xFFFFFFFFFFFFFFC0), (0x400, 0), (0x401, 0x00FFFFFFFFFFFFFC),
      (0x401, 0xFF00000000000000)].all (fun e : BitVec 11 × W64 => issues (.sets false 8 e.1) (fixS e.2) fun c =>
        if e.1 = 0x003 then decide ((srcS 8 c).toNat ≤ 4) else if e.1 = 0x004 then decide ((srcS 8 c).toNat < 256)
        else if e.1 = 0x006 then decide ((srcS 8 c).toNat % 64 = 0 ∧ c.b.stkbase.toNat ≤ (srcS 8 c).toNat)
        else if e.1 = 0x400 then
          decide ((srcS 8 c).toNat < 16 ∧ ((fixS e.2).grp? (.grp c.bid.launch c.bid.flat (srcS 8 c).toNat)).isSome)
        else decide (canonical (srcS 8 c).toNat ∧ (srcS 8 c).toNat % 4 = 0)) = true := by
  decide

theorem witness_SpecialRegistersWritten_bad :
    [(0x003, 5), (0x004, 256), (0x006, 63), (0x400, 1), (0x400, 16), (0x401, 2), (0x401, 0x0100000000000000)].all
      (fun e : BitVec 11 × W64 => issues (.sets false 8 e.1) (fixS e.2) fun c =>
        if e.1 = 0x003 then decide (¬ (srcS 8 c).toNat ≤ 4) else if e.1 = 0x004 then decide (¬ (srcS 8 c).toNat < 256)
        else if e.1 = 0x006 then decide (¬ ((srcS 8 c).toNat % 64 = 0 ∧ c.b.stkbase.toNat ≤ (srcS 8 c).toNat))
        else if e.1 = 0x400 then
          decide (¬ ((srcS 8 c).toNat < 16 ∧ ((fixS e.2).grp? (.grp c.bid.launch c.bid.flat (srcS 8 c).toNat)).isSome))
        else decide (¬ (canonical (srcS 8 c).toNat ∧ (srcS 8 c).toNat % 4 = 0))) = true := by
  decide

theorem witness_WindowMoves :
    [(248, 0, true), (0, 248, true), (256, 0, false), (0, 4, false), (0, 0x7F8, false)].all
      (fun e : W64 × BitVec 11 × Bool => issues (.win false 8 e.2.1) (fixS e.1) fun c =>
        let v := BitVec.ofInt 64 ((srcS 8 c).toInt + e.2.1.toInt)
        decide (v.toNat % 8 = 0 ∧ v.toNat + 8 ≤ c.grp.valloc) == e.2.2) = true := by
  decide

theorem witness_ScratchpadFormSet :
    [(0, true), (65535, true), (65536, false)].all (fun e : W64 × Bool => issues (.setsXsp false 8 1) (fixS e.1) fun c =>
      decide ((srcS 8 c).toNat < c.scratch) == e.2) = true := by
  decide

theorem witness_TranslationRegisterLoaded :
    [(0x10000, true, true), (0x2FFFF, true, true), (0x0100000000000000, false, false)].all
      (fun e : W64 × Bool × Bool => issues (.xlt false 8 1) (fixS e.1) fun c =>
        canonical (srcS 8 c).toNat == e.2.1 &&
        (((fixS e.1).core c.q.die c.q.core).tlb.find? (fun t => t.hits c.q ((srcS 8 c).toNat % 2 ^ 57))).isSome == e.2.2) = true := by
  decide

theorem witness_VectorFloatCompletes :
    [(2, false), (13, false), (16, false)].all (fun e : Nat × Bool => (cvtTypes e.1).isSome) = true ∧
      (List.range 128).any (fun k => (cvtTypes k).any fun p => p.1 == .int 64 true) = true ∧
      (List.range 128).any (fun k => (cvtTypes k).any fun p => p.2 == .int 64 false) = true := by
  decide

theorem witness_FloatResultsRounded :
    [0, 0x80000000, 0x00000001, 0x007FFFFF, 0x00800000, 0x7F7FFFFF, 0xFF7FFFFF].all finiteBits = true ∧
      unitsOf 1 ≠ 0 ∧ finiteBits 0x7F800000 = false ∧ finiteBits 0x7FC00000 = false := by
  decide

theorem witness_floatFunctionsRound :
    [0, 0x00000001, 0x3F800000, 0xBFC00000, 0x7F7FFFFF].all finiteBits = true ∧ unitsOf 0x3F800000 = 2 ^ ((0 : Int) + 149).toNat ∧
      unitsOf 0 = 0 * 2 ^ 149 ∧ unitsOf 0x00000001 = 2 ^ ((-149 : Int) + 149).toNat ∧ unitsOf 0xC3150000 = -149 * 2 ^ 149 ∧
      unitsOf 0x42FE0000 = 127 * 2 ^ 149 ∧
      (0x3F800000 : W32).getLsbD 31 = false ∧ (0x00000001 : W32).getLsbD 31 = false ∧
      0 ≤ (0 : W32).toInt ∧ (0x80000000 : W32).toInt < 0 := by
  decide

theorem witness_conversionsRound :
    [0, 0x00000001, 0xBF800000, 0x7F7FFFFF].all finiteBits = true ∧ nanBits 0x7FC00000 = true ∧
      [(0x7F800000 : W32), 0xFF800000].all (fun x => decide (x.toNat % 2 ^ 31 = 0x7F800000)) = true ∧
      [(32, -2 ^ 31), (32, 2 ^ 31 - 1), (64, -2 ^ 63), (64, 2 ^ 63 - 1)].all (fun e : Nat × Int =>
        decide (-2 ^ (e.1 - 1) ≤ e.2 ∧ e.2 < 2 ^ (e.1 - 1))) = true := by
  decide

theorem witness_FloatSpecialCases :
    nanBits 0x7FC00000 = true ∧ nanBits 0x7F800000 = false ∧ finiteBits 0x7F7FFFFF = true ∧
      unitsOf 0x00000001 + unitsOf 0x80000001 = 0 ∧ (0x7F800000 : W32).toNat % 2 ^ 31 = 0x7F800000 ∧
      (0xFF800000 : W32).toNat % 2 ^ 31 = 0x7F800000 ∧ (0x80000000 : W32).toNat % 2 ^ 31 = 0 ∧
      150 ≤ (0x4B000000 : W32).toNat / 2 ^ 23 % 256 := by
  decide

theorem witness_TranscendentalSpecials :
    nanBits 0xFFC12345 = true ∧ finiteBits 0x80000001 = true ∧ (0x80000001 : W32).getLsbD 31 = true ∧
      (0x80000001 : W32).toNat ≠ 2 ^ 31 := by
  decide

theorem witness_NarrowConversionsExact :
    (List.range 8).tail.all (fun k =>
      let f := narrowFmt k
      [0, 1, 2 ^ (f.man + f.exp + (if f.signed then 1 else 0)) - 1, f.nanBits].any fun x =>
        (decodeFmt f 0 x != .nan || x == f.nanBits) && (f != .e2m1 || x != 8)) = true := by
  decide

theorem witness_WeaverMoves :
    issues (.wdraft false 1 8) (fix false [] [(0 * 64 + 8, 255)] []) (fun c =>
      (List.range 64).all fun l => decide ((srcV 8 c l).toNat < 256)) = true := by
  decide

theorem witness_WeaverMoves_bad :
    issues (.wdraft false 1 8) (fix false [] [(64 * 8 + 63, 256)] []) (fun c =>
      decide (256 ≤ (srcV 8 c 63).toNat) && (List.range 63).all fun j => decide ((srcV 8 c j).toNat < 256)) = true := by
  decide

theorem witness_LaneExtremes :
    [(0x7FC00000, true), (0x7F800000, false)].all (fun e : W32 × Bool =>
      issues (.argmin false 4 8 0) (fix false [] [(64 * 8 + 7, e.1)] []) fun c =>
        (c.lanes.any fun l => nanBits (srcV 8 c l)) == e.2) = true := by
  decide


theorem witness_AlphabetRegisters :
    alphabetOk 0x0001020000000000 ∧ alphabetOk 0x000181800000FFFF ∧ alphabetOk 0x00020A4000080000 ∧
      ¬ alphabetOk 0x0000020000000000 ∧ ¬ alphabetOk 0x00020C0000000000 ∧ ¬ alphabetOk 0x00020A0000010000 ∧
      ¬ alphabetOk 0x00020A40000C0000 ∧ ¬ alphabetOk 0x0001830000000000 ∧
      issues (.alset false 1 8) (fixS 0x00020A4000080000) (fun c => srcS 8 c == 0x00020A4000080000) = true := by
  refine ⟨?_, ?_, ?_, ?_, ?_, ?_, ?_, ?_, by decide⟩ <;> unfold alphabetOk <;> decide

/-- The block's alphabet register 1 holds v in unprivileged code. -/
def fixAl (v : W64) (lanes : SMap W32) : State :=
  { fix false [] lanes [] with blocks := [(⟨8, 0⟩, { place := .core 0 0, al := [(1, v)] })] }

/-- The other slot of the group holds a packed word that it has begun, or runs. -/
def fixPacked (begun : Bool) : State :=
  let s := fixS ternary0
  { s with groups := s.groups.map fun e => (e.1, { e.2 with b := { e.2.b with
      slotB := { pc := 0x10040, lanes := 0xF00, wait := .ats 1, al := if begun then some 0 else none } } }) }
where ternary0 : W64 := 0x00020A0000000000

theorem witness_AlphabetRegisters_busy :
    [true, false].all (fun n => issues (.alset false 1 8) (fixPacked n) fun c =>
      (fixPacked n).packedBusy c.bid c.g c.sl == n && srcS 8 c == 0x00020A0000000000) = true ∧
      alphabetOk 0x00020A0000000000 := by
  refine ⟨by decide, ?_⟩
  unfold alphabetOk
  decide

/-- Ternary symbols in bytes, faulting; the same with the substitute symbol 2; bits in 64-bit containers. -/
def ternary : W64 := 0x00020A0000000000
def ternarySub : W64 := 0x00020A4000080000
def bits64 : W64 := 0x0001818000000000

theorem witness_SymbolsInRegisters_pkx :
    [(ternary, 242, 4, false), (ternarySub, 243, 4, true)].all (fun e : W64 × W32 × W32 × Bool =>
      issues (.pkx false 9 8 1) (fixAl e.1 [(64 * 8, e.2.1), (64 * 9, e.2.2.1)]) fun c =>
        c.lanes.all (fun l => decide ((srcV 9 c l).toNat < alGroup e.1) &&
          (!badCode e.1 ((srcV 8 c l).toNat % 2 ^ alWidth e.1) || alSubst e.1)) &&
        (c.lanes.any fun l => badCode e.1 ((srcV 8 c l).toNat % 2 ^ alWidth e.1)) == e.2.2.2) = true := by
  decide

theorem witness_SymbolsInRegisters_wide :
    alWidth bits64 = 64 ∧ (fixAl bits64 []).issuing = some (ctxOf (fixAl bits64 [])) ∧
      (ctxOf (fixAl bits64 [])).grp.ahead = none ∧
      alWidth (((fixAl bits64 []).block (ctxOf (fixAl bits64 [])).bid).getAl 1) = 64 ∧
      issues (.pki false 10 8 1) (fixAl bits64 []) (fun _ => true) = true ∧
      issues (.pkx false 9 8 1) (fixAl bits64 [(64 * 9, 63)]) (fun c =>
        c.lanes.all fun l => decide ((srcV 9 c l).toNat < alGroup bits64) && !badCode bits64 (srcV2 8 c l).toNat) = true := by
  decide

theorem witness_SymbolsInRegisters_pki :
    alphabetOk ternary ∧
    issues (.pki false 12 8 1) (fixAl ternary [(64 * 8, 2), (64 * 9, 4), (64 * 12, 242)]) (fun c =>
      c.lanes.all fun l => decide ((c.b.getV 9 l).toNat < alGroup ternary) && symOk ternary (srcV 8 c l).toInt &&
        !badCode ternary ((srcV 12 c l).toNat % 2 ^ alWidth ternary)) = true := by
  unfold alphabetOk
  decide

theorem witness_NumbersAndClocks :
    [(9, true, false), (8, false, false), (1, false, true), (0, false, true)].all (fun e : W64 × Bool × Bool =>
      issues (.crc false 4 8 8) (fixS e.1) (fun c => decide (8 < (srcS 8 c).toNat) == e.2.1) &&
      issues (.clk false 4 8) (fixS e.1) (fun c => decide ((srcS 8 c).toNat ≤ 1) == e.2.2)) = true ∧
    issues (.fxjoin false 4 8 1) (fix false [] [(64 * 8 + 1, 3)] []) (fun c =>
      (srcV2 8 c 18).toInt == 0 && (srcV2 8 c 19).toInt == 0 && (srcV2 8 c 20).toInt == 0) = true := by
  decide

/-! ## States that meet the hypotheses: memory -/

/-- Quiet, as a check. -/
def quietB (s : State) : Bool := s.dies.all fun e =>
  e.2.damage.isEmpty && e.2.coopDamage.isEmpty && e.2.coopReqs.isEmpty && e.2.blocked.isEmpty && e.2.lost.isEmpty

theorem quiet_of {s : State} (h : quietB s = true) : s.Quiet := by
  intro d
  simp only [quietB, List.all_eq_true, Bool.and_eq_true, List.isEmpty_iff] at h
  unfold State.die
  revert h
  induction s.dies with
  | nil => exact fun _ => ⟨rfl, rfl, rfl, rfl, rfl⟩
  | cons e r ih =>
    intro h
    obtain ⟨j, x⟩ := e
    simp only [mget]
    split
    · have := h (j, x) (by simp)
      exact ⟨this.1.1.1.1, this.1.1.1.2, this.1.1.2, this.1.2, this.2⟩
    · exact ih fun y hy => h y (by simp [hy])

/-- Serves, as a check. -/
def servesB (s : State) (part pa : Nat) : Bool :=
  !isRemote pa && s.reach part pa && !s.withheld.contains (pa / 256) && !s.replicaHeld part pa &&
    (s.updates.all fun u => u.line != pa / 256) && quietB s

theorem serves_of {s : State} {part pa : Nat} (h : servesB s part pa = true) : s.Serves part pa := by
  simp only [servesB, Bool.and_eq_true, Bool.not_eq_true', List.all_eq_true, bne_iff_ne, ne_eq, List.contains_eq_mem,
    decide_eq_false_iff_not] at h
  obtain ⟨⟨⟨⟨⟨h1, h2⟩, h3⟩, h4⟩, h5⟩, h6⟩ := h
  exact ⟨h1, h2, h3, by simp [h4], h5, quiet_of h6⟩

/-- Ctx.Maps, as a check. -/
def mapsB (c : Ctx) (x n : Nat) (kind : Kind) (va pa : Nat) : Bool :=
  !(c.b.getX x).sp && !(c.b.getX x).stale && !(c.b.getX x).repl && canonical va && va % n == 0 && (c.b.getX x).within va &&
    (c.b.getX x).p1.allows kind && (c.b.getX x).p2.allows kind &&
    pa == (c.b.getX x).frame + (va57 va - pageBase (c.b.getX x).base (c.b.getX x).size)

theorem maps_of {c : Ctx} {x n : Nat} {kind : Kind} {va pa : Nat} (h : mapsB c x n kind va pa = true) :
    c.Maps x n kind va pa := by
  simp only [mapsB, Bool.and_eq_true, Bool.not_eq_true', beq_iff_eq] at h
  obtain ⟨⟨⟨⟨⟨⟨⟨⟨h1, h2⟩, h3⟩, h4⟩, h5⟩, h6⟩, h7⟩, h8⟩, h9⟩ := h
  exact ⟨⟨h1, h2, h3⟩, ⟨h4, h5⟩, h6, ⟨h7, h8⟩, h9⟩

/-- Unwatched, as a check. -/
def unwatchedB (s : State) (pa n : Nat) : Bool :=
  s.monitors.all fun m => m.pa / 256 != pa / 256 && (decide (m.pa + 8 ≤ pa) || decide (pa + n ≤ m.pa))

theorem unwatched_of {s : State} {pa n : Nat} (h : unwatchedB s pa n = true) : s.Unwatched pa n := by
  intro m hm
  have := List.all_eq_true.mp h m hm
  simpa using this

/-- lanesReach, as a check. -/
def reachB (c : Ctx) (s : State) (x n : Nat) (kind : Kind) (va pa : Nat → Nat) : Bool :=
  c.lanes.all fun l => mapsB c x n kind (va l) (pa l) && servesB s c.q.part (pa l)

theorem reach_of {c : Ctx} {s : State} {x n : Nat} {kind : Kind} {va pa : Nat → Nat} (h : reachB c s x n kind va pa = true) :
    lanesReach c s x n kind va pa := by
  intro l hl
  have := List.all_eq_true.mp h l hl
  simp only [Bool.and_eq_true] at this
  exact ⟨maps_of this.1, serves_of this.2⟩

theorem direct_of {c : Ctx} {s : State} (h1 : c.ticketed = false) (h2 : c.tokened = false) : direct c s :=
  ⟨h1, fun h => by simp [h2] at h⟩

/-- Byte offsets from 4 times the lane in v8, 8 times the lane in v10; the group's lanes 0 and 7 hold the ends of the page in
v12. -/
def offsets : SMap W32 :=
  [(64 * 8 + 1, 4), (64 * 8 + 2, 8), (64 * 8 + 3, 12), (64 * 8 + 4, 16), (64 * 8 + 5, 20), (64 * 8 + 6, 24), (64 * 8 + 7, 28),
    (64 * 10 + 1, 8), (64 * 10 + 2, 16), (64 * 10 + 3, 24), (64 * 10 + 4, 32), (64 * 10 + 5, 40), (64 * 10 + 6, 48),
    (64 * 10 + 7, 56), (64 * 12 + 7, 0xFFFC)]

/-- Unprivileged code with the offsets, s8 = 8 and s10 = 0xFFF8. -/
def fixM : State := fix false [(8, 8), (10, 0xFFF8)] offsets []

theorem witness_LoadsReadMemory_ld4 :
    ready (.ld false 0 4 8 1 2 0) fixM = some (ctxOf fixM) ∧ (ctxOf fixM).ticketed = false ∧
      lanesReach (ctxOf fixM) fixM 1 4 .read
        (fun l => low 64 (((ctxOf fixM).b.getX 1).base64 + (srcV 8 (ctxOf fixM) l).toInt)) (fun l => 0x20000 + 4 * l) := by
  exact ⟨by decide, by decide, reach_of (by decide)⟩

theorem witness_LoadsReadMemory_ld8 :
    ready (.ld false 15 4 10 1 3 3) fixM = some (ctxOf fixM) ∧ (ctxOf fixM).ticketed = false ∧
      lanesReach (ctxOf fixM) fixM 1 8 .read
        (fun l => low 64 (((ctxOf fixM).b.getX 1).base64 + (srcV 10 (ctxOf fixM) l).toInt)) (fun l => 0x20000 + 8 * l) := by
  exact ⟨by decide, by decide, reach_of (by decide)⟩

theorem witness_LoadsReadMemory_lds :
    ready (.lds false 0 4 10 1 3 0) fixM = some (ctxOf fixM) ∧ (ctxOf fixM).ticketed = false ∧
      (ctxOf fixM).Maps 1 8 .read (low 64 (((ctxOf fixM).b.getX 1).base64 + (srcS 10 (ctxOf fixM)).toInt)) 0x2FFF8 ∧
      fixM.Serves (ctxOf fixM).q.part 0x2FFF8 := by
  exact ⟨by decide, by decide, maps_of (by decide), serves_of (by decide)⟩

/-- The address of a lane through translation register 1. -/
def lane1 (s : State) (a : BitVec 7) (l : Nat) : Nat := low 64 (((ctxOf s).b.getX 1).base64 + (srcV a (ctxOf s) l).toInt)

theorem witness_StoresWriteMemory_st4 :
    ready (.st false 0 4 8 1 2 0) fixM = some (ctxOf fixM) ∧ direct (ctxOf fixM) fixM ∧
      lanesReach (ctxOf fixM) fixM 1 4 .write (lane1 fixM 8) (fun l => 0x20000 + 4 * l) ∧
      ∀ l ∈ (ctxOf fixM).lanes, fixM.Unwatched (0x20000 + 4 * l) 4 := by
  exact ⟨by decide, direct_of (by decide) (by decide), reach_of (by decide), fun _ _ => unwatched_of (by rfl)⟩

/-- All lanes at one byte: the highest lane's value remains. -/
theorem witness_StoresWriteMemory_st1 :
    ready (.st false 0 4 20 1 0 0) fixM = some (ctxOf fixM) ∧ direct (ctxOf fixM) fixM ∧
      lanesReach (ctxOf fixM) fixM 1 1 .write (lane1 fixM 20) (fun _ => 0x20000) ∧
      ∀ l ∈ (ctxOf fixM).lanes, fixM.Unwatched ((fun _ => 0x20000) l) 1 := by
  exact ⟨by decide, direct_of (by decide) (by decide), reach_of (by decide), fun _ _ => unwatched_of (by rfl)⟩

theorem witness_StoresWriteMemory_sts :
    ready (.sts false 0 4 10 1 3 0) fixM = some (ctxOf fixM) ∧ direct (ctxOf fixM) fixM ∧
      (ctxOf fixM).Maps 1 8 .write (low 64 (((ctxOf fixM).b.getX 1).base64 + (srcS 10 (ctxOf fixM)).toInt)) 0x2FFF8 ∧
      fixM.Serves (ctxOf fixM).q.part 0x2FFF8 ∧ fixM.Unwatched 0x2FFF8 8 := by
  exact ⟨by decide, direct_of (by decide) (by decide), maps_of (by decide), serves_of (by decide), unwatched_of (by rfl)⟩

/-- A launch of token grade whose group holds the token (R361). -/
def fixToken : State := fixB false (bank0 [(8, 8)] offsets) (2 + 2 ^ 31) (0x0000102000010000 : W64) []

theorem witness_direct_tokened : (ctxOf fixToken).ticketed = false ∧ (ctxOf fixToken).tokened = true ∧
    fixToken.holdsToken gA = true := by
  decide

theorem witness_ScratchpadLoadsAndStores_good :
    (issues (.ldp false 0 4 8 0 2 0) fixM fun c =>
      c.lanes.all fun l => decide ((srcV 8 c l).toNat % 4 = 0 ∧ (srcV 8 c l).toNat + 4 ≤ c.scratch)) = true ∧
    (issues (.stp false 0 4 12 0 2 0) fixM fun c =>
      c.lanes.all fun l => decide ((srcV 12 c l).toNat % 4 = 0 ∧ (srcV 12 c l).toNat + 4 ≤ c.scratch)) = true := by
  decide

/-- Lane 7 is misaligned by two bytes in v8, or past the scratchpad by one element in v9. -/
def fixStops : State := fix false [] [(64 * 8 + 7, 30), (64 * 9 + 7, 0x10000)] []

theorem witness_ScratchpadLoadsAndStores_stops :
    (issues (.ldp false 0 4 8 0 2 0) fixStops fun c =>
      decide (7 ∈ c.lanes ∧ (srcV 8 c 7).toNat % 4 ≠ 0) && (List.range 7).all fun l => decide ((srcV 8 c l).toNat = 0)) = true ∧
    (issues (.stp false 0 4 9 0 2 0) fixStops fun c =>
      decide (7 ∈ c.lanes ∧ (srcV 9 c 7).toNat % 4 = 0 ∧ c.scratch < (srcV 9 c 7).toNat + 4) &&
        (List.range 7).all fun l => decide ((srcV 9 c l).toNat = 0)) = true := by
  decide

/-- Translation register 2 in scratchpad form over the whole scratchpad, alphabet 1 as given, vectors and scratchpad as given. -/
def fixSp (al : W64) (v : SMap W32) (scr : SMap Byte) : State :=
  let s := fix false [] v []
  { s with
    blocks := [(⟨8, 0⟩, { place := .core 0 0, al := [(1, al)], scratch := scr })]
    groups := s.groups.map fun e => (e.1, { e.2 with b := { e.2.b with
      x := [(2, { v := true, sp := true, limit := 0x10000, p1 := { rd := true, w := true, a := true }
                  p2 := { rd := true, w := true, a := true } })] } }) }

/-- The hypotheses of PackedScratchpad on the lanes, for an alphabet in v8's element numbers and v4's symbols. -/
def packedB (al : W64) (c : Ctx) (scr : SMap Byte) (bad : Bool) : Bool :=
  let n := alWidth al / 8
  let ca (l : Nat) : Nat := (c.b.getX 2).base + (srcV 8 c l).toNat / alGroup al * n
  (c.b.getX 2).sp && !c.ticketed && c.slot.al.isNone && (c.lanes.any fun l => badCode al (loadN scr (ca l) n)) == bad &&
    c.lanes.all fun l => decide (ca l % n = 0 ∧ ca l + n ≤ c.scratch) && symOk al (srcV 4 c l).toInt &&
      (!badCode al (loadN scr (ca l) n) || alSubst al)

theorem witness_PackedScratchpad_good :
    alphabetOk ternary ∧
      (issues (.pkld false 0 4 8 2 1 0) (fixSp ternary [(64 * 8 + 7, 327679)] [(0, 242)]) fun c =>
        packedB ternary c [(0, 242)] false) = true ∧
      (issues (.pkst false 0 4 8 2 1 0) (fixSp ternary [(64 * 4 + 7, 2), (64 * 8 + 7, 327679)] [(0, 242)]) fun c =>
        packedB ternary c [(0, 242)] false) = true := by
  refine ⟨?_, by decide, by decide⟩
  unfold alphabetOk
  decide

theorem witness_PackedScratchpad_bad :
    alphabetOk ternarySub ∧
      (issues (.pkld false 0 4 8 2 1 0) (fixSp ternarySub [] [(0, 243)]) fun c => packedB ternarySub c [(0, 243)] true) = true ∧
      (issues (.pkst false 0 4 8 2 1 0) (fixSp ternarySub [] [(0, 243)]) fun c => packedB ternarySub c [(0, 243)] true) = true := by
  refine ⟨?_, by decide, by decide⟩
  unfold alphabetOk
  decide

/-- Alphabet 1 of the block is al, v8 holds element numbers, the page of register 1 is as given. -/
def fixPk (al : W64) (v : SMap W32) (m : SMap Byte) : State :=
  { fix false [] v m with blocks := [(⟨8, 0⟩, { place := .core 0 0, al := [(1, al)] })] }

/-- The address of a lane's container. -/
def contAddr (al : W64) (s : State) (l : Nat) : Nat :=
  low 64 (((ctxOf s).b.getX 1).base64 + ((srcV 8 (ctxOf s) l).toNat / alGroup al * (alWidth al / 8) : Nat))

/-- Elements 0 to 6 of one container in lanes 0 to 4, of the next in lanes 5 and 6, and one in lane 7. -/
def elements : SMap W32 :=
  [(64 * 8 + 1, 1), (64 * 8 + 2, 2), (64 * 8 + 3, 3), (64 * 8 + 4, 4), (64 * 8 + 5, 5), (64 * 8 + 6, 6), (64 * 8 + 7, 1)]

/-- Where the lanes' containers are. -/
def elementAt (l : Nat) : Nat := if l = 5 ∨ l = 6 then 0x20001 else 0x20000

def fixPk1 : State := fixPk ternary elements [(0x20000, 242)]
def fixPk2 : State := fixPk ternarySub elements [(0x20001, 243)]

theorem witness_PackedMemory_pkld :
    alphabetOk ternary ∧
      ((ctxOf fixPk1).lanes.all fun l => !badCode ternary (loadN fixPk1.mem (elementAt l) 1)) = true ∧
      ready (.pkld false 0 4 8 1 1 0) fixPk1 = some (ctxOf fixPk1) ∧ (ctxOf fixPk1).ticketed = false ∧
      (ctxOf fixPk1).slot.al = none ∧
      lanesReach (ctxOf fixPk1) fixPk1 1 1 .read (contAddr ternary fixPk1) elementAt := by
  refine ⟨?_, by decide, by decide, by decide, by decide, reach_of (by decide)⟩
  unfold alphabetOk
  decide

theorem witness_PackedMemory_pkst :
    alphabetOk ternarySub ∧ alSubst ternarySub = true ∧
      ((ctxOf fixPk2).lanes.any fun l => badCode ternarySub (loadN fixPk2.mem (elementAt l) 1)) = true ∧
      ready (.pkst false 0 4 8 1 1 0) fixPk2 = some (ctxOf fixPk2) ∧ (ctxOf fixPk2).slot.al = none ∧ direct (ctxOf fixPk2) fixPk2 ∧
      lanesReach (ctxOf fixPk2) fixPk2 1 1 .rmw (contAddr ternarySub fixPk2) elementAt ∧
      (∀ l ∈ (ctxOf fixPk2).lanes, fixPk2.Unwatched (elementAt l) 1 ∧ symOk ternarySub (srcV 4 (ctxOf fixPk2) l).toInt) ∧
      ∀ l ∈ (ctxOf fixPk2).lanes, ∀ l' ∈ (ctxOf fixPk2).lanes,
        elementAt l = elementAt l' ∨ elementAt l + 1 ≤ elementAt l' ∨ elementAt l' + 1 ≤ elementAt l := by
  refine ⟨?_, by decide, by decide, by decide, by decide, direct_of (by decide) (by decide), reach_of (by decide), fun l hl => ?_, ?_⟩
  · unfold alphabetOk
    decide
  · exact ⟨unwatched_of (by rfl), (List.all_eq_true.mp
      (by decide : ((ctxOf fixPk2).lanes.all fun l => symOk ternarySub (srcV 4 (ctxOf fixPk2) l).toInt) = true)) l hl⟩
  · intro l _ l' _
    simp only [elementAt]
    split <;> split <;> decide

theorem witness_AtomicsReturnOldValues :
    (∃ d, rmwWord (.atomInc false 0 0 4 8 1) = some (some .inc, 4, d, 8, 1, true)) ∧
      ready (.atomInc false 0 0 4 8 1) fixM = some (ctxOf fixM) ∧ direct (ctxOf fixM) fixM ∧
      lanesReach (ctxOf fixM) fixM 1 4 .rmw (lane1 fixM 8) (fun l => 0x20000 + 4 * l) ∧
      ∀ l ∈ (ctxOf fixM).lanes, fixM.Unwatched (0x20000 + 4 * l) 4 := by
  exact ⟨⟨4, rfl⟩, by decide, direct_of (by decide) (by decide), reach_of (by decide), fun _ _ => unwatched_of (by rfl)⟩

theorem witness_AtomicsReturnOldValues_cas8 :
    rmwWord (.cas false 0 4 10 1 1 0) = some (none, 8, 4, 10, 1, true) ∧
      ready (.cas false 0 4 10 1 1 0) fixM = some (ctxOf fixM) ∧ direct (ctxOf fixM) fixM ∧
      lanesReach (ctxOf fixM) fixM 1 8 .rmw (lane1 fixM 10) (fun l => 0x20000 + 8 * l) ∧
      ∀ l ∈ (ctxOf fixM).lanes, fixM.Unwatched (0x20000 + 8 * l) 8 := by
  exact ⟨by rfl, by decide, direct_of (by decide) (by decide), reach_of (by decide), fun _ _ => unwatched_of (by rfl)⟩

theorem witness_ReductionsCombine_home :
    rmwWord (.redAdd false 0 0 4 8 1) = some (some .add, 4, 4, 8, 1, false) ∧
      ready (.redAdd false 0 0 4 8 1) fixM = some (ctxOf fixM) ∧ direct (ctxOf fixM) fixM ∧
      lanesReach (ctxOf fixM) fixM 1 4 .rmw (lane1 fixM 8) (fun l => 0x20000 + 4 * l) ∧
      (∀ l ∈ (ctxOf fixM).lanes, fixM.Unwatched (0x20000 + 4 * l) 4) ∧
      (ctxOf fixM).lanes.all (fun l => fixM.homeDie (ctxOf fixM).q.part (0x20000 + 4 * l) == (ctxOf fixM).q.die) = true := by
  exact ⟨by rfl, by decide, direct_of (by decide) (by decide), reach_of (by decide), fun _ _ => unwatched_of (by rfl), by decide⟩

/-- The partition has dies 0 and 1, one lane is active, and register 1 maps a page of the HBM of die 1. -/
def fixFar : State :=
  let s := fixB false { s := [], v := [(64 * 8, 4)], slotA := { pc := 0x10000, lanes := 1 } } 2 (0x0000102000010000 : W64) []
  { s with
    parts := s.parts.map fun e => (e.1, { e.2 with dies := [0, 1] })
    groups := s.groups.map fun e => (e.1, { e.2 with b := { e.2.b with
      x := e.2.b.x.map fun f => (f.1, { f.2 with frame := 0x20000 + 2 ^ 38, ipa := 0x20000 + 2 ^ 38 }) } }) }

theorem witness_ReductionsCombine_far :
    rmwWord (.redFadd false 0 4 8 1) = some (some .fadd, 4, 4, 8, 1, false) ∧
      ready (.redFadd false 0 4 8 1) fixFar = some (ctxOf fixFar) ∧ direct (ctxOf fixFar) fixFar ∧
      lanesReach (ctxOf fixFar) fixFar 1 4 .rmw (lane1 fixFar 8) (fun _ => 0x20004 + 2 ^ 38) ∧
      (∀ l ∈ (ctxOf fixFar).lanes, fixFar.Unwatched ((fun _ => 0x20004 + 2 ^ 38) l) 4) ∧ (ctxOf fixFar).lanes = [0] ∧
      fixFar.homeDie (ctxOf fixFar).q.part (0x20004 + 2 ^ 38) ≠ (ctxOf fixFar).q.die ∧ (ctxOf fixFar).tokened = false ∧
      fixFar.updates = [] := by
  exact ⟨by rfl, by decide, direct_of (by decide) (by decide), reach_of (by decide), fun _ _ => unwatched_of (by rfl),
    by decide, by decide, by decide, by rfl⟩

/-- The group's doubleword at 0x20000 holds 5; s4 is the comparand and s5 the timeout. -/
def fixWait (v time : W64) (mons : List Mon) : State :=
  { fix false [(4, v), (5, time)] [] [(0x20000, 5)] with monitors := mons }

/-- The hypotheses of WaitcReadsOrWaits that all its clauses share. -/
noncomputable def waitB (i : Instr) (s : State) : Bool :=
  (waitWord i).any (fun w => w.2 == (4, 8, 1, true) || w.2 == (4, 8, 1, false)) && ready i s == some (ctxOf s) &&
    mapsB (ctxOf s) 1 8 .read (low 64 (((ctxOf s).b.getX 1).base64 + (srcS 8 (ctxOf s)).toInt)) 0x20000 &&
    servesB s (ctxOf s).q.part 0x20000 && (ctxOf s).slot.until_.isNone &&
    (s.monitors.all fun m => m.g != (ctxOf s).g || m.sl != (ctxOf s).sl) &&
    s.wakes.all fun w => w.g != (ctxOf s).g || w.sl != (ctxOf s).sl

theorem witness_WaitcReadsOrWaits_met :
    waitB (.waitcGe false 4 8 1 1) (fixWait 5 9 []) = true ∧
      meets .ge (BitVec.ofNat 64 (loadN (fixWait 5 9 []).mem 0x20000 8)) (srcS 4 (ctxOf (fixWait 5 9 []))) ∧
      waitB (.waitcLtn false 4 8 1 0) (fixWait 6 0 []) = true ∧
      meets .ltn (BitVec.ofNat 64 (loadN (fixWait 6 0 []).mem 0x20000 8)) (srcS 4 (ctxOf (fixWait 6 0 []))) := by
  refine ⟨by decide, ?_, by decide, ?_⟩ <;> unfold meets <;> decide

theorem witness_WaitcReadsOrWaits_expired :
    waitB (.waitcGe false 4 8 1 1) (fixWait 6 0 []) = true ∧
      ¬ meets .ge (BitVec.ofNat 64 (loadN (fixWait 6 0 []).mem 0x20000 8)) (srcS 4 (ctxOf (fixWait 6 0 []))) ∧
      (ctxOf (fixWait 6 0 [])).b.getS 5 = 0 := by
  refine ⟨by decide, ?_, by decide⟩
  unfold meets
  decide

/-- The monitors of the slice that hold n elements. -/
def monsOf (n : Nat) : List Mon := (List.range n).map fun _ => { pa := 0x20008, c := .eq, v := 0, g := gA, sl := .b }

theorem witness_WaitcReadsOrWaits_waits :
    [63, 64].all (fun n => waitB (.waitcEq false 4 8 1 0) (fixWait 6 0 (monsOf n)) &&
      ((fixWait 6 0 (monsOf n)).monitors.filter fun m =>
        (fixWait 6 0 (monsOf n)).homeDie ((fixWait 6 0 (monsOf n)).ownerOf m.pa) m.pa ==
            (fixWait 6 0 (monsOf n)).homeDie 0 0x20000 &&
          sliceOf m.pa == sliceOf 0x20000).length == n) = true ∧
      ¬ meets .eq (BitVec.ofNat 64 (loadN (fixWait 6 0 (monsOf 64)).mem 0x20000 8)) (srcS 4 (ctxOf (fixWait 6 0 (monsOf 64)))) := by
  refine ⟨by decide, ?_⟩
  unfold meets
  decide

/-- A ticketed launch whose block has charged n elements of a copy. -/
def fixTick (n : Nat) : State :=
  { fixB false (bank0 [(8, 8)] offsets) (2 + 2 ^ 30) (0x0000102000010000 : W64) [] with
    copies := [{ seq := 0, bid := ⟨8, 0⟩, ch := 0, kind := 1, op := 0, src := 0, dst := 0, len := n * esizeOf }] }
where esizeOf : Nat := ({ seq := 0, bid := ⟨8, 0⟩, ch := 0, kind := 1, op := 0, src := 0, dst := 0, len := 0 } : Copy).esize

theorem witness_TicketedStoresAreStaged :
    [65528, 65529].all (fun n => ready (.st false 0 4 8 1 2 0) (fixTick n) == some (ctxOf (fixTick n)) &&
      (ctxOf (fixTick n)).ticketed && ((ctxOf (fixTick n)).lanes.all fun l =>
        mapsB (ctxOf (fixTick n)) 1 4 .write (lane1 (fixTick n) 8 l) (0x20000 + 4 * l) && !isRemote (0x20000 + 4 * l)) &&
      ((fixTick n).modBlock ⟨8, 0⟩ fun k =>
        { k with staged := (ctxOf (fixTick n)).lanes.map fun l => .store (0x20000 + 4 * l) 4 0 false }).stagedCount ⟨8, 0⟩ == n + 8)
      = true := by
  decide

/-- Privileged or not, register 1 as it is or in scratchpad form, v8 as given. -/
def fixFault (sp w : Bool) (v : SMap W32) : State :=
  let s := fix false [] v []
  { s with groups := s.groups.map fun e => (e.1, { e.2 with b := { e.2.b with
      x := e.2.b.x.map fun f => (f.1, { f.2 with sp := sp, p1 := { f.2.p1 with w := w } }) } }) }

theorem witness_AccessFaults_form :
    laneAccess (.ld false 0 4 8 1 2 0) = some (1, 8, 4, .read) ∧ issues (.ld false 0 4 8 1 2 0) (fixFault true true [])
      (fun c => (c.b.getX 1).sp) = true := by
  exact ⟨by rfl, by decide⟩

theorem witness_AccessFaults_token :
    issues (.st false 0 4 8 1 2 0) fixToken (fun c => c.tokened && fixToken.holdsToken c.g && !(c.b.getX 1).sp) = true := by
  decide

/-- Lane 3 fails and the lanes below it do not: misaligned, or a store to a page that may not be written. -/
theorem witness_AccessFaults_lanes :
    (issues (.ld false 0 4 8 1 2 0) (fixFault false true [(64 * 8 + 3, 2)]) fun c =>
      !(c.b.getX 1).sp && decide (3 ∈ c.lanes) && decide (low 64 ((c.b.getX 1).base64 + (srcV 8 c 3).toInt) % 4 ≠ 0) &&
        (List.range 3).all fun l => mapsB c 1 4 .read (low 64 ((c.b.getX 1).base64 + (srcV 8 c l).toInt)) 0x20000) = true ∧
    (issues (.st false 0 4 8 1 2 0) (fixFault false false []) fun c =>
      !(c.b.getX 1).sp && (c.lanes.head? == some 0) && (c.b.getX 1).within (low 64 ((c.b.getX 1).base64 + (srcV 8 c 0).toInt)) &&
        !(c.b.getX 1).stale && !(c.b.getX 1).p1.allows .write &&
          canonical (low 64 ((c.b.getX 1).base64 + (srcV 8 c 0).toInt))) = true ∧
    (issues (.ld false 0 4 8 1 2 0) (let s := fix false [] [] []
        { s with groups := s.groups.map fun e => (e.1, { e.2 with b := { e.2.b with
          x := e.2.b.x.map fun f => (f.1, { f.2 with base := 2 ^ 56 - 4 }) , v := [(64 * 8, 4)] } }) }) fun c =>
      decide (low 64 ((c.b.getX 1).base64 + (srcV 8 c 0).toInt) % 4 = 0) &&
        !canonical (low 64 ((c.b.getX 1).base64 + (srcV 8 c 0).toInt))) = true := by
  decide

/-! ## States that meet the hypotheses: control, barriers, tokens -/

/-- Code with the bank given. -/
def fixK (b : Bank) : State := fixB true b 2 (0x0000102000010000 : W64) []

/-- A bank whose slot A runs the lanes 0xFF, slot B as given, with stack and limit as given. -/
def bankK (sb : Slot) (stk : List SEntry) (lim : W64) : Bank :=
  { s := [(8, 0x10000)], m := [(1, 0x0F), (2, 0xFF)], slotA := { pc := 0x10000, lanes := 0xFF }, slotB := sb, stk := stk, stklim := lim }

/-- The other slot runs the lanes 0xF00. -/
def runsB : Slot := { pc := 0x10040, lanes := 0xF00 }
/-- The other slot has parked after a JOIN. -/
def joinedB (pc : W64) : Slot := { pc := pc, lanes := 0xF00, wait := .join }
/-- Entries of the two kinds. -/
def pendingE : SEntry := { pending := true, pc := 0x10080, lanes := 0xF0000 }
def returnE : SEntry := { pending := false, pc := 0x100C0, lanes := 0 }

theorem witness_BranchesAndJumps :
    [0, 1, 0xFFFFFFFFFFFFFFFF].all (fun v : W64 => [Instr.bruEqz false 8 4, .bruNez false 8 4, .bruLtz false 8 4,
      .bruGez false 8 0x2000, .bruGtz false 8 4, .bruLez false 8 4].all fun i => issues i (fixS v) fun c => srcS 8 c == v) = true ∧
    [(0x00FFFFFFFFFFFFFC, true), (2, false), (0x0100000000000000, false)].all (fun e : W64 × Bool =>
      issues (.jr false 8) (fixS e.1) fun c => decide (canonical (srcS 8 c).toNat ∧ (srcS 8 c).toNat % 4 = 0) == e.2) = true := by
  decide

theorem witness_BranchesDiverge_whole :
    issues (.brdSet false 3 4) (fixK (bankK {} [] 0)) (fun c => c.slot.lanes &&& srcM 3 c == 0) = true ∧
      issues (.brdSet false 2 4) (fixK (bankK {} [] 0)) (fun c => c.slot.lanes &&& srcM 2 c == c.slot.lanes) = true := by
  decide

theorem witness_BranchesDiverge_split :
    issues (.brdClr false 1 4) (fixK (bankK {} [] 0)) (fun c =>
      (c.b.slot (otherSlot c.sl)).empty && c.slot.lanes &&& ~~~ srcM 1 c == 0xF0) = true ∧
      issues (.brdSet false 1 4) (fixK (bankK runsB [] 16)) (fun c =>
        !(c.b.slot (otherSlot c.sl)).empty && decide (c.b.stkbase.toNat + 16 * (c.b.depth + 1) ≤ c.b.stklim.toNat)) = true ∧
      issues (.brdSet false 1 4) (fixK (bankK runsB [] 15)) (fun c =>
        !(c.b.slot (otherSlot c.sl)).empty && !decide (c.b.stkbase.toNat + 16 * (c.b.depth + 1) ≤ c.b.stklim.toNat)) = true ∧
      issues (.brdSet false 1 4) (fixK (bankK runsB (List.replicate 128 returnE) 0x1000)) (fun c =>
        !(c.b.slot (otherSlot c.sl)).empty && c.b.stk.length == 128 && c.grp.stkFault.isNone &&
          decide (c.b.stkbase.toNat + 16 * (c.b.depth + 1) ≤ c.b.stklim.toNat)) = true := by
  decide +kernel

theorem witness_JoinsReunite :
    issues (.join false) (fixK (bankK (joinedB 0x10004) [] 0)) (fun c =>
      !(c.b.slot .b).empty && (c.b.slot .b).wait == .join && (c.b.slot .b).pc == c.pc + 4) = true ∧
    issues (.join false) (fixK (bankK (joinedB 0x10008) [] 0)) (fun c =>
      !(c.b.slot .b).empty && (c.b.slot .b).wait == .join && (c.b.slot .b).pc != c.pc + 4) = true ∧
    issues (.join false) (fixK (bankK runsB [] 0)) (fun c => !(c.b.slot .b).empty && (c.b.slot .b).wait != .join) = true ∧
    issues (.join false) (fixK (bankK {} [pendingE, returnE] 0x1000)) (fun c =>
      (c.b.slot .b).empty && c.b.stk == [pendingE, returnE]) = true ∧
    issues (.join false) (fixK (bankK {} [returnE] 0x1000)) (fun c => (c.b.slot .b).empty && c.b.stk == [returnE]) = true ∧
    issues (.join false) (fixK { bankK {} [] 0x1000 with spilled := 1 }) (fun c =>
      (c.b.slot .b).empty && c.b.stk == [] && c.b.spilled != 0 && c.grp.stkFault.isNone) = true := by
  decide

/-- The same where background work of the stack cache has left a fault pending (R178). -/
def withStackFault (s : State) : State :=
  { s with groups := s.groups.map fun e => (e.1, { e.2 with stkFault := some { cls := .perm } }) }

/-- At a push into a full cache, and at a pop from an empty one. -/
theorem witness_stackFaultPending :
    issues (.brdSet false 1 4) (withStackFault (fixK (bankK runsB (List.replicate 128 returnE) 0x1000))) (fun c =>
      !(c.b.slot (otherSlot c.sl)).empty && c.b.stk.length == 128 && c.grp.stkFault == some { cls := .perm } &&
        decide (c.b.stkbase.toNat + 16 * (c.b.depth + 1) ≤ c.b.stklim.toNat)) = true ∧
    issues (.join false) (withStackFault (fixK { bankK {} [] 0x1000 with spilled := 1 })) (fun c =>
      (c.b.slot .b).empty && c.b.stk == [] && c.b.spilled != 0 && c.grp.stkFault == some { cls := .perm }) = true := by
  decide +kernel

/-- The stack has room for n entries more. -/
def roomB (b : Bank) (n : Nat) : Bool := decide (b.stkbase.toNat + 16 * (b.depth + n) ≤ b.stklim.toNat)

theorem witness_CallsReturn_calls :
    [Instr.call false 5, .callr false 8].all (fun i =>
      issues i (fixK (bankK {} (List.replicate 127 returnE) 0x800)) (fun c =>
        (c.b.slot .b).empty && roomB c.b 1 && c.b.stk.length == 127) &&
      issues i (fixK (bankK runsB (List.replicate 126 returnE) 0x800)) (fun c =>
        !(c.b.slot .b).empty && roomB c.b 2 && c.b.stk.length == 126) &&
      issues i (fixK (bankK {} [] 15)) (fun c => !roomB c.b 1)) = true ∧
    issues (.callr false 8) (fixS 0x10002) (fun c => (srcS 8 c).toNat % 4 != 0) = true := by
  decide +kernel

theorem witness_CallsReturn_ret :
    issues (.ret false) (fixK (bankK {} [returnE] 0x800)) (fun c => c.b.stk == [returnE] && (c.b.slot .b).empty) = true ∧
    issues (.ret false) (fixK (bankK runsB [returnE, returnE] 0x800)) (fun c =>
      c.b.stk == [returnE, returnE] && !(c.b.slot .b).empty) = true ∧
    issues (.ret false) (fixK (bankK {} [] 0x800)) (fun c => c.b.stk == [] && c.b.spilled == 0) = true ∧
    issues (.ret false) (fixK (bankK {} [pendingE] 0x800)) (fun c => c.b.stk == [pendingE]) = true := by
  decide

/-- The same with an access beyond the package on its way, or an entry in the matrix queue. -/
def withRemote (s : State) : State := { s with remote := [{ g := gA, dest := 0, pa := 2 ^ 50, n := 8, v := 0 }] }
def withQueued (s : State) : State := { s with matq := [{ seq := 0, g := gA, pc := 0, batch := 1, word := 0, op := .tzero, d := 0, a := 0 }] }

theorem witness_ExitsRetire :
    issues (.exit false) (withRemote (fixK (bankK {} [] 0))) (fun c =>
      !isHdl c.g && (withRemote (fixK (bankK {} [] 0))).remotePending c.g true) = true ∧
    issues (.exit false) (fixK (bankK runsB [returnE] 0x100)) (fun c =>
      !(fixK (bankK runsB [returnE] 0x100)).remotePending c.g true && !(c.b.slot .b).empty && (c.b.slot .b).wait != .join &&
        c.b.stk == [returnE]) = true ∧
    issues (.exit false) (fixK (bankK (joinedB 0x10008) [pendingE] 0x100)) (fun c =>
      !(c.b.slot .b).empty && c.b.stk == [pendingE]) = true ∧
    issues (.exit false) (withQueued (fixK (bankK {} [returnE] 0x100))) (fun c =>
      (c.b.slot .b).empty && (c.b.stk.all fun e => !e.pending) && c.b.spilled == 0 &&
        (withQueued (fixK (bankK {} [returnE] 0x100))).matq.any fun m => m.g == c.g) = true ∧
    issues (.exit false) (fixK (bankK {} [] 0x100)) (fun c =>
      (c.b.slot .b).empty && c.b.stk == [] && c.b.spilled == 0 && (fixK (bankK {} [] 0x100)).matq == [] &&
        ((fixK (bankK {} [] 0x100)).block? c.bid).isSome &&
        decide (((fixK (bankK {} [] 0x100)).groups.map (·.1)).Nodup)) = true := by
  decide

/-- The partition's system-call ring has n entries and the head and tail given. -/
def fixRing (n head tail : W64) : State :=
  let s := fixK (bankK {} [] 0)
  { s with parts := s.parts.map fun e => (e.1, { e.2 with scsize := n, schead := head, sctail := tail, scbase := 0x40000 }) }

theorem witness_BreaksAndSystemCalls :
    issues (.brk false) (fixRing 0 0 0) (fun c => !isHdl c.g && (c.b.slot (otherSlot c.sl)).wait == .none) = true ∧
    issues (.trap false 4 8 0) (withRemote (fixRing 4 0 0)) (fun c => (withRemote (fixRing 4 0 0)).remotePending c.g true) = true ∧
    issues (.trap false 4 8 0) (fixRing 0 0 0) (fun c => ((fixRing 0 0 0).part c.q.part).scsize == 0) = true ∧
    issues (.trap false 4 8 0) (fixRing 4 0 3) (fun c =>
      let p := (fixRing 4 0 3).part c.q.part
      decide ((p.sctail.toNat + 1) % p.scsize.toNat = p.schead.toNat % p.scsize.toNat)) = true ∧
    issues (.trap false 4 8 0) (fixRing 4 1 3) (fun c =>
      let p := (fixRing 4 1 3).part c.q.part
      !(fixRing 4 1 3).remotePending c.g true && quietB (fixRing 4 1 3) && (fixRing 4 1 3).updates == [] && decide (p.scbase.toNat + 32 * 4 ≤ 2 ^ 50) &&
        !decide (p.scsize = 0 ∨ (p.sctail.toNat + 1) % p.scsize.toNat = p.schead.toNat % p.scsize.toNat)) = true := by
  decide

/-- The same with record doublewords 5, 7, 8 and 9 as given. -/
def withRecord (s : State) (d5 d7 d8 d9 : W64) : State :=
  { s with launches := s.launches.map fun e =>
      (e.1, { e.2 with record := (((e.2.record.set 5 d5).set 7 d7).set 8 d8).set 9 d9 }) }

/-- A second group of the block, in the same quadrant, as given. -/
def withMate (s : State) (r : Grp) : State := { s with groups := s.groups ++ [(.grp 8 0 1, r)] }

/-- The token of quadrant 0 of core 0 of die 0 is held as given, and a second group is there. -/
def fixPrio (v : W64) (h : Option GId) (r : Grp) : State :=
  let s := withMate (fixS v) r
  { s with cores := s.cores.map fun e => (e.1, { e.2 with quads := e.2.quads.map fun f => (f.1, { f.2 with prio := h }) }) }

/-- The token that a fixture's group sees. -/
def tokenOf (s : State) (c : Ctx) : Option GId := (s.quad (s.whereIs c.g).1 (s.whereIs c.g).2.1 (s.whereIs c.g).2.2).prio

/-- A group whose slot B waits in a TAKE into s7. -/
def takesB : Grp := { b := { slotA := { pc := 0x10000, lanes := 1 }, slotB := { pc := 0x10040, lanes := 2, wait := .prio 7 } } }

theorem witness_PriorityToken_pass :
    issues (.pass false 4 8) (fixPrio 1 none {}) (fun c => tokenOf (fixPrio 1 none {}) c != some c.g) = true ∧
    issues (.pass false 4 8) (fixPrio (BitVec.allOnes 64) (some gA) {}) (fun c =>
      tokenOf (fixPrio (BitVec.allOnes 64) (some gA) {}) c == some c.g && srcS 8 c == BitVec.allOnes 64 &&
        (fixPrio (BitVec.allOnes 64) (some gA) {}).groups.all fun e => e.2.b.slotA.wait == .none && e.2.b.slotB.wait == .none) = true ∧
    issues (.pass false 4 8) (fixPrio 1 (some gA) {}) (fun c =>
      tokenOf (fixPrio 1 (some gA) {}) c == some c.g && !isHdl c.g && ((fixPrio 1 (some gA) {}).grp?
        (.grp c.bid.launch c.bid.flat (srcS 8 c).toNat)).any fun r => r.quad == c.grp.quad && r.run != .exited &&
          r.b.slotA.wait == .none && r.b.slotB.wait == .none) = true ∧
    issues (.pass false 4 8) (fixPrio 1 (some gA) takesB) (fun c =>
      tokenOf (fixPrio 1 (some gA) takesB) c == some c.g && !isHdl c.g && ((fixPrio 1 (some gA) takesB).grp?
        (.grp c.bid.launch c.bid.flat (srcS 8 c).toNat)).any fun r => r.quad == c.grp.quad && r.run == .running &&
          r.b.slotB.wait == .prio 7 && r.b.slotA.wait == .none) = true ∧
    [(1, { run := .exited : Grp }), (1, { quad := 1 }), (2, {}), (16, {})].all (fun e : W64 × Grp =>
      issues (.pass false 4 8) (fixPrio e.1 (some gA) e.2) fun c => tokenOf (fixPrio e.1 (some gA) e.2) c == some c.g &&
        srcS 8 c != BitVec.allOnes 64 && !(decide ((srcS 8 c).toNat < 16) && ((fixPrio e.1 (some gA) e.2).grp?
          (.grp c.bid.launch c.bid.flat (srcS 8 c).toNat)).any fun r => r.quad == c.grp.quad && r.run != .exited)) = true := by
  decide

theorem witness_PriorityToken_take :
    [(2, none), (1, none), (0, some gA), (0, some (.grp 8 0 1)), (1, some (.grp 8 0 1))].all (fun e : W64 × Option GId =>
      issues (.take false 4 8) (fixPrio e.1 e.2 {}) (fun c => srcS 8 c == e.1 && (c.b.slot (otherSlot c.sl)).wait == .none &&
        tokenOf (fixPrio e.1 e.2 {}) c == e.2) &&
      issues (.query false 4) (fixPrio e.1 e.2 {}) (fun c => tokenOf (fixPrio e.1 e.2 {}) c == e.2)) = true := by
  decide

/-- A launch with two groups per block and two blocks per gang; block 1 is there too, and this block's barrier stands at
generation 7 with a count as given. -/
def fixGang (v s9 : W64) (cnt : Nat) (mates : List (GId × Grp)) : State :=
  let s := withRecord (fix false [(8, v), (9, s9)] [] []) 4 (1 * 2 ^ 8) (2 + 2 * 2 ^ 32) 1
  { s with
    blocks := [(⟨8, 0⟩, { place := .core 0 0, bgen := 7, bcnt := cnt, scratch := [(8, BitVec.ofNat 8 cnt), (12, 7)] }),
      (⟨8, 1⟩, { place := .core 0 1 })]
    groups := s.groups ++ mates }

/-- Its block's second group, and the first of the next block. -/
def mates2 : List (GId × Grp) := [(.grp 8 0 1, { b := { slotA := { pc := 0x10000, lanes := 1, wait := .barrier blockSel 7 none } } }),
  (.grp 8 1 0, { b := { slotA := { pc := 0x10000, lanes := 1 } } })]

/-- A barrier word and a state meet the hypotheses of BarriersMeet that its clauses share, for generation 7. -/
noncomputable def barrierB (i : Instr) (s : State) (sel : W64) (cnt members : Nat) : Bool :=
  issues i s fun c => !isHdl c.g && (barrierWord c i).any (fun e => e.1 == sel) && !s.remotePending c.g true &&
    (sel == blockSel || (c.l.hasGang && decide (sel.toNat % 8 = 0 ∧ sel.toNat < c.scratch))) &&
    (if sel = blockSel then (s.block c.bid).bgen == 7 && (s.block c.bid).bcnt == cnt
     else loadN (s.block { c.bid with flat := (s.launch c.bid.launch).unitOf c.bid.flat * (s.launch c.bid.launch).gangSize }).scratch
        sel.toNat 8 == 7 * 2 ^ 32 + cnt) &&
    (s.block? c.bid).isSome && s.members c.bid sel == members &&
    (s.block? { c.bid with flat := (s.launch c.bid.launch).unitOf c.bid.flat * (s.launch c.bid.launch).gangSize }).isSome

theorem witness_BarriersMeet_block :
    barrierB (.bar false) (fixGang 8 0 0 mates2) blockSel 0 2 = true ∧
      barrierB (.bar false) (fixGang 8 0 1 mates2) blockSel 1 2 = true ∧
      barrierB (.arrive false 4 8) (fixGang (BitVec.allOnes 64) 0 1 mates2) blockSel 1 2 = true ∧
      ((fixGang 8 0 1 mates2).groups.all fun e => (e.2.b.slot .b).empty) = true ∧
      decide (((fixGang 8 0 1 mates2).groups.map (·.1)).Nodup) = true := by
  decide

theorem witness_BarriersMeet_gang :
    barrierB (.gbar false 8) (fixGang 8 0 1 mates2) 8 1 3 = true ∧ barrierB (.gbar false 8) (fixGang 8 0 2 mates2) 8 2 3 = true ∧
      barrierB (.arrive false 4 8) (fixGang 8 0 1 mates2) 8 1 3 = true := by
  decide

/-- The other slot still runs. -/
theorem witness_BarriersMeet_other :
    issues (.bar false) (fixK (bankK runsB [] 0)) (fun c => !isHdl c.g && !(c.b.slot (otherSlot c.sl)).empty &&
      (match (c.b.slot (otherSlot c.sl)).wait with | .barrier _ _ _ => false | _ => true) &&
      ((fixK (bankK runsB [] 0)).block c.bid).bgen == 0) = true := by
  decide

/-- The other slot waits at the block's barrier in its generation, the group not yet counted; the word executes again, with the
group counted in the barrier's generation or after an execution in an earlier one. -/
def fixAgain (wait : Wait) (redo : Option (W64 × Nat)) (arrived : List (W64 × Nat)) : State :=
  let s := fixK (bankK { runsB with wait := wait } [] 0)
  { s with groups := s.groups.map fun e => (e.1, { e.2 with
      arrived := arrived, b := { e.2.b with slotA := { e.2.b.slotA with redo := redo } } }) }

theorem witness_BarriersMeet_here :
    issues (.bar false) (fixAgain (.barrier blockSel 0 none) none []) (fun c =>
      (c.b.slot (otherSlot c.sl)).wait == .barrier blockSel 0 none && !c.grp.arrivedIn blockSel 0 && c.slot.redo == none &&
        ((fixAgain (.barrier blockSel 0 none) none []).block c.bid).bgen == 0 &&
        (fixAgain (.barrier blockSel 0 none) none []).members c.bid blockSel == 1) = true := by
  decide

theorem witness_BarriersMeet_redo :
    issues (.bar false) (fixAgain .none (some (blockSel, 0)) []) (fun c =>
      c.slot.redo == some (blockSel, 0) && !c.grp.arrivedIn blockSel 0) = true ∧
    issues (.bar false) (fixAgain .none (some (blockSel, 0)) [(blockSel, 0)]) (fun c =>
      c.slot.redo == some (blockSel, 0) && c.grp.arrivedIn blockSel 0 &&
        ((fixAgain .none (some (blockSel, 0)) [(blockSel, 0)]).block c.bid).bgen == 0) = true ∧
    issues (.bar false) (fixAgain .none (some (blockSel, 5)) []) (fun c => c.slot.redo == some (blockSel, 5) &&
      ((fixAgain .none (some (blockSel, 5)) []).block c.bid).bgen != 5) = true := by
  decide

theorem witness_selectorFaults :
    [(9, true), (0x10000, true), (0xFFFF, true)].all (fun e : W64 × Bool => issues (.gbar false 8) (fixGang e.1 0 0 mates2)
      fun c => c.l.hasGang == e.2 && srcS 8 c != blockSel && (srcS 8 c).toNat % 8 + (srcS 8 c).toNat / c.scratch != 0) = true ∧
    issues (.gbar false 8) (fixS 8) (fun c => !c.l.hasGang && (srcS 8 c).toNat % 8 == 0) = true ∧
    issues (.await false 8 9) (fixGang 0x10000 0 0 mates2) (fun c => c.l.hasGang && decide (c.scratch ≤ (srcS 8 c).toNat)) = true := by
  decide

theorem witness_AwaitsGeneration :
    [(6, false), (7, true), (0x100000007, true)].all (fun e : W64 × Bool =>
      issues (.await false 8 9) (fixGang (BitVec.allOnes 64) e.1 1 mates2) fun c =>
        srcS 8 c == blockSel && ((fixGang (BitVec.allOnes 64) e.1 1 mates2).block c.bid).bgen == 7 &&
          ((srcS 9 c).toNat % 2 ^ 32 == 7) == e.2 && (fixGang (BitVec.allOnes 64) e.1 1 mates2).members c.bid blockSel == 2) = true ∧
    issues (.await false 8 9) (fixGang 8 7 2 mates2) (fun c => c.l.hasGang &&
      (fixGang 8 7 2 mates2).members c.bid (srcS 8 c) == 3 && !(fixGang 8 7 2 mates2).remotePending c.g true) = true := by
  decide

/-- A launch of grade g of two groups, each a block, whose token stands at t; the value is in s8. -/
def fixGrade (v : W64) (g : Nat) (t : Nat) (devq : List DevRec) : State :=
  let s := withRecord (fixS v) (BitVec.ofNat 64 (2 + g * 2 ^ 30)) 0 2 0
  { s with
    launches := s.launches.map fun e => (e.1, { e.2 with token := t })
    parts := s.parts.map fun e => (e.1, { e.2 with devq := devq }) }

theorem witness_CommitToken :
    issues (.tokw false) (fixGrade 0 2 0 []) (fun c => c.tokened && (fixGrade 0 2 0 []).holdsToken c.g) = true ∧
    issues (.tokw false) (fixGrade 0 2 1 []) (fun c => c.tokened && !(fixGrade 0 2 1 []).holdsToken c.g) = true ∧
    issues (.tokp false) (fixGrade 0 2 0 []) (fun c => c.tokened && (fixGrade 0 2 0 []).holdsToken c.g &&
      ((fixGrade 0 2 0 []).launch c.bid.launch).groups == 2 && !(fixGrade 0 2 0 []).groupRetired c.bid.launch 0 &&
        ((fixGrade 0 2 0 []).launch? c.bid.launch).isSome) = true ∧
    issues (.tokp false) (fixGrade 0 2 1 []) (fun c => c.tokened && !(fixGrade 0 2 1 []).holdsToken c.g) = true ∧
    [Instr.tokw false, .tokp false].all (fun i => issues i (fixGrade 0 1 0 []) fun c => !c.tokened) = true ∧
    [0, 1, 2, 3].all (fun v : W64 => issues (.tickq false 4 8) (fixGrade v 1 0 []) fun c => c.ticketed && srcS 8 c == v) = true := by
  decide

theorem tlbHolds_of {q : Req} {s : State} {va pa : Nat} {kind : Kind} (h : (canonical va && !isRemote pa &&
    ((s.core q.die q.core).tlb.find? (fun e => e.hits q (va57 va))).any fun e => e.tr.p1.allows kind && e.tr.p2.allows kind &&
      !e.tr.repl && pa == e.tr.frame + (va57 va - e.tr.vbase)) = true) : tlbHolds q s va kind pa := by
  simp only [Bool.and_eq_true, Bool.not_eq_true'] at h
  obtain ⟨⟨h1, h2⟩, h3⟩ := h
  rcases hf : (s.core q.die q.core).tlb.find? (fun e => e.hits q (va57 va)) with _ | e
  · simp [hf] at h3
  rw [hf] at h3
  have h := h3
  simp only [Option.any_some, Bool.and_eq_true, Bool.not_eq_true', beq_iff_eq] at h
  exact ⟨h1, h2, e, hf, h.1.1.1, h.1.1.2, h.1.2, h.2⟩

/-- The record's 32 doublewords are served. -/
def served32 (s : State) : Bool := (List.range 32).all fun k => servesB s 0 (0x20000 + 8 * k)

theorem served32_of {s : State} (h : served32 s = true) : ∀ k < 32, s.Serves 0 (0x20000 + 8 * k) := fun k hk =>
  serves_of (List.all_eq_true.mp h k (List.mem_range.mpr hk))

theorem witness_LaunchPosts_align : issues (.launch false 4 8) (fixS 0x20080) (fun c => (srcS 8 c).toNat % 256 != 0) = true := by
  decide

/-- The device queue holds n records. -/
def queueOf (n : Nat) : List DevRec := (List.range n).map fun k => { id := k, prio := 0, record := [] }

theorem witness_LaunchPosts :
    (ready (.launch false 4 8) (fixGrade 0x20000 0 0 []) = some (ctxOf (fixGrade 0x20000 0 0 [])) ∧
      tlbMaps (ctxOf (fixGrade 0x20000 0 0 [])) (fixGrade 0x20000 0 0 []) 0x20000 .read 0x20000 ∧
      (∀ k < 32, (fixGrade 0x20000 0 0 []).Serves 0 (0x20000 + 8 * k)) ∧
      direct (ctxOf (fixGrade 0x20000 0 0 [])) (fixGrade 0x20000 0 0 [])) ∧
    (ready (.launch false 4 8) (fixGrade 0x20000 2 1 []) = some (ctxOf (fixGrade 0x20000 2 1 [])) ∧
      tlbMaps (ctxOf (fixGrade 0x20000 2 1 [])) (fixGrade 0x20000 2 1 []) 0x20000 .read 0x20000 ∧
      (∀ k < 32, (fixGrade 0x20000 2 1 []).Serves 0 (0x20000 + 8 * k)) ∧ (ctxOf (fixGrade 0x20000 2 1 [])).tokened = true ∧
      (fixGrade 0x20000 2 1 []).holdsToken gA = false) ∧
    (ready (.launch false 4 8) (fixGrade 0x20000 1 0 []) = some (ctxOf (fixGrade 0x20000 1 0 [])) ∧
      tlbMaps (ctxOf (fixGrade 0x20000 1 0 [])) (fixGrade 0x20000 1 0 []) 0x20000 .read 0x20000 ∧
      (∀ k < 32, (fixGrade 0x20000 1 0 []).Serves 0 (0x20000 + 8 * k)) ∧ (ctxOf (fixGrade 0x20000 1 0 [])).ticketed = true) := by
  exact ⟨⟨by decide, tlbHolds_of (by decide), served32_of (by decide), direct_of (by decide) (by decide)⟩,
    ⟨by decide, tlbHolds_of (by decide), served32_of (by decide), by decide, by decide⟩,
    by decide, tlbHolds_of (by decide), served32_of (by decide), by decide⟩

theorem witness_LaunchPosts_full :
    [255, 256].all (fun n => issues (.launch false 4 8) (fixGrade 0x20000 0 0 (queueOf n)) fun c =>
      ((fixGrade 0x20000 0 0 (queueOf n)).part c.q.part).devq.length == n && (srcS 8 c).toNat % 256 == 0) = true := by
  decide +kernel

/-! ## States that meet the hypotheses: copies, shadows, maintenance, tiles -/

/-- Code with the scalars s8 to s11 as given. -/
def fixR (a b c d : W64) : State := fix true [(8, a), (9, b), (10, c), (11, d)] [] []

/-- A copy of the fixture's block on a channel. -/
def copyAt (seq ch kind : Nat) (dst len : W64) (begun : Bool) : Copy :=
  { seq := seq, bid := ⟨8, 0⟩, ch := ch, kind := kind, op := 0, src := 0, dst := dst, len := len.toNat, begun := begun, active := begun }

/-- The hypotheses of CopiesQueue for `copy s8, s9, s10`: what fails first, 0 for nothing. -/
def copyFails (c : Ctx) : Nat :=
  let ctl := c.b.getS 11
  let len := (srcS 10 c).toNat
  let kind := ctl.toNat / 4 % 4
  let op := ctl.toNat / 16 % 4
  let e := if kind = 2 ∧ op = 2 then 8 else 4
  let badGlobal (v : W64) : Bool := decide (v.toNat % e ≠ 0 ∨ ¬ canonical v.toNat)
  let past (v : W64) : Bool := decide (c.scratch < v.toNat + len)
  if 64 ≤ ctl.toNat ∨ op = 3 ∨ (op ≠ 0 ∧ kind ≠ 2) then 1
  else if len % e ≠ 0 ∨ 2 ^ 40 ≤ len then 2
  else if (kind ≠ 0 ∧ badGlobal (srcS 8 c)) ∨ ((kind = 0 ∨ kind = 3) ∧ badGlobal (srcS 9 c)) then 3
  else if (kind = 0 ∧ past (srcS 8 c)) ∨ ((kind = 1 ∨ kind = 2) ∧ past (srcS 9 c)) then 4
  else 0

theorem witness_CopiesQueue_checks :
    [((0, 0, 0, 64), 1), ((0, 0, 0, 48), 1), ((0, 0, 0, 16), 1), ((0, 0, 2, 0), 2), ((0, 0, 0x10000000000, 0), 2), ((0, 0, 4, 40), 2),
      ((0, 2, 4, 0), 3), ((0x100000000000000, 0, 4, 4), 3), ((0xFFFD, 0, 4, 0), 4), ((0x20000, 0xFFFD, 4, 4), 4), ((0xFFFC, 0x20000, 4, 0), 0),
      ((0x20000, 0x10000, 0, 4), 0), ((0x20000, 0x20004, 0xFFFFFFFFFC, 12), 0)].all
      (fun e : (W64 × W64 × W64 × W64) × Nat => issues (.copy false 0 8 9 10) (fixR e.1.1 e.1.2.1 e.1.2.2.1 e.1.2.2.2) fun c =>
        copyFails c == e.2) = true := by
  decide

/-- Eight copies wait on channel 0; or channel 0 holds an error. -/
def fixQueued (n : Nat) (err : Option (FClass × Nat)) : State :=
  let s := fixR 0 0x20000 64 0
  { s with
    copies := (List.range n).map fun k => copyAt k 0 0 0 64 false
    blocks := [(⟨8, 0⟩, { place := .core 0 0, chs := [(0, { rdone := 64, wptr := 32, err := err, off := 5 })] })] }

theorem witness_CopiesQueue_full :
    [(8, none), (7, some (.perm, 1)), (7, none)].all (fun e : Nat × Option (FClass × Nat) =>
      issues (.copy false 0 8 9 10) (fixQueued e.1 e.2) fun c => copyFails c == 0 && !c.ticketed &&
        ((fixQueued e.1 e.2).copies.filter fun y => y.bid == c.bid && y.ch == 0 && !y.begun).length == e.1 &&
        (((fixQueued e.1 e.2).block c.bid).ch 0).err == e.2) = true := by
  decide

/-- Channel 0 with counters 64 and 32 and an error or none; s8 the need, s9 the selector. -/
def fixChan (need sel : W64) (err : Option (FClass × Nat)) (run : Option (Option Nat)) : State :=
  let s := fixR need sel 0 0
  { s with
    copies := run.toList.map fun h => { copyAt 0 0 0 0 64 true with held := h }
    blocks := [(⟨8, 0⟩, { place := .core 0 0, chs := [(0, { rdone := 64, wptr := 32, err := err, off := 5 })] })] }

theorem witness_CopiesReport_cwait :
    [(0, 8, none, 8), (64, 0, none, 0), (32, 4, none, 0), (65, 0, some (.abort, 0), 1), (33, 4, none, 2)].all
      (fun e : W64 × W64 × Option (FClass × Nat) × Nat => issues (.cwait false 4 8 9) (fixChan e.1 e.2.1 e.2.2.1 none) fun c =>
        let v := (srcS 9 c).toNat
        let x := ((fixChan e.1 e.2.1 e.2.2.1 none).block c.bid).ch (v % 4)
        let counter := if v < 4 then x.rdone else x.wptr
        (if 8 ≤ v then 8 else if (srcS 8 c).toNat ≤ counter then 0 else if x.err.isSome then 1 else 2) == e.2.2.2) = true := by
  decide

theorem witness_CopiesReport_cstat :
    [(0, none, none), (4, none, none), (8, none, some none), (8, none, some (some 1)), (8, some (.abort, 0), none), (24, some (.perm, 1), none),
      (12, none, none), (23, none, none), (28, none, none), (27, none, none)].all
      (fun e : W64 × Option (FClass × Nat) × Option (Option Nat) => issues (.cstat false 4 9) (fixChan 0 e.1 e.2.1 e.2.2) fun c =>
        srcS 9 c == e.1 && (((fixChan 0 e.1 e.2.1 e.2.2).block c.bid).ch 0).err == e.2.1) = true := by
  decide

/-- The live page 0x20000 may be shadowed with a pool of n frames, with open shadows given. -/
def fixShadow (a b : W64) (pool : List Nat) (open_ : List Shadow) : State :=
  let s := fixR a b 0 0
  { s with
    parts := s.parts.map fun e => (e.1, { e.2 with shadowPool := pool })
    blocks := [(⟨8, 0⟩, { place := .core 0 0, shadows := open_ })] }

/-- A shadow of one page. -/
def shadowOf (h ipa : Nat) : Shadow := { handle := h, pages := [{ va := ipa, ipa := ipa, live := ipa, shadow := 0x50000 + h * 2 ^ 16 }] }

theorem witness_ShadowsOpen_bad :
    [(0x20001, 0x10000), (0x20000, 0), (0x20000, 0x8000), (0x20000, 0x4010000)].all (fun e : W64 × W64 =>
      issues (.shadow false 4 8 9) (fixShadow e.1 e.2 [] []) fun c => (srcS 8 c).toNat % 65536 != 0 ||
        decide ((srcS 9 c).toNat % 65536 ≠ 0 ∨ (srcS 9 c).toNat = 0 ∨ 2 ^ 26 < (srcS 9 c).toNat)) = true := by
  decide

/-- The one page of the range is mapped by the entry that the TLB holds. -/
def mappedB (s : State) (c : Ctx) : Bool :=
  ((s.core c.q.die c.q.core).tlb.find? fun e => e.hits c.q (va57 0x20000)).any fun e =>
    e.tr.p1.allows .write && e.tr.p2.allows .write && !e.tr.repl && !e.tr.host && e.tr.size2 == .k64 && e.tr.vbase == 0x20000 &&
      e.tr.frame == 0x20000 && e.tr.ipa == 0x20000

theorem witness_ShadowsOpen_none :
    [([], []), ([0x50000], [shadowOf 1 0x20000]),
      ([0x50000], [shadowOf 1 0x100000, shadowOf 2 0x110000, shadowOf 3 0x120000, shadowOf 4 0x130000])].all
      (fun e : List Nat × List Shadow => issues (.shadow false 4 8 9) (fixShadow 0x20000 0x10000 e.1 e.2) fun c =>
        let s := fixShadow 0x20000 0x10000 e.1 e.2
        mappedB s c && decide (4 ≤ (s.block c.bid).shadows.length ∨ s.shadowed c.q.part 0x20000 ∨
          (s.part c.q.part).shadowPool.length < 1)) = true := by
  decide

theorem witness_ShadowsOpen :
    issues (.shadow false 4 8 9) (fixShadow 0x20000 0x10000 [0x50000] [shadowOf 1 0x30000]) (fun c =>
      let s := fixShadow 0x20000 0x10000 [0x50000] [shadowOf 1 0x30000]
      mappedB s c && !c.ticketed && (s.block c.bid).shadows.length == 1 && !s.shadowed c.q.part 0x20000 &&
        (s.part c.q.part).shadowPool == [0x50000] && (List.range 256).all (fun j =>
          servesB s c.q.part (0x20000 + 256 * j) && servesB s c.q.part (0x50000 + 256 * j)) &&
        (s.block? c.bid).isSome) = true := by
  decide +kernel

/-- Shadow 1 of page 0x20000 is open; the stage-2 tables map the page; a copy writes into the range or none does. -/
def fixPublish (v : W64) (busy : Bool) : State :=
  let s := fixShadow v 0 [] [shadowOf 1 0x20000]
  { s with
    seq := 1
    copies := if busy then [copyAt 0 0 1 0x20000 64 true] else []
    parts := s.parts.map fun e => (e.1, { e.2 with s2root := 0x40000 })
    mem := storeN (storeN (storeN (storeN [] 0x40000 0x41001 8) 0x41000 0x42001 8) 0x42000 0x43001 8) 0x43010 0x20003 8 }

theorem witness_PublishSwapsFrames :
    issues (.publish false 8) (fixPublish 2 false) (fun c =>
      (((fixPublish 2 false).block c.bid).shadows.find? fun x => x.handle == (srcS 8 c).toNat && x.closing.isNone).isNone) = true ∧
    [true, false].all (fun busy => issues (.publish false 8) (fixPublish 1 busy) fun c =>
      (((fixPublish 1 busy).block c.bid).shadows.find? fun x => x.handle == (srcS 8 c).toNat && x.closing.isNone) ==
          some (shadowOf 1 0x20000) && quietB (fixPublish 1 busy) && (fixPublish 1 busy).updates == [] && (0x50000 + 2 ^ 16) % 256 == 0 &&
        (fixPublish 1 busy).engineWrites c.bid { shadowOf 1 0x20000 with pub := some 1 } 1 == busy &&
        ((fixPublish 1 busy).block? c.bid).isSome) = true ∧
    leaf2From (fixPublish 1 false) 0 0x20000 3 ((fixPublish 1 false).part 0).s2root = some 0x43010 := by
  decide +kernel

theorem witness_FenceOrders :
    [(4, 0), (5, 0), (6, 0), (5, 1)].all (fun e : BitVec 3 × Nat =>
      issues (.fence false e.1) { fixR 0 0 0 0 with remote := [{ g := gA, dest := e.2, pa := 2 ^ 50, n := 8, v := 0 }] } fun c =>
        c.g == gA) = true := by
  decide

/-- s8 and s9 give the range, in the page 0x20000 with lines of the caches. -/
def fixLines (a b : W64) : State :=
  let s := fixR a b 0 0
  { s with
    cores := s.cores.map fun e => (e.1, { e.2 with l1 := [{ line := 0x20000 / 64, mask := 3 }] })
    dies := [(0, { l2 := [{ line := 0x20000 / 256, dirty := 3 }] })] }

theorem witness_MaintenanceOfLines :
    [Instr.clean false 3 8 9, .inval false 1 8 9, .clinv false 0 8 9].all (fun i =>
      [(0x20000, 0x100000001), (0x20000, 0), (0x20000, 0x10000), (0x2FFFF, 1)].all fun e : W64 × W64 =>
        issues i (fixLines e.1 e.2) fun c => (maintWord i).isSome && decide (c.q.core < 256) && (fixLines e.1 e.2).updates == [] &&
          quietB (fixLines e.1 e.2) &&
          decide (2 ^ 32 < (srcS 9 c).toNat ∨ srcS 9 c = 0 ∨ (srcS 8 c).toNat % 65536 + (srcS 9 c).toNat ≤ 65536)) = true ∧
    tlbMaps (ctxOf (fixLines 0x2FFFF 1)) (fixLines 0x2FFFF 1) 0x2FFFF .write 0x2FFFF ∧
    tlbMaps (ctxOf (fixLines 0x20000 0x10000)) (fixLines 0x20000 0x10000) 0x20000 .read 0x20000 := by
  exact ⟨by decide, tlbHolds_of (by decide), tlbHolds_of (by decide)⟩

/-- Two batches are closed, with errors or with an instruction of a batch in the queue. -/
def fixBatch (v : W64) (errs : List MErr) (queued : Option Nat) : State :=
  let s := fixR v 0 0 0
  { s with
    groups := s.groups.map fun e => (e.1, { e.2 with batch := 2, merrs := errs })
    matq := queued.toList.map fun n => { seq := 0, g := gA, pc := 0, batch := n, word := 0, op := .tzero, d := 0, a := 0 } }

/-- An error of a batch. -/
def errOf (seq batch : Nat) : MErr := { seq := seq, pc := 0, batch := batch, cls := .perm, sub := 0, tile := 1, progress := 2, detail := 0 }

theorem witness_BatchesAreAwaited :
    [(3, [], none), (2, [], some 2), (2, [], some 3), (1, [errOf 5 2], none), (2, [errOf 6 2, errOf 5 1], none)].all
      (fun e : W64 × List MErr × Option Nat => issues (.mwait false 8) (fixBatch e.1 e.2.1 e.2.2) fun c =>
        c.grp.batch == 2 && c.grp.merrs == e.2.1 && srcS 8 c == e.1) = true := by
  decide

/-- Mailboxes with n messages each, in privileged code or not. -/
def fixMbx (priv : Bool) (v : W64) (n : Nat) : State :=
  let s := fix priv [(8, 5), (9, v)] [] []
  let box : List Msg := List.replicate n { v := 0, die := 0, core := 0, launch := 0 }
  { s with parts := s.parts.map fun e => (e.1, { e.2 with mbox0 := box, mbox1 := box }) }

theorem witness_MailboxesAndTierQueries_mbx :
    [(false, 0, 0), (true, 0, 63), (true, 0, 64), (false, 1, 63), (false, 1, 64), (true, 2, 0)].all (fun e : Bool × W64 × Nat =>
      issues (.mbx false 4 8 9) (fixMbx e.1 e.2.1 e.2.2) fun c => c.grp.priv == e.1 && srcS 9 c == e.2.1 &&
        ((fixMbx e.1 e.2.1 e.2.2).part c.q.part).mbox1.length == e.2.2 && !(fixMbx e.1 e.2.1 e.2.2).remotePending c.g true) = true ∧
    issues (.mbx false 4 8 9) (withRemote (fixMbx false 1 0)) (fun c => (withRemote (fixMbx false 1 0)).remotePending c.g true) = true := by
  decide +kernel

/-- The TLB's page 0x20000 stands in LPDDR of die n. -/
def fixTier (v : W64) (n : Nat) : State :=
  let s := fixR 0x20000 v 0 0
  let tier : Nat := 2 ^ 42 + n * 2 ^ 39
  { s with cores := s.cores.map fun e => (e.1, { e.2 with tlb := e.2.tlb.map fun t =>
      if t.tr.vbase = 0x20000 then { t with tr := { t.tr with frame := tier, ipa := tier } } else t }) }

theorem witness_MailboxesAndTierQueries_msq :
    [1, 2].all (fun v : W64 => issues (.msq false 4 8 9) (fixTier v 0) fun c => srcS 9 c == v) = true ∧
    (ready (.msq false 4 8 9) (fixTier 0 0) = some (ctxOf (fixTier 0 0)) ∧
      tlbMaps (ctxOf (fixTier 0 0)) (fixTier 0 0) 0x20000 .read (2 ^ 42) ∧ region (2 ^ 42) = .lpddr 0 0 ∧
      0 ∈ ((fixTier 0 0).part 0).dies ∧ (fixTier 0 0).coopBusy ((fixTier 0 0).coopPos 0 (2 ^ 42)) = false) ∧
    tlbMaps (ctxOf (fixTier 0 1)) (fixTier 0 1) 0x20000 .read (2 ^ 42 + 2 ^ 39) ∧ region (2 ^ 42 + 2 ^ 39) = .lpddr 1 0 ∧
      1 ∉ ((fixTier 0 1).part 0).dies := by
  exact ⟨by decide, ⟨by decide, tlbHolds_of (by decide), by decide, by decide, by decide⟩, tlbHolds_of (by decide), by decide, by decide⟩

/-- A matrix instruction of the fixture's group is in the queue n times. -/
def withMatq (s : State) (op : MOp) (n d : Nat) : State :=
  { s with matq := (List.range n).map fun k => { seq := k, g := gA, pc := 0, batch := 1, word := 0, op := op, d := d, a := d } }

theorem witness_TileSlices :
    [Instr.twr false 3 1 8 9 31, .trd false 3 0 8 9 31].all (fun i =>
      issues i (withMatq (fixR 63 0 0 0) .tzero 1 3) (fun c => (withMatq (fixR 63 0 0 0) .tzero 1 3).tileBusy c.bid 3) &&
      issues i (fixR 63 0 0 0) (fun c => !(fixR 63 0 0 0).tileBusy c.bid 3 && ((srcS 8 c).toNat + 31) % 64 == 30)) = true := by
  decide

/-- Whether TSETS takes v by selector (R279), for the check of the witnesses. -/
def settingB (sel : Nat) (v : W64) : Bool :=
  if sel = 0 then decide (v.toNat < 2 ^ 32) && !nanBits (v.setWidth 32)
  else if sel = 1 ∨ sel = 11 then decide (v.toNat < 2 ^ 32)
  else if sel = 2 then canonical v.toNat && v.toNat % 64 == 0
  else if sel = 3 then decide (v.toNat < 2 ^ 32 ∧ v.toNat / 2 ^ 8 % 64 = 0 ∧ v.toNat / 16 % 16 = 0 ∧ v.toNat % 4 ≠ 3)
  else if sel = 12 then decide (v.toNat < 2) else true

theorem witness_TileSettings_values :
    [(0, 0x7F800000, true), (0, 0x7FC00000, false), (0, 0x100000000, false), (1, 0xFFFFFFFF, true), (2, 0x40, true), (2, 0x20, false),
      (2, 0x100000000000000, false), (3, 0xFFFFC00E, true), (3, 3, false), (3, 0x10, false), (3, 0x100, false)].all
      (fun e : W64 × W64 × Bool => issues (.tsets false 2 8 9) (fixR e.2.1 e.1 0 0) fun c =>
        settingB (srcS 9 c).toNat (srcS 8 c) == e.2.2 && decide ((srcS 9 c).toNat ≤ 3 ∧ 2 < c.l.tiles) &&
          !(fixR e.2.1 e.1 0 0).tileBusy c.bid 2) = true ∧
    [(8, 0xFFFFFFFFFFFFFFFF, true), (11, 0xFFFFFFFF, true), (11, 0x100000000, false), (12, 1, true), (12, 2, false)].all
      (fun e : W64 × W64 × Bool => issues (.tsets false 0 8 9) (fixR e.2.1 e.1 0 0) fun c =>
        settingB (srcS 9 c).toNat (srcS 8 c) == e.2.2) = true := by
  decide

theorem witness_TileSettings_checks :
    [4, 7, 13].all (fun v : W64 => issues (.tstat false 4 0 9) (fixR 0 v 0 0) fun c => srcS 9 c == v) = true ∧
    issues (.tstat false 4 2 9) (fixR 0 8 0 0) (fun c => srcS 9 c == 8) = true ∧
    issues (.tsets false 15 8 9) (fixB true (bank0 [] []) 2 (0x00000F2000010000 : W64) []) (fun c => decide (c.l.tiles ≤ 15)) = true ∧
    issues (.tstat false 4 15 9) (fixR 0 0 0 0) (fun c => decide (15 < c.l.tiles) && !(fixR 0 0 0 0).tileBusy c.bid 15) = true ∧
    issues (.tstat false 4 0 9) (withMatq (fixR 0 12 0 0) (.qnt 0) 1 5) (fun c => srcS 9 c == 12 &&
      (withMatq (fixR 0 12 0 0) (.qnt 0) 1 5).whereIs c.g == (withMatq (fixR 0 12 0 0) (.qnt 0) 1 5).whereIs gA) = true ∧
    issues (.tstat false 4 5 9) (withMatq (fixR 0 3 0 0) .tzero 1 5) (fun c =>
      (withMatq (fixR 0 3 0 0) .tzero 1 5).tileBusy c.bid 5) = true := by
  decide

/-- Code with the loop's parameters in s16 to s23 and the control in s24. -/
def fixLoop (p : List W64) (v : W64) : State :=
  fix true (((List.range 8).map fun k => (16 + k, p.getD k 0)).filter (·.2 ≠ 0) ++ [(24, v)]) [] []

/-- The parameters are in range for a loop without increments, whatever its count. -/
def paramsB (v : W64) (p : Nat → W64) : Nat :=
  let strip (x : W64) : Bool := canonical x.toNat && x.toNat % 64 == 0
  let inc (x : W64) : Bool := x.toNat / 2 ^ 50 == 0 && x.toNat / 2 ^ 24 % 256 == 0
  if !(v.getLsbD 14 || strip (p 0)) then 0 else if !(v.getLsbD 15 || strip (p 1)) then 1
  else if !(if v.getLsbD 14 then inc (p 2) else (p 2).toNat % 64 == 0) then 2
  else if !(if v.getLsbD 15 then inc (p 3) else (p 3).toNat % 64 == 0) then 3
  else if !decide ((p 4).toNat < 2 ^ 24) then 4
  else if !(decide ((p 5).toNat < 2 ^ 46) && (p 5).toNat / 2 ^ 38 % 4 == 0) then 5
  else if !(if v.getLsbD 12 then canonical (p 6).toNat && (p 6).toNat % 128 == 0 else p 6 == 0) then 6
  else 7

theorem witness_MatrixInstructionsQueue_params :
    [([0x20000, 0x20040, 64, 64, 1], 7), ([0x20000, 0x20040, 64, 64, 0], 7), ([0x20001], 0), ([0, 0x20020], 1), ([0, 0, 8], 2),
      ([0, 0, 0, 0x7F], 3), ([0, 0, 0, 0, 0x1000000], 4), ([0, 0, 0, 0, 0xFFFFFF, 0x4000000000], 5), ([0, 0, 0, 0, 0, 0, 1], 6)].all
      (fun e : List W64 × Nat => issues (.mloop false 2 16 24) (fixLoop e.1 0x66) fun c =>
        paramsB (srcS 24 c) (fun k => c.b.getS (16 + k)) == e.2) = true := by
  decide

theorem witness_MatrixInstructionsQueue_loops :
    goodLoop 0x66 0 2 ∧ goodLoop 0x77 0 3 ∧ goodLoop 0x2000 0 14 ∧ goodLoop 0x1088 0 2 ∧ ¬ goodLoop 0x16 0 2 ∧ ¬ goodLoop 0x40000 0 2 ∧
      ¬ goodLoop 0x2000 0 3 ∧ ¬ goodLoop 0x1000 0 2 ∧ ¬ goodLoop 0xA0 0 2 := by
  refine ⟨?_, ?_, ?_, ?_, ?_, ?_, ?_, ?_, ?_⟩ <;> unfold goodLoop pairing alphabetOk <;> decide

/-- A split pair of which the second tile is granted, in a launch with 16 tiles, or is not. -/
theorem witness_MatrixInstructionsQueue_split :
    issues (.mloop false 14 16 24) (fixLoop [0x20000, 0x20040, 64, 64, 1] 0x2000) (fun c => decide (14 + 1 < c.l.tiles)) = true ∧
    issues (.mloop false 14 16 24) (fixB true { (bank0 [(16, 0x20000), (24, 0x2000)] []) with } 2 (0x00000F2000010000 : W64) [])
      (fun c => decide (c.l.tiles ≤ 14 + 1)) = true := by
  decide

theorem witness_MatrixInstructionsQueue_controls :
    [(0, true), (2, true), (6, true), (3, false), (8, false)].all (fun e : W64 × Bool =>
      issues (.had false 4 2 8) (fixR e.1 0 0 0) fun c =>
        decide ((srcS 8 c).toNat < 8 ∧ (srcS 8 c).toNat % 4 ≠ 3) == e.2) = true ∧
    [(0x3F800000, true), (0x00800000, true), (0x7F7F0000, true), (0x7F800000, false), (0x3F800004, false), (0x3F800101, false),
      (0x3F800101, false), (0x3F80FF02, false), (0x007F0000, false)].all (fun e : W64 × Bool =>
      issues (.qnt false 4 2 8) (fixR e.1 0 0 0) fun c =>
        let n := (srcS 8 c).toNat
        decide (n < 2 ^ 32 ∧ n / 4 % 64 = 0 ∧ 0x80 ≤ n / 2 ^ 16 ∧ n / 2 ^ 16 < 0x7F80 ∧ (n % 2 = 1 → n / 2 ^ 8 % 256 = 0) ∧
          (n / 2 % 2 = 1 → n / 2 ^ 8 % 256 ≠ 0xFF)) == e.2) = true ∧
    [3, 4].all (fun n => issues (.tzero false 2) (withMatq (fixR 0 0 0 0) .tzero n 2) fun c =>
      ((withMatq (fixR 0 0 0 0) .tzero n 2).matq.filter fun m =>
        ((withMatq (fixR 0 0 0 0) .tzero n 2).block (bidOf m.g)).at?.isSome &&
          (withMatq (fixR 0 0 0 0) .tzero n 2).whereIs m.g == (withMatq (fixR 0 0 0 0) .tzero n 2).whereIs c.g).length == n) = true := by
  decide

/-! ## States that meet the hypotheses: the KV space -/

/-- tableWord, as a check. -/
def tableB (s : State) (part a v : Nat) : Bool := servesB s part a && loadN s.mem a 8 == v

theorem table_of {s : State} {part a v : Nat} (h : tableB s part a v = true) : tableWord s part a v := by
  simp only [tableB, Bool.and_eq_true, beq_iff_eq] at h
  exact ⟨serves_of h.1, h.2⟩

/-- KvTables, as a check. -/
def tablesB (s : State) (part : Nat) (co : W64) (d : KvSpace) (r : KvSeq) : Bool :=
  decide (d.addr = (s.part part).spaces + 32 * (co.toNat / 2 ^ 60)) && tableB s part d.addr (1 + d.fmt * 2 ^ 8 + d.seqtab) &&
    tableB s part (d.addr + 8) (d.nseqm1 * 2 ^ 12 + d.headsm1 * 2 ^ 32 + d.layersm1 * 2 ^ 40 + d.rowbytes * 2 ^ 48) &&
    tableB s part (d.addr + 16) d.voff && tableB s part (d.addr + 24) 0 &&
    decide (d.fmt ≤ 4 ∧ 64 ≤ d.rowbytes ∧ d.rowbytes ≤ 16384 ∧ d.rowbytes % 64 = 0 ∧ d.voff % 64 = 0 ∧ d.voff < d.rowbytes) &&
    decide (d.layersm1 < 2 ^ 8 ∧ d.headsm1 < 2 ^ 8 ∧ d.nseqm1 < 2 ^ 20 ∧ d.seqtab % 2 ^ 16 = 0 ∧ d.seqtab < 2 ^ 52) &&
    decide (co.toNat / 2 ^ 40 % 2 ^ 20 ≤ d.nseqm1) &&
    decide (co.toNat / 2 ^ 32 % 2 ^ 8 ≤ d.layersm1 ∧ co.toNat / 2 ^ 24 % 2 ^ 8 ≤ d.headsm1) &&
    tableB s part (d.seqtab + 8 * (co.toNat / 2 ^ 40 % 2 ^ 20)) (1 + r.addr) && tableB s part r.addr r.length &&
    tableB s part (r.addr + 8) (1 + r.ldir) && tableB s part (r.addr + 16) (b01 r.fk * 2 ^ 20 + r.parent) &&
    decide (r.addr % 2 ^ 6 = 0 ∧ r.addr < 2 ^ 52 ∧ r.length ≤ 2 ^ 24 ∧ r.ldir % 2 ^ 12 = 0 ∧ r.ldir < 2 ^ 52 ∧ r.parent < 2 ^ 20)

theorem tables_of {s : State} {part : Nat} {co : W64} {d : KvSpace} {r : KvSeq} (h : tablesB s part co d r = true) :
    KvTables s part co d r := by
  simp only [tablesB, Bool.and_eq_true, decide_eq_true_eq] at h
  obtain ⟨⟨⟨⟨⟨⟨⟨⟨⟨⟨⟨⟨⟨h1, h2⟩, h3⟩, h4⟩, h5⟩, h6⟩, h7⟩, h8⟩, h9⟩, h10⟩, h11⟩, h12⟩, h13⟩, h14⟩ := h
  exact ⟨h1, table_of h2, table_of h3, table_of h4, table_of h5, h6, h7, h8, h9, table_of h10,
    ⟨table_of h11, table_of h12, table_of h13⟩, h14⟩

/-- KvList, as a check. -/
def listB (s : State) (part : Nat) (r : KvSeq) (k plist cap : Nat) : Bool :=
  tableB s part (r.ldir + 16 * k) (1 + plist) && tableB s part (r.ldir + 16 * k + 8) cap &&
    decide (plist % 2 ^ 8 = 0 ∧ plist < 2 ^ 52 ∧ cap < 2 ^ 23)

theorem list_of {s : State} {part : Nat} {r : KvSeq} {k plist cap : Nat} (h : listB s part r k plist cap = true) :
    KvList s part r k plist cap := by
  simp only [listB, Bool.and_eq_true, decide_eq_true_eq] at h
  exact ⟨table_of h.1.1, table_of h.1.2, h.2⟩

/-- KvPaged, as a check. -/
def pagedB (s : State) (part pe f fa : Nat) : Bool :=
  tableB s part pe (f + 1) && decide (f % 2 ^ 16 = 0 ∧ f < 2 ^ 52 ∧ (s.part part).poolBase ≤ f ∧
    f < (s.part part).poolBase + (s.part part).poolSize ∧ fa = (s.part part).frameTable + 8 * ((f - (s.part part).poolBase) / 2 ^ 16))

theorem paged_of {s : State} {part pe f fa : Nat} (h : pagedB s part pe f fa = true) : KvPaged s part pe f fa := by
  simp only [pagedB, Bool.and_eq_true, decide_eq_true_eq] at h
  exact ⟨table_of h.1, ⟨h.2.1, h.2.2.1⟩, h.2.2.2⟩

/-- KvFrame, as a check. -/
def frameB (s : State) (part fa refs pins st : Nat) : Bool :=
  tableB s part fa (refs * 2 ^ 48 + pins * 2 ^ 32 + st * 2 ^ 30) && decide (refs < 2 ^ 16 ∧ pins < 2 ^ 16 ∧ st < 4)

theorem frame_of {s : State} {part fa refs pins st : Nat} (h : frameB s part fa refs pins st = true) :
    KvFrame s part fa refs pins st := by
  simp only [frameB, Bool.and_eq_true, decide_eq_true_eq] at h
  exact ⟨table_of h.1, h.2⟩

/-- Space 0 with rows of 16 KiB, four to a page, one layer and one head, and two sequences. -/
def sp0 : KvSpace := { addr := 0x80000, seqtab := 0x90000, fmt := 1, rowbytes := 16384, layersm1 := 0, headsm1 := 0, nseqm1 := 1, voff := 64 }
/-- Sequence 0 of length n. -/
def sq0 (n : Nat) : KvSeq := { addr := 0xA0000, length := n, ldir := 0xA1000, fk := false, parent := 0 }
/-- Sequence 1 of length n. -/
def sq1 (n : Nat) : KvSeq := { addr := 0xA0040, length := n, ldir := 0xA2000, fk := false, parent := 0 }

/-- Memory with these tables: the lengths, the page list capacities, the page entries of sequence 0, the frame-table entries. -/
def kvMem (n0 n1 cap0 cap1 : Nat) (es fs : List Nat) : SMap Byte :=
  let words : List (Nat × Nat) := [(0x80000, 0x90101), (0x80008, 0x4000000000001000), (0x80010, 64), (0x90000, 0xA0001), (0x90008, 0xA0041),
    (0xA0000, n0), (0xA0008, 0xA1001), (0xA0040, n1), (0xA0048, 0xA2001), (0xA1000, 0xA3001), (0xA1008, cap0), (0xA2000, 0xA4001),
    (0xA2008, cap1)] ++ (List.range es.length).map (fun k => (0xA3000 + 8 * k, es.getD k 0)) ++
    (List.range fs.length).map (fun k => (0xB0000 + 8 * k, fs.getD k 0))
  words.foldl (fun m w => storeN m w.1 w.2 8) []

/-- Code with s8 the coordinate, s9 the control, the tables in memory, the core's frame cache and the block's pins. -/
def fixKv (co ctl : W64) (m : SMap Byte) (frames : List Nat) (pins : List Pin) : State :=
  let s := fix false [(8, co), (9, ctl)] [] m
  { s with
    parts := s.parts.map fun e => (e.1, { e.2 with spaces := 0x80000, frameTable := 0xB0000, poolBase := 0x100000, poolSize := 0x40000 })
    cores := s.cores.map fun e => (e.1, { e.2 with frames := frames })
    blocks := [(⟨8, 0⟩, { place := .core 0 0, pins := pins })] }

/-- Sequence 0 has length 9: pages 0 and 1 in frames 0x100000 and 0x110000, page 2 absent or in 0x120000. -/
def memA (e2 : Nat) : SMap Byte :=
  kvMem 9 0 3 2 [0x100001, 0x110001, e2] [0x0001000040000000, 0x0001000040000000, 0x0001000040000000]

theorem witness_kvLoads_checks :
    issues (.kvld false 0 4 8 9) (fixKv 0 128 [] [] []) (fun c => decide (128 ≤ (srcS 9 c).toNat)) = true ∧
    (ready (.kvld false 0 4 8 9) (fixKv 0 64 (memA 0) [] []) = some (ctxOf (fixKv 0 64 (memA 0) [] [])) ∧
      KvTables (fixKv 0 64 (memA 0) [] []) 0 0 sp0 (sq0 9) ∧ sp0.rowbytes ≤ 256 * 64) ∧
    (KvTables (fixKv 9 63 (memA 0) [] []) 0 9 sp0 (sq0 9) ∧ kvCached (ctxOf (fixKv 9 63 (memA 0) [] [])) (fixKv 9 63 (memA 0) [] []) 9 sp0 = none ∧
      256 * 63 < sp0.rowbytes ∧ (sq0 9).length ≤ kvPos 9) := by
  refine ⟨by decide +kernel, ⟨by decide +kernel, tables_of (by decide +kernel), by decide⟩, tables_of (by decide +kernel), by decide +kernel,
    by decide, by decide⟩

theorem witness_kvLoads_missing :
    (KvList (fixKv 8 0 (memA 0) [] []) 0 (sq0 9) (kvHeadIndex 8 sp0) 0xA3000 3 ∧ kvPageNo 8 sp0 < 3 ∧ kvPos 8 < (sq0 9).length ∧
      tableWord (fixKv 8 0 (memA 0) [] []) 0 (0xA3000 + 8 * kvPageNo 8 sp0) 0) ∧
    KvList (fixKv 8 0 (kvMem 9 0 2 2 [] []) [] []) 0 (sq0 9) (kvHeadIndex 8 sp0) 0xA3000 2 ∧ 2 ≤ kvPageNo 8 sp0 := by
  exact ⟨⟨list_of (by decide +kernel), by decide, by decide, table_of (by decide +kernel)⟩, list_of (by decide +kernel), by decide⟩

/-- The state in which KVLD and KVPIN find page 2. -/
def fixKv8 : State := fixKv 8 0 (memA 0x120001) [] []

theorem witness_kvLoads_found :
    ready (.kvld false 0 4 8 9) fixKv8 = some (ctxOf fixKv8) ∧ KvTables fixKv8 0 8 sp0 (sq0 9) ∧ kvCached (ctxOf fixKv8) fixKv8 8 sp0 = none ∧
      KvList fixKv8 0 (sq0 9) (kvHeadIndex 8 sp0) 0xA3000 3 ∧ KvPaged fixKv8 0 (0xA3000 + 8 * kvPageNo 8 sp0) 0x120000 0xB0010 ∧
      ∀ l ∈ (ctxOf fixKv8).lanes, fixKv8.Serves 0 (kvRow 8 sp0 0x120000 + 4 * l) := by
  refine ⟨by decide +kernel, tables_of (by decide +kernel), by decide +kernel, list_of (by decide +kernel), paged_of (by decide +kernel),
    fun l hl => serves_of ?_⟩
  exact List.all_eq_true.mp (by decide +kernel :
    ((ctxOf fixKv8).lanes.all fun l => servesB fixKv8 0 (kvRow 8 sp0 0x120000 + 4 * l)) = true) l hl

/-- The die's KV cache holds page 2 as it was at length 9. -/
def fixKvCached : State :=
  { fixKv8 with dies := [(0, { kv := [{
    part := 0, space := 0, seq := 0, layer := 0, head := 0, page := 2, entry := 0x120001, entryPa := 0xA3010, length := 9 }] })] }

theorem witness_kvLoads_cached :
    KvTables fixKvCached 0 8 sp0 (sq0 9) ∧ (kvCached (ctxOf fixKvCached) fixKvCached 8 sp0).any (fun e =>
      decide (kvPos 8 < e.length) && e.entry.toNat == 0x120000 + 1) = true := by
  exact ⟨tables_of (by decide +kernel), by decide +kernel⟩

theorem witness_kvAppends_checks :
    [512, 128].all (fun v : W64 => issues (.kvapp false 4 8 9) (fixKv 8 v [] [] []) fun c =>
      decide (512 ≤ (srcS 9 c).toNat) || (srcS 9 c).toNat.testBit 7) = true := by
  decide

theorem witness_kvAppends_place :
    ready (.kvapp false 4 8 9) (fixKv 8 0x100 (memA 0x120001) [] []) = some (ctxOf (fixKv 8 0x100 (memA 0x120001) [] [])) ∧
      KvTables (fixKv 8 0x100 (memA 0x120001) [] []) 0 8 sp0 (sq0 9) ∧
      KvList (fixKv 8 0x100 (memA 0x120001) [] []) 0 (sq0 9) (kvHeadIndex 8 sp0) 0xA3000 3 ∧
      KvPaged (fixKv 8 0x100 (memA 0x120001) [] []) 0 (0xA3000 + 8 * kvPageNo 8 sp0) 0x120000 0xB0010 ∧
      KvFrame (fixKv 8 0x100 (memA 0x120001) [] []) 0 0xB0010 1 0 1 ∧
      (fixKv 8 0x100 (memA 0x120001) [] []).Unwatched (sq0 9).addr 8 ∧ sp0.rowbytes ≤ 256 * 64 ∧ 256 * 63 < sp0.rowbytes := by
  exact ⟨by decide +kernel, tables_of (by decide +kernel), list_of (by decide +kernel), paged_of (by decide +kernel),
    frame_of (by decide +kernel), unwatched_of (by rfl), by decide, by decide⟩

theorem witness_kvAppends_new :
    [[], [0x120000], 0x120000 :: List.replicate 4 0x130000].all (fun frames =>
      let s := fixKv 9 0x100 (memA 0) frames []
      ready (.kvapp false 4 8 9) s == some (ctxOf s) && tablesB s 0 9 sp0 (sq0 9) && listB s 0 (sq0 9) (kvHeadIndex 9 sp0) 0xA3000 3 &&
        tableB s 0 (0xA3000 + 8 * kvPageNo 9 sp0) 0 && (s.core 0 0).frames == frames && unwatchedB s 0xA3010 8 && unwatchedB s 0xB0010 8 &&
        servesB s 0 0xB0010 && !(s.core 0 0).refill && ((ctxOf s).lanes.all fun l => servesB s 0 (kvRow 9 sp0 0x120000 + 4 * l) && unwatchedB s (kvRow 9 sp0 0x120000 + 4 * l) 4) &&
        unwatchedB s (sq0 9).addr 8) = true ∧
    poolFrame (fixKv 9 0x100 (memA 0) [0x120000] []) 0 0x120000 0xB0010 := by
  refine ⟨by decide +kernel, ?_⟩
  unfold poolFrame
  decide +kernel

/-- Page 2 is offloaded; or another entry shares its frame 0x120000, and the core's cache is empty or holds 0x130000. -/
theorem witness_kvAppends_offloaded :
    let s := fixKv 8 0x100 (memA 0x120003) [] []
    (ready (.kvapp false 4 8 9) s == some (ctxOf s) && tablesB s 0 8 sp0 (sq0 9) && listB s 0 (sq0 9) (kvHeadIndex 8 sp0) 0xA3000 3 &&
      tableB s 0 (0xA3000 + 8 * kvPageNo 8 sp0) (0x120000 + 3)) = true := by
  decide +kernel

theorem witness_kvAppends_shared :
    [[], [0x130000]].all (fun frames =>
      let s := fixKv 8 0x100 (kvMem 9 0 3 2 [0x100001, 0x110001, 0x120001] [0, 0, 0x0002000040000000]) frames []
      ready (.kvapp false 4 8 9) s == some (ctxOf s) && tablesB s 0 8 sp0 (sq0 9) && listB s 0 (sq0 9) (kvHeadIndex 8 sp0) 0xA3000 3 &&
        pagedB s 0 (0xA3000 + 8 * kvPageNo 8 sp0) 0x120000 0xB0010 && frameB s 0 0xB0010 2 0 1 && (s.core 0 0).frames == frames &&
        ((List.range 256).all fun j => servesB s 0 (0x120000 + 256 * j) && servesB s 0 (0x130000 + 256 * j)) &&
        ((ctxOf s).lanes.all fun l => servesB s 0 (kvRow 8 sp0 0x130000 + 4 * l)) && servesB s 0 0xB0018 && s.monitors == []) = true ∧
    poolFrame (fixKv 8 0x100 (memA 0) [0x130000] []) 0 0x130000 0xB0018 ∧ apart 0x120000 65536 0x130000 65536 ∧
      apart 0x130000 65536 0xB0010 8 ∧ apart 0xB0018 8 0xB0010 8 := by
  refine ⟨by decide +kernel, ?_⟩
  unfold poolFrame apart
  decide +kernel

/-- KVFORK of sequence 0 at a length into sequence 1, whose length, capacity and the frames' entries are given. -/
def fixFork (co sq : W64) (n1 cap1 : Nat) (fr : Nat) : State :=
  fixKv co sq (kvMem 9 n1 3 cap1 [0x100001, 0x110001, 0x120001] [0x0001000040000000, fr, 0x0001000040000000]) [] []

/-- The hypotheses of kvForks on the tables, for a fork at length L. -/
def forkB (s : State) (L n1 cap1 : Nat) : Bool :=
  ready (.kvfork false 4 8 9) s == some (ctxOf s) && tablesB s 0 (BitVec.ofNat 64 L) sp0 (sq0 9) &&
    tablesB s 0 (BitVec.ofNat 64 (2 ^ 40 + L)) sp0 (sq1 n1) && listB s 0 (sq1 n1) 0 0xA4000 cap1 && listB s 0 (sq0 9) 0 0xA3000 3 &&
    ((List.range cap1).all fun j => tableB s 0 (0xA4000 + 8 * j) 0)

theorem witness_kvForks_checks :
    issues (.kvfork false 4 8 9) (fixFork 4 0x100000 0 2 0) (fun c => decide (2 ^ 20 ≤ (srcS 9 c).toNat)) = true ∧
    issues (.kvfork false 4 8 9) (fixFork 0x1000004 1 0 2 0) (fun c => decide (((srcS 8 c).toNat / 2 ^ 24) % 2 ^ 16 ≠ 0)) = true ∧
    (forkB (fixFork 10 1 0 2 0x0001000040000000) 10 0 2 && decide ((sq0 9).length < 10)) = true ∧
    (forkB (fixFork 8 1 5 2 0x0001000040000000) 8 5 2 && decide ((sq1 5).length ≠ 0)) = true ∧
    (forkB (fixFork 9 1 0 2 0x0001000040000000) 9 0 2 && decide (2 < (9 + 65536 / sp0.rowbytes - 1) / (65536 / sp0.rowbytes))) = true := by
  decide +kernel

theorem witness_kvForks :
    [(0x0001000040000000, 1), (0xFFFF000040000000, 65535)].all (fun e : Nat × Nat =>
      let s := fixFork 8 1 0 2 e.1
      forkB s 8 0 2 && pagedB s 0 0xA3000 0x100000 0xB0000 && pagedB s 0 0xA3008 0x110000 0xB0008 && frameB s 0 0xB0000 1 0 1 &&
        frameB s 0 0xB0008 e.2 0 1 && (8 + 65536 / sp0.rowbytes - 1) / (65536 / sp0.rowbytes) == 2 && s.monitors == []) = true := by
  decide +kernel

theorem witness_kvTrims_checks :
    issues (.kvtrim false 4 8) (fixKv 0x1000004 0 [] [] []) (fun c => decide (((srcS 8 c).toNat / 2 ^ 24) % 2 ^ 16 ≠ 0)) = true ∧
    (ready (.kvtrim false 4 8) (fixKv 9 0 (memA 0) [] []) == some (ctxOf (fixKv 9 0 (memA 0) [] [])) &&
      tablesB (fixKv 9 0 (memA 0) [] []) 0 9 sp0 (sq0 9) && decide ((sq0 9).length ≤ kvPos 9)) = true := by
  decide +kernel

/-- Page 2 is the last; its frame is shared, or not. -/
theorem witness_kvTrims :
    [(0x0002000040000000, 2), (0x0001000040000000, 1)].all (fun e : Nat × Nat =>
      let s := fixKv 8 0 (kvMem 9 0 3 2 [0x100001, 0x110001, 0x120001] [0, 0, e.1]) (List.replicate 15 0) []
      ready (.kvtrim false 4 8) s == some (ctxOf s) && tablesB s 0 8 sp0 (sq0 9) && listB s 0 (sq0 9) 0 0xA3000 3 &&
        pagedB s 0 0xA3010 0x120000 0xB0010 && frameB s 0 0xB0010 e.2 0 1 && s.monitors == [] &&
        (8 + 65536 / sp0.rowbytes - 1) / (65536 / sp0.rowbytes) == 2 && (s.core 0 0).frames.length == 15 &&
        (List.range 256).all fun j => servesB s 0 (0x120000 + 256 * j)) = true ∧
    apart 0x120000 65536 0xB0010 8 ∧ apart 0x120000 65536 0xA3010 8 ∧ apart 0x120000 65536 (sq0 9).addr 8 ∧
      apart 0xA3010 8 (sq0 9).addr 8 := by
  unfold apart
  decide +kernel

theorem witness_kvQueries :
    [0, 1, 2, 4, 5].all (fun v : W64 => issues (.kvq false 4 8 9) (fixKv 8 v (memA 0) [] []) fun c => srcS 9 c == v) = true ∧
    [0, 0x120001, 0x120003].all (fun e =>
      let s := fixKv 8 3 (memA e) [] []
      ready (.kvq false 4 8 9) s == some (ctxOf s) && tablesB s 0 8 sp0 (sq0 9) && listB s 0 (sq0 9) (kvHeadIndex 8 sp0) 0xA3000 3 &&
        tableB s 0 (0xA3000 + 8 * kvPageNo 8 sp0) e && frameB s 0 0xB0010 1 0 1) = true ∧
    listB (fixKv 8 3 (kvMem 9 0 2 2 [] []) [] []) 0 (sq0 9) (kvHeadIndex 8 sp0) 0xA3000 2 = true ∧ 2 ≤ kvPageNo 8 sp0 := by
  decide +kernel

/-- A pin of page p of sequence 0. -/
def pinOf (p : Nat) : Pin := { space := 0, seq := 0, layer := 0, head := 0, page := p, frame := 0x120000, tpp := 4 }

theorem witness_kvPins_pin :
    [(7, 0x0001FFFE40000000, 65534), (8, 0x0001000040000000, 0), (7, 0x0001FFFF40000000, 65535)].all (fun e : Nat × Nat × Nat =>
      let s := fixKv 8 0 (kvMem 9 0 3 2 [0x100001, 0x110001, 0x120001] [0, 0, e.2.1]) [] (List.replicate e.1 (pinOf 0))
      ready (.kvpin false 8) s == some (ctxOf s) && tablesB s 0 8 sp0 (sq0 9) && listB s 0 (sq0 9) (kvHeadIndex 8 sp0) 0xA3000 3 &&
        pagedB s 0 0xA3010 0x120000 0xB0010 && frameB s 0 0xB0010 1 e.2.2 1 && (kvCached (ctxOf s) s 8 sp0).isNone &&
        (s.block ⟨8, 0⟩).pins.length == e.1 && s.monitors == []) = true := by
  decide +kernel

theorem witness_kvPins_unpin :
    [(0x0001000140000000, 1, 1, 1), (0x0000000180000000, 0, 1, 2), (0x0000000280000000, 0, 2, 2)].all (fun e : Nat × Nat × Nat × Nat =>
      let s := fixKv 8 0 (kvMem 9 0 3 2 [] [0, 0, e.1]) [] [pinOf 0, pinOf 2, pinOf 2]
      ready (.kvunpin false 8) s == some (ctxOf s) && frameB s 0 0xB0010 e.2.1 e.2.2.1 e.2.2.2 &&
        (s.block ⟨8, 0⟩).pins == [pinOf 0] ++ pinOf 2 :: [pinOf 2] && (pinOf 0).page != kvPos 8 / 4 && (pinOf 2).page == kvPos 8 / 4 &&
        decide (0x100000 ≤ 0x120000 ∧ (s.part 0).frameTable + 8 * ((0x120000 - (s.part 0).poolBase) / 2 ^ 16) = 0xB0010)) = true ∧
    issues (.kvunpin false 8) (fixKv 8 0 [] [] [pinOf 0]) (fun c => (pinOf 0).page != kvPos (srcS 8 c) / 4) = true := by
  decide +kernel

/-! ## States that meet the hypotheses: privileged code -/

/-- The on-core handler of quadrant 0 issues; the groups in its queue have the states given. -/
def fixHdl (traps : List GId) (run : Run) : State :=
  let s := fix0
  { s with
    cores := s.cores.map fun e => (e.1, { e.2 with quads := [(0, { cur := some (.hdl 0 0 0, .a, 0), traps := traps, active := true })] })
    groups := (s.groups.map fun e => (e.1, { e.2 with run := run, epc := 0x10040 })) ++
      [(.grp 8 0 1, { run := .trapped, idx1 := 1 : Grp }), (.hdl 0 0 0, { b := bank0 [] [], valloc := 64, priv := true : Grp })] }

theorem witness_returnsFromTraps :
    issues (.eret false) fix0 (fun c => !isHdl c.g) = true ∧
    [[], [gA], [gA, .grp 8 0 1]].all (fun traps => issues (.eret true) (fixHdl traps .trapped) fun c =>
      c.g == .hdl 0 0 0 && ((fixHdl traps .trapped).quad 0 0 0).traps == traps &&
        ((fixHdl traps .trapped).grp? gA).any fun r => r.run == .trapped) = true ∧
    (fixHdl [gA] .trapped).pends = [] ∧ ((fixHdl [gA] .trapped).quad 0 0 0).prio ≠ some (.hdl 0 0 0) ∧
    ((fixHdl [gA, .grp 8 0 1] .trapped).block? ⟨8, 0⟩).isSome = true := by
  decide

/-- Privileged code whose target is the second group of the block, as given; s8 and s9 are v and w. -/
def fixTarget (v w : W64) (r : Option Grp) : State :=
  let s := fixR v w 0 0
  { s with
    groups := s.groups ++ r.toList.map fun r => (.grp 8 0 1, r)
    blocks := [(⟨8, 0⟩, { place := .core 0 0, tgroup := 1 })] }

/-- A stopped group whose slot B runs the lanes 0xF00. -/
def stoppedG : Grp := { run := .stopped, valloc := 16, b := bankK runsB [] 0 }

theorem witness_reachesGroups_names :
    selects stoppedG 63 (.scalar 63) ∧ selects stoppedG 0x13F00F (.element 15 63) ∧ selects stoppedG 0x200007 (.mask 7) ∧
      selects stoppedG 0x300000 (.pc .a) ∧ selects stoppedG 0x300002 (.pc .b) ∧ selects stoppedG 0x300001 (.lanes .a) ∧
      selects stoppedG 0x300003 (.lanes .b) ∧ halted stoppedG ∧ ¬ halted ({} : Grp) ∧ ∀ x, ¬ selects stoppedG 64 x := by
  refine ⟨?_, ?_, ?_, ?_, ?_, ?_, ?_, ?_, ?_, ?_⟩
  iterate 7 (unfold selects; decide)
  · exact .inr (.inl rfl)
  · simp [halted]
  · intro x h
    cases x <;> simp [selects] at h <;> omega

theorem witness_reachesGroups :
    [none, some stoppedG, some {}].all (fun r => issues (.grd false 4 8) (fixTarget 63 0 r) (fun c =>
        (fixTarget 63 0 r).target c == .grp 8 0 1 && (fixTarget 63 0 r).grp? ((fixTarget 63 0 r).target c) == r) &&
      issues (.gwr false 8 9) (fixTarget 63 0 r) fun c => (fixTarget 63 0 r).grp? ((fixTarget 63 0 r).target c) == r) = true ∧
    [(0x300000, 0x10004, true), (0x300000, 0x10002, false), (0x300001, 0xF00, false), (0x300001, 0, true), (0x300001, 0xFF, true)].all
      (fun e : W64 × W64 × Bool => issues (.gwr false 8 9) (fixTarget e.1 e.2.1 (some stoppedG)) fun c =>
        (if srcS 8 c = 0x300000 then decide (canonical (srcS 9 c).toNat ∧ (srcS 9 c).toNat % 4 = 0)
         else srcS 9 c &&& (stoppedG.b.slot .b).lanes == 0) == e.2.2) = true := by
  decide

/-- The target's run is in progress on its quadrant. -/
def fixBusy (v : W64) (r : Grp) : State :=
  let s := fixTarget v 0 (some { r with quad := 1 })
  { s with cores := s.cores.map fun e => (e.1, { e.2 with quads := e.2.quads ++ [(1, { cur := some (.grp 8 0 1, .a, 3) })] }) }

theorem witness_stopsAndResumes :
    issues (.gres false 8) (fixTarget 0 0 none) (fun c => ((fixTarget 0 0 none).grp? ((fixTarget 0 0 none).target c)).isNone) = true ∧
    [(2, ({} : Grp)), (0, {}), (0, stoppedG), (1, stoppedG), (1, {})].all (fun e : W64 × Grp =>
      issues (.gres false 8) (fixTarget e.1 0 (some e.2)) fun c => srcS 8 c == e.1 &&
        (fixTarget e.1 0 (some e.2)).grp? ((fixTarget e.1 0 (some e.2)).target c) == some e.2) = true ∧
    issues (.gres false 8) (fixBusy 1 {}) (fun c =>
      let s := fixBusy 1 {}
      let w := s.whereIs (s.target c)
      (s.quad w.1 w.2.1 w.2.2).cur == some (.grp 8 0 1, .a, 3) &&
        ((s.grp? (s.target c)).any fun r => r.run == .running && r.ahead.isNone)) = true ∧
    issues (.gres false 8) (fixTarget 1 0 (some {})) (fun c =>
      let s := fixTarget 1 0 (some {})
      let w := s.whereIs (s.target c)
      (match (s.quad w.1 w.2.1 w.2.2).cur with | some (g, _, _) => g != s.target c | none => true) &&
        (s.quad w.1 w.2.1 w.2.2).held.isNone) = true := by
  decide

theorem witness_killsGangs :
    [2, 1, 0].all (fun v : W64 => issues (.gkill false 8 9) (fixR v 3 0 0) fun c => srcS 8 c == v &&
      ((fixR v 3 0 0).launch? c.bid.launch).any fun l => l.ended.isNone) = true ∧
    (let s := withRecord (fixR 0 3 0 0) 0x80000002 0 0 0
     let s := { s with launches := s.launches.map fun e => (e.1, { e.2 with everHeld := [0] }) }
     issues (.gkill false 8 9) s fun c => (s.launch? c.bid.launch).any fun l => l.ended.isNone && l.grade == 2 &&
       l.everHeld.any fun G => l.unitOf (G / l.groupsPerBlock) == l.unitOf c.bid.flat) = true := by
  decide

/-- A record of the trap queue, and the group that it parks. -/
def recOf (owner : Owner) : Rec := { rid := 7, cls := .xlate, kind := .replayable, src := 0, launch := 1, gflat := 1, owner := owner }

/-- TQPOP of function w at the address v, with the trap queue and the second group given. -/
def fixPop (v w : W64) (tq : List (Nat × Rec)) (r : Option Grp) : State :=
  let s := fixTarget v w r
  { s with parts := s.parts.map fun e => (e.1, { e.2 with tq := tq }) }

theorem witness_popsAndReleases_pop :
    issues (.tqpop false 4 8 9) (fixPop 0x20000 3 [] none) (fun c => decide (2 < (srcS 9 c).toNat)) = true ∧
    issues (.tqpop false 4 8 9) (fixPop 0x20100 0 [] none) (fun c => (srcS 8 c).toNat % 512 != 0) = true ∧
    (ready (.tqpop false 4 8 9) (fixPop 0x20000 0 [(0, recOf .nobody)] none) = some (ctxOf (fixPop 0x20000 0 [(0, recOf .nobody)] none)) ∧
      tlbMaps (ctxOf (fixPop 0x20000 0 [(0, recOf .nobody)] none)) (fixPop 0x20000 0 [(0, recOf .nobody)] none) 0x20000 .write 0x20000 ∧
      ((fixPop 0x20000 0 [(0, recOf .nobody)] none).part 0).oldest = some (0, recOf .nobody) ∧
      direct (ctxOf (fixPop 0x20000 0 [(0, recOf .nobody)] none)) (fixPop 0x20000 0 [(0, recOf .nobody)] none) ∧
      ((fixPop 0x20000 0 [(0, recOf .nobody)] none).part 0).tqWait = [] ∧
      (∀ e ∈ ((fixPop 0x20000 0 [(0, recOf .nobody)] none).part 0).tq, e.2.prg → e.2.asked) ∧
      (List.range 64).all (fun k => servesB (fixPop 0x20000 0 [(0, recOf .nobody)] none) 0 (0x20000 + 8 * k) &&
        unwatchedB (fixPop 0x20000 0 [(0, recOf .nobody)] none) (0x20000 + 8 * k) 8) = true) ∧
    ((fixPop 0x20000 0 [] none).part 0).oldest = none := by
  exact ⟨by decide, by decide, ⟨by decide, tlbHolds_of (by decide), by rfl, direct_of (by decide) (by decide), by rfl, by decide, by decide +kernel⟩, by rfl⟩

theorem witness_popsAndReleases_release :
    [(1, true), (1, false), (2, false)].all (fun e : W64 × Bool =>
      let r : Rec := { recOf (.group (.grp 8 0 1)) with prg := e.2, asked := e.2 }
      let s := fixPop 0x700 e.1 [(0, r)] (some { run := .parked 7 })
      issues (.tqpop false 4 8 9) s fun c => (s.part c.q.part).outstanding (srcS 8 c) == some r &&
        (s.grp? (.grp 8 0 1)).any (fun r => r.run == .parked 7) && (.grp 8 0 1 != c.g) && (s.block ⟨8, 0⟩).at?.isSome &&
        (s.grp? (.grp 8 0 1)).all fun r => r.b.slotA.wait == .none && r.b.slotB.wait == .none) = true ∧
    issues (.tqpop false 4 8 9) (fixPop 0x800 1 [(0, recOf .nobody)] none) (fun c =>
      ((fixPop 0x800 1 [(0, recOf .nobody)] none).part c.q.part).outstanding (srcS 8 c) == none) = true := by
  decide

theorem witness_invalidates :
    [(4, 0x10000), (0, 0x8000), (2, 1), (0, 0), (1, 5), (2, 0x10000), (3, 7)].all (fun e : W64 × W64 =>
      issues (.xset false 8 10) (fixR 0x20000 0 e.2 e.1) fun c => srcS 10 c == e.2 && c.b.getS 11 == e.1) = true := by
  decide

theorem witness_takesCheckpoints :
    [(0, 0x20000), (1, 0x28000), (1, 0x20000)].all (fun e : Nat × W64 =>
      let s := withRecord (fixR e.2 5 0 0) (BitVec.ofNat 64 (2 + e.1 * 2 ^ 33)) 0 0 0
      issues (.ckpt false 4 8 9) s fun c => (s.launch c.bid.launch).pre == (e.1 == 1) && srcS 8 c == e.2 &&
        (s.launch c.bid.launch).record.length == 32) = true := by
  decide

/-! ## States that meet the hypotheses: engines and translation events -/

/-- One copy of the fixture's block stands at the head of channel 1, or none. -/
def fixCopy (xs : List Copy) : State := { fix0 with copies := xs }

/-- The last element of this copy is next. -/
def lastElement : Copy := { copyAt 3 1 1 0x20000 64 true with done := 60 }

theorem witness_copiesMove_starts :
    turnOf (fixCopy []) 0 0 1 = none ∧ [(0, false), (64, false), (64, true)].all (fun e : W64 × Bool =>
      turnOf (fixCopy [copyAt 3 1 1 0x20000 e.1 e.2]) 0 0 1 == some (copyAt 3 1 1 0x20000 e.1 e.2)) = true ∧
    turnOf (fixCopy [copyAt 2 1 1 0x20000 64 false, lastElement]) 0 0 1 = some lastElement ∧
    turnOf (fixCopy [copyAt 2 1 1 0x20000 64 false, copyAt 3 1 1 0x20000 64 false]) 0 0 1 = some (copyAt 2 1 1 0x20000 64 false) := by
  decide

/-- The engine's request. -/
def reqOfCopy (s : State) : Req := { s.reqOf (.grp 8 0 0) with die := 0, core := 0 }

/-- The last element of a copy from the scratchpad, and the first of one to it; the write's address is out of reach. -/
theorem witness_copiesMove_elements :
    (turnOf (fixCopy [lastElement]) 0 0 1 = some lastElement ∧ lastElement.held = none ∧ lastElement.active = true ∧
      lastElement.val = none ∧ ((fixCopy [lastElement]).launch lastElement.bid.launch).grade = 0 ∧
      ((fixCopy [lastElement]).block lastElement.bid).shadows = [] ∧
      tlbHolds (reqOfCopy (fixCopy [lastElement])) (fixCopy [lastElement]) 0x2003C .write 0x2003C ∧
      (fixCopy [lastElement]).Serves 0 0x2003C ∧ (fixCopy [lastElement]).Unwatched 0x2003C 4) ∧
    tlbHolds (reqOfCopy (fixCopy [{ copyAt 3 1 0 0 64 true with src := 0x20000 }]))
      (fixCopy [{ copyAt 3 1 0 0 64 true with src := 0x20000 }]) 0x20000 .read 0x20000 ∧
    ({ fixCopy [lastElement] with ready := 0 } : State).reach 0 0x2003C = false := by
  refine ⟨?_, tlbHolds_of (by decide), by decide⟩
  iterate 6 (refine And.intro (by decide) ?_)
  exact ⟨tlbHolds_of (by decide), serves_of (by decide), unwatched_of (by rfl)⟩

/-- A copy of kind k whose first element is next, between the scratchpad or page 0x20000 and page 0x20000. -/
def midCopy (k : Nat) : Copy := { copyAt 3 1 k (if k = 0 then 0 else 0x20000) 64 true with src := if k % 3 = 0 then 0x20000 else 0 }

/-- The fixture performs such a copy; the core's TLB maps page 0x20000 to the frame given, with the permissions given, or does
not hold it. -/
def fixMove (k frame : Nat) (held rd w : Bool) : State :=
  let s := fixCopy [midCopy k]
  { s with
    parts := s.parts.map fun e => (e.1, { e.2 with dies := [0, 1] })
    cores := s.cores.map fun e => (e.1, { e.2 with tlb := if held then e.2.tlb.map fun t =>
      if t.tr.vbase = 0x20000 then { t with tr := { t.tr with frame := frame, p1 := { t.tr.p1 with rd := rd, w := w } } } else t else [] }) }

/-- Additions at the core's own die and at another, a copy between two pages, and none that a held record or a read element stops. -/
theorem witness_copiesMove_kinds :
    [0, 1, 2, 3].all (fun k => [true, false].all fun held => let s := fixMove k 0x20000 held true true
      turnOf s 0 0 1 == some (midCopy k) && (midCopy k).held.isNone && (midCopy k).val.isNone && (midCopy k).active &&
        s.copies.all (fun y => y == midCopy k) && (s.launch 8).grade == 0 && (s.block ⟨8, 0⟩).shadows == []) = true ∧
    [(2, 0x20000, 0), (2, 2 ^ 38 + 0x20000, 1), (3, 0x20000, 0)].all (fun e : Nat × Nat × Nat =>
      let s := fixMove e.1 e.2.1 true true true
      turnOf s 0 0 1 == some (midCopy e.1) && servesB s 0 e.2.1 && unwatchedB s e.2.1 4 && s.homeDie 0 e.2.1 == e.2.2 &&
        s.updates == []) = true ∧
    (tlbHolds (reqOfCopy (fixMove 3 0x20000 true true true)) (fixMove 3 0x20000 true true true) 0x20000 .read 0x20000 ∧
      tlbHolds (reqOfCopy (fixMove 3 0x20000 true true true)) (fixMove 3 0x20000 true true true) 0x20000 .write 0x20000) ∧
    tlbHolds (reqOfCopy (fixMove 2 0x20000 true true true)) (fixMove 2 0x20000 true true true) 0x20000 .rmw 0x20000 ∧
    tlbHolds (reqOfCopy (fixMove 2 (2 ^ 38 + 0x20000) true true true)) (fixMove 2 (2 ^ 38 + 0x20000) true true true) 0x20000 .rmw
      (2 ^ 38 + 0x20000) := by
  exact ⟨by decide, by decide, ⟨tlbHolds_of (by decide), tlbHolds_of (by decide)⟩, tlbHolds_of (by decide), tlbHolds_of (by decide)⟩

/-- The same with an empty TLB: stage 2 maps the first 64 MiB, and stage 1's root table, at 0, has no entry. -/
def fixAbsent (k : Nat) : State :=
  { fixMove k 0x20000 false true true with
    parts := [(0, { dies := [0, 1], nextLaunch := 2, tqbuf := 0x20000, s2root := 0x40000 })]
    mem := [(0x40000, 1), (0x40002, 5), (0x50000, 0xF)] }

theorem tlbRefuses_of {q : Req} {s : State} {va : Nat} {kind : Kind} (h : (canonical va &&
    ((s.core q.die q.core).tlb.find? (fun e => e.hits q (va57 va))).any fun e => !e.tr.p1.allows kind) = true) :
    tlbRefuses q s va kind := by
  simp only [Bool.and_eq_true] at h
  obtain ⟨e, he, hn⟩ := Option.any_eq_true .. |>.mp h.2
  exact ⟨h.1, e, he, by simpa using hn⟩

theorem witness_copiesMove_refused :
    (tlbRefuses (reqOfCopy (fixMove 0 0x20000 true false true)) (fixMove 0 0x20000 true false true) 0x20000 .read ∧
      tlbRefuses (reqOfCopy (fixMove 3 0x20000 true false true)) (fixMove 3 0x20000 true false true) 0x20000 .read ∧
      tlbRefuses (reqOfCopy (fixMove 1 0x20000 true true false)) (fixMove 1 0x20000 true true false) 0x20000 .write ∧
      tlbRefuses (reqOfCopy (fixMove 2 0x20000 true true false)) (fixMove 2 0x20000 true true false) 0x20000 .rmw) ∧
    [(0, Kind.read), (1, .write), (2, .rmw), (3, .read)].all (fun e : Nat × Kind =>
      let s := fixAbsent e.1
      let l := s.launch 8
      let took := { s.modBlock ⟨8, 0⟩ fun b => b.modCh 1 fun k => { k with rdone := k.rdone + 4 } with
        copies := s.copies.map fun y => { y with val := some (BitVec.ofNat 64 (s.scLoad ⟨8, 0⟩ 0 4)) } }
      turnOf s 0 0 1 == some (midCopy e.1) && (s.part l.part).tqWait == [] && decide ((s.part l.part).tq.length < 254) &&
        [s, took].all fun u => match u.translateTlb (reqOfCopy s) 0x20000 e.2 with
          | .fault f => f.cls == .xlate && f.s2.isNone && f.page == some (e.2, false)
          | _ => false) = true := by
  exact ⟨⟨tlbRefuses_of (by decide), tlbRefuses_of (by decide), tlbRefuses_of (by decide), tlbRefuses_of (by decide)⟩, by decide +kernel⟩

/-- A matrix entry of the fixture's group, executing or not, on tiles d and a. -/
def entryOf (seq : Nat) (op : MOp) (d a : Nat) (started : Bool) : MEntry :=
  { seq := seq, g := gA, pc := 0, batch := 1, word := 0, op := op, d := d, a := a, started := started }

/-- The queue holds ms; the tiles' settings are as given. -/
def fixEngine (ms : List MEntry) (ts : SMap TSet) : State :=
  { fix0 with matq := ms, blocks := [(⟨8, 0⟩, { place := .core 0 0, tset := ts })] }

theorem witness_enginesComplete_starts :
    quadrantQueue (fixEngine [] []) 0 0 0 = [] ∧
    (quadrantQueue (fixEngine [entryOf 1 .tzero 2 2 true] []) 0 0 0).any (fun m => m.started && m.held.isNone) = true ∧
    (quadrantQueue (fixEngine [entryOf 1 .tzero 2 2 false] []) 0 0 0).head? = some (entryOf 1 .tzero 2 2 false) ∧
    ((quadrantQueue (fixEngine [entryOf 1 .tcopy 2 3 false] []) 0 0 0).head? = some (entryOf 1 .tcopy 2 3 false) ∧
      (fixEngine [entryOf 0 .tzero 2 2 true, entryOf 1 .tcopy 2 3 false] []).matq.any (fun x => decide (x.seq < 1) &&
        ((fixEngine [entryOf 0 .tzero 2 2 true, entryOf 1 .tcopy 2 3 false] []).tilesOf x).contains 2 && !x.kv) = true) := by
  decide

/-- The engine executes m, in a state with the tile settings given. -/
def executesB (m : MEntry) (ts : SMap TSet) : Bool :=
  (quadrantQueue (fixEngine [m] ts) 0 0 0).find? (fun m => m.started && m.held.isNone) == some m && m.pins == [] &&
    ((fixEngine [m] ts).block? (bidOf m.g)).isSome

theorem witness_enginesComplete :
    [MOp.tzero, .tcopy, .had 6, .had 0, .tdr 3].all (fun op => executesB (entryOf 1 op 4 2 true) []) = true ∧
    (executesB (entryOf 1 (.tdr 0) 4 2 true) [(2, { split := true })] &&
      (((fixEngine [entryOf 1 (.tdr 0) 4 2 true] [(2, { split := true })]).block ⟨8, 0⟩).getTs 2).split &&
      finiteBits 0 && finiteBits 0x7F7FFFFF) = true ∧
    [MOp.qnt 0x3F800000, .qnt 1, .qnt 3].all (fun op => executesB (entryOf 1 op 4 2 true) []) = true ∧
    [(1, 0), (2, 0), (2, 0x3F000000), (2, 0xBF800000)].all (fun e : Nat × W32 =>
      let m := entryOf 1 (.tdr e.1) 4 2 true
      let s := fixEngine [m] [(2, { split := true, thr := e.2 })]
      executesB m [(2, { split := true, thr := e.2 })] && ((s.block ⟨8, 0⟩).getTs 2).split && finiteBits ((s.block ⟨8, 0⟩).getTs 2).thr &&
        !((s.block ⟨8, 0⟩).getTs 4).tdctl.getLsbD 2) = true := by
  decide

/-- A loop of format classes fa and fb whose count is one more than its progress. -/
def loopOf (desc : W64) : MEntry :=
  { entryOf 1 (.mloop desc [0, 0, 0, 0, 1, 0, 0, 0xFFFFFFFFFFFFFFFF] 0) 4 4 true with
    stripA := List.replicate 2048 0x38, stripB := List.replicate 2048 0x38 }

/-- A loop whose operand B is a strip of alphabet al. -/
def loopAl (desc al : W64) : MEntry := { loopOf desc with op := .mloop desc [0, 0, 0, 0, 1, 0, 0, 0xFFFFFFFFFFFFFFFF] al }

theorem witness_stepsAccumulate :
    [0x0888, 0x0099, 0x0022, 0x2033, 0x20022, 0x0000, 0x0010, 0x0011, 0x0041, 0x2054, 0x0066, 0x2077].all (fun desc =>
      executesB (loopOf desc) [] && ((fixEngine [loopOf desc] []).quad 0 0 0).res == .sound) = true ∧
    [0x00A8, 0x00A9, 0x00A0, 0x20A4].all (fun desc => executesB (loopAl desc ternary) []) = true ∧
    alphabetOk ternary ∧ (∀ i < 64 * ((32 + alGroup ternary - 1) / alGroup ternary),
      badCode ternary (stripCode ternary (loopAl 0xA8 ternary).stripB i) → alSubst ternary) := by
  refine ⟨by decide +kernel, by decide +kernel, ?_, ?_⟩
  · unfold alphabetOk
    decide
  · decide +kernel

/-- The slot waits for an ATS answer of page 2, and an answer is there or none. -/
def fixAts (w : Wait) (ats : List Ats) : State :=
  { fix0.modSlot gA .a (fun x => { x with wait := w }) with ats := ats }

theorem witness_walksEnd_ats :
    (let s : State := { fixAts (.ats 2) [] with atsOut := [((fix0.reqOf gA).part, (fix0.reqOf gA).pasid, 2)] }
     ((s.grp gA).b.slot .a).wait == .ats 2 && s.atsOut.contains ((s.reqOf gA).part, (s.reqOf gA).pasid, 2)) = true ∧
    (fixAts (.ats 2) []).atsOut = [] ∧ fix0.power = true ∧
    ((((fixAts (.ats 2) []).grp gA).b.slot .a).wait = .ats 2) ∧ ((((fixAts (.fetch 2) []).grp gA).b.slot .a).wait = .fetch 2) ∧ ((((fixAts .none []).grp gA).b.slot .a).wait = .none) ∧
    (let s := fixAts (.ats 2) [{
        part := 0, pasid := (fix0.reqOf gA).pasid, va := 0x20000, present := true, rd := true, w := true, hpa := 0, size := .k64 }]
     s.ats.any fun a => a.part == (s.reqOf gA).part && a.pasid == (s.reqOf gA).pasid &&
       pageBase (65536 * 2) a.size == pageBase a.va a.size) = true := by
  decide

/-- Run-ahead is over, or not, or there is none. -/
def fixAhead (a : Option Ahead) : State := fix0.modGrp gA fun r => { r with ahead := a }

/-- A finished run-ahead that found one page. -/
def aheadOf (ended : Option Nat) : Ahead :=
  { saved := bank0 [] [], sl := .a, pages := [{ first := true, kind := .read, host := false, page := 2 }], ended := ended }

theorem witness_walksEnd_ahead :
    [none, some (aheadOf none), some (aheadOf (some 3))].all (fun a => ((fixAhead a).grp? gA).any (fun r => r.ahead == a) &&
      (a.all fun x => x.s2 == []) && ((fixAhead a).part ((fixAhead a).reqOf gA).part).tqWait == [] &&
      decide (((fixAhead a).part ((fixAhead a).reqOf gA).part).tq.length < 254)) = true := by
  decide

/-- Record 7 stands in the trap queue, or with the Chandler, and parks the group. -/
def fixRecord (r : Rec) (chandler : Bool) : State :=
  ((fix0.modGrp gA fun x => { x with run := .parked 7 }).modPart 0 fun p =>
    if chandler then { p with chandler := [r] } else { p with tq := [(0, r)] })

theorem witness_walksEnd_prg :
    (fix0.part 0).findRec 7 = none ∧
    [false, true].all (fun prg => ((fixRecord { recOf (.group gA) with prg := prg } false).part 0).findRec 7 ==
      some { recOf (.group gA) with prg := prg }) = true ∧
    (let r := { recOf (.group gA) with prg := true, asked := true }
     let s := fixRecord r false
     (s.part 0).tq.find? (fun e => e.2.rid == 7) == some (0, r) && (s.part 0).chandler == [] && r.cls == .xlate && r.s2 == [] &&
       (s.grp? gA).any fun y => y.run == .parked 7) = true ∧
    (let r := { recOf (.group gA) with prg := true, asked := true }
     let s := fixRecord r true
     ((s.part 0).tq.find? fun e => e.2.rid == 7).isNone && (s.part 0).tqWait == [] &&
       (s.part 0).chandler.find? (fun e => e.rid == 7) == some r && (s.grp? gA).any fun y => y.run == .parked 7) = true := by
  decide

/-- The parked group's slots wait for nothing. -/
theorem witness_permAt : (fixRecord (recOf (.group gA)) false).grp? gA |>.all fun x =>
    x.b.slotA.wait == .none && x.b.slotB.wait == .none := by
  decide


/-- Invalidation 5 is in progress for the asker given. -/
def fixInval (a : Asker) (w : Wait) : State :=
  (fix0.modSlot gA .a fun x => { x with wait := w }).modPart 0 fun p => { p with invs := [{ id := 5, ext := .all, asker := a }] }

theorem witness_invalidationsEnd :
    (fix0.part 0).invs.find? (fun x => x.id == 5) = none ∧
    [Asker.iommu, .host, .group gA .a, .chandler].all (fun a =>
      ((fixInval a (.inval 5)).part 0).invs.find? (fun x => x.id == 5) == some { id := 5, ext := .all, asker := a } &&
        (((fixInval a (.inval 5)).grp gA).b.slot .a).wait == .inval 5 && (fixInval a (.inval 5)).remote == []) = true ∧
    ((withRemote (fixInval .host .none)).remote.any fun r => ((withRemote (fixInval .host .none)).reqOf r.g).part == 0) = true := by
  decide

/-- n invalidations that the host's translation agent asked for are in progress. -/
def fixAsked (n : Nat) : State :=
  fix0.modPart 0 fun p => { p with invs := (List.range n).map fun k => { id := k, ext := .all, asker := .iommu } }

/-- A load of the group's slot B is held at a replica, or slot A is to execute its WAITC again while its monitor stays. -/
def fixLanding (load : Bool) : State :=
  let s := fixInval .host .none
  if load then s.modSlot gA .b fun x =>
    { x with lanes := 0xF00, wait := .load { vec := true, d := 4, wb := 0, n := 4, h := 0, lanes := [(8, 0x20000, false)] } }
  else { s with monitors := [{ pa := 0x20008, c := .eq, v := 0, g := gA, sl := .a }] }

/-- The block has staged a store under the translation of page 0x20000. -/
def fixStagedBy : State :=
  (fixInval .host .none).modBlock ⟨8, 0⟩ fun k =>
    { k with staged := [.store 0x20000 4 0 false], stagedBy := (fix0.core 0 0).tlb.filter fun e => e.tr.vbase == 0x20000 }

theorem witness_invalidationsEnd_pending :
    [31, 32].all (fun n => (fixAsked n).parts.length == 1 &&
      ((fixAsked n).part 0).invs.length == n && ((fixAsked n).part 0).invs.all (fun x => x.asker == .iommu)) = true ∧
    (fixStagedBy.blocks.any fun b => (fixStagedBy.launch b.1.launch).part == 0 && !b.2.staged.isEmpty &&
      b.2.stagedBy.any fun e => Extent.all.covers e.tag e.tr) = true ∧
    ((fixLanding true).groups.any fun e => (fixLanding true).groupPart e.1 == 0 && e.2.b.loads) = true ∧
    ((fixLanding false).monitors.any fun m => (fixLanding false).groupPart m.g == 0 && (fixLanding false).repolling m) = true ∧
    ((fixInval .host .none).remote == [] && (fixInval .host .none).monitors == [] && (fixInval .host .none).groups.all (fun e => !e.2.b.loads) &&
      (fixInval .host .none).blocks.all fun b => b.2.staged == []) = true ∧
    (((fixInval (.group gA .a) (.inval 5)).modBlock ⟨8, 0⟩ fun k =>
      { k with shadows := [{ shadowOf 1 0x20000 with closing := some 5 }] }).block ⟨8, 0⟩).shadows.filter
        (fun h => h.closing != some 5) = [] := by
  decide

theorem witness_invalidationsEnd_records :
    [{ recOf (.group gA) with s2 := [{ kind := .read, walk := false, level := 0, va := 0x20000, ctx := 0, ipa := 0x20000 }] },
      { recOf (.group gA) with cls := .kv }].all (fun r =>
        ((fixRecord r true).part 0).chandler.find? (fun x => x.rid == 7) == some r && ((fixRecord r true).part 0).tqWait == [] &&
          ((fixRecord r true).grp? gA).any fun x => x.run == .parked 7) = true ∧
    (fix0.part 0).chandler.find? (fun r => r.rid == 7) = none := by
  decide

/-- Core 0's frame cache, and the times of its refills, over a pool of four frames whose second is not free. -/
def fixFrames (frames : List Nat) (refill : Bool) (retry deferred : Option Nat) (n : Nat) : State :=
  let s := fix0.modPart 0 fun p => { p with
    poolBase := 0x100000, poolSize := 0x40000, frameTable := 0xB0000
    mbox0 := List.replicate n { v := 0, die := 0, core := 0, launch := 0 } }
  let s := s.modCore 0 0 fun k => { k with frames := frames, refill := refill, retryAt := retry, deferAt := deferred }
  { s with mem := [(0xB000B, 0x40)], cycle := 100 }

/-- Whether a grant is good (R115, R116). -/
def grantB (s : State) (fs : List Nat) : Bool :=
  let p := s.part (s.partOfDie 0)
  fs.all (fun f => decide (p.poolBase ≤ f ∧ f < p.poolBase + p.poolSize ∧ f % 2 ^ 16 = 0) &&
    loadN s.mem (p.frameTable + 8 * ((f - p.poolBase) / 2 ^ 16)) 8 / 2 ^ 30 % 4 == 0) && decide fs.Nodup &&
    decide ((s.core 0 0).frames.length + fs.length ≤ 16)

theorem witness_framesGranted :
    grantB (fixFrames (List.replicate 14 0) true none none 0) [0x100000, 0x120000] = true ∧
    [0x100000, 0x120000].all (fun f => let s := fixFrames (List.replicate 14 0) true none none 0
      servesB s 0 (0xB0000 + 8 * ((f - 0x100000) / 65536)) && (List.range 256).all fun j => servesB s 0 (f + 256 * j)) = true ∧
    grantB (fixFrames [] true none none 0) [] = true ∧
    [[0x110000], [0x100000, 0x100000], [0x140000], [0x100001], [0xF0000]].all (fun fs => !grantB (fixFrames [] true none none 0) fs) = true ∧
    grantB (fixFrames (List.replicate 15 0) true none none 0) [0x100000, 0x120000] = false ∧
    [(some 100, none, 63), (some 101, none, 64), (none, some 100, 64), (none, some 101, 0)].all
      (fun e : Option Nat × Option Nat × Nat => let s := fixFrames [] false e.1 e.2.1 e.2.2
        (s.core 0 0).retryAt == e.1 && (s.core 0 0).deferAt == e.2.1 && (s.part 0).mbox0.length == e.2.2 && s.cycle == 100) = true := by
  decide +kernel

/-- LPDDR of die 0 at the sector 0; the die's Cooper as given. -/
def fixCoop (x : Sector) (blocked : List Nat) (fills writes : List CoopWrite) : State :=
  fix0.modDie 0 fun d => { d with cooper := [(0, x)], blocked := blocked, coopFills := fills, coopWrites := writes }

/-- Where the LPDDR address a stands in the Cooper. -/
def posOf (a : Nat) : CoopPos := fix0.coopPos 0 a

theorem witness_cooperServes_fills :
    region (2 ^ 42) = .lpddr 0 0 ∧ (posOf (2 ^ 42)).die = 0 ∧ (posOf (2 ^ 42)).slot = 0 ∧ (posOf (2 ^ 42)).tag = 0 ∧
    fix0.ownerOf (2 ^ 42) = 0 ∧ (fixCoop {} [] [] []).reach 0 (2 ^ 42) = true ∧
    ({ fixCoop {} [] [] [] with ready := 0 } : State).reach 0 (2 ^ 42) = false ∧
    ((fixCoop {} [0] [] []).die 0).blocked = [0] ∧ ((fixCoop {} [] [⟨0, 0⟩] []).die 0).coopFills = [⟨0, 0⟩] ∧
    [{ v := true, tag := 0 : Sector }, { v := true, d := true, tag := 1 }, { v := true, tag := 1 }, {}].all (fun x =>
      (fixCoop x [] [] []).sector 0 0 == x) = true ∧
    (fixCoop {} [] [] []).dies.all (fun e => e.2.coopDamage == [] && e.2.coopReqs == [] && e.2.lost == []) = true ∧
    2 ^ 42 / 64 % 32 = 0 ∧ (2 ^ 42 + 64) / 64 % 32 = 1 ∧ (posOf (2 ^ 42 + 64)).slot = 0 := by
  decide

theorem witness_cooperServes_others :
    (((fixCoop {} [] [⟨0, 5⟩] [⟨0, 5⟩]).die 0).coopFills.find? (fun f => f.slot == 0)) = some ⟨0, 5⟩ ∧
    (((fixCoop {} [] [] []).die 0).coopFills.find? (fun f => f.slot == 0)) = none ∧ 0 ∈ ((fixCoop {} [0] [] []).die 0).blocked ∧
    ({ fix0 with ready := 1 } : State).ready.getLsbD 0 = true ∧ ({ fix0 with ready := 1 } : State).ready.getLsbD 34 = false ∧
    fix0.ready.getLsbD 34 = true ∧ State.reset.ready.getLsbD 0 = false ∧
    ((fix0.modDie 0 fun d => { d with l2 := [{ line := 2 ^ 42 / 256, dirty := 1 }] }).die 0).l2Find (2 ^ 42 / 256) =
      some { line := 2 ^ 42 / 256, dirty := 1 } := by
  decide

/-- A fill of that line that slice 5 asked for. -/
def fillOf (hint : Nat) : L2Fill := { line := 0x200, hint := hint, taker := .slice 5, pa := 0x20040 }

/-- The line of 0x20000 is in the home slice, being filled, withheld, or none of these. -/
def fixLine (l2 : List L2Line) (fills : List L2Fill) (withheld : List Nat) : State :=
  { fix0.modDie 0 (fun d => { d with l2 := l2, l2Fills := fills }) with withheld := withheld }

theorem witness_linesMove_fills :
    isRemote (2 ^ 50) = true ∧ isRemote 0x20000 = false ∧ region 0x20000 = .hbm 0 0x20000 ∧ fix0.homeDie 0 0x20000 = 0 ∧
    [fixLine [] [] [], fixLine [{ line := 0x200 }] [] [], fixLine [] [fillOf 0] [], fixLine [] [fillOf 3] [],
      fixLine [] [] [0x200]].all (fun s => s.reach 0 0x20000) = true ∧
    ((fixLine [{ line := 0x200 }] [] []).die 0).l2Find 0x200 = some { line := 0x200 } ∧
    ((fixLine [] [fillOf 3] []).die 0).l2Fills.filter (fun f => f.line == 0x200) = [fillOf 3] ∧
    (fixLine [] [fillOf 3] []).updates = [] ∧ quietB (fixLine [] [fillOf 3] []) = true ∧ (fillOf 3).pa / 256 = 0x20000 / 256 ∧
    ({ fix0 with ready := 0 } : State).reach 0 0x20000 = false := by
  decide

theorem witness_linesMove_others :
    ((fix0.modCore 0 0 fun k => { k with l1 := [{ line := 0x800, mask := 5 }] }).core 0 0).l1Find 0x800 =
      some { line := 0x800, mask := 5 } ∧ (fix0.core 0 0).l1Find 0x800 = none ∧
    ((fixLine [] [] [0x200, 0x201, 0x300]).withheld.filter fun l => decide (256 * l < 0x20000 + 512) && decide (0x20000 < 256 * l + 256)) =
      [0x200, 0x201] ∧
    quietB (fix0.modCore 0 0 fun k => { k with l1 := [{ line := 0x800, mask := 5 }] }) = true ∧
    (∀ n off, region (256 * 0x200) ≠ .lpddr n off) ∧
    ([0x200].mergeSort fun a b => decide (a ≤ b)).Nodup := by
  refine ⟨by decide, by decide, by decide, by decide, fun n off => ?_, by simp⟩
  have : region (256 * 0x200) = .hbm 0 0x20000 := by decide
  simp [this]

/-- Burst 0x800 of die 0, that of 0x20000, is damaged beyond correction. -/
def fixDamage : State := fix0.modDie 0 fun d => { d with damage := [(0x800, 3)] }

theorem witness_linesMove_spare :
    region 0x20000 = .hbm 0 0x20000 ∧ region (0 * 2 ^ 38 + 64 * 0x800) = .hbm 0 (64 * 0x800) ∧ (fixDamage.die 0).damage = [(0x800, 3)] ∧
      0x20000 ≤ 64 * 0x800 ∧ 64 * 0x800 + 64 ≤ 0x20000 + 1024 ∧ (0 * 2 ^ 38 + 64 * 0x800) / 256 ∉ fixDamage.withheld ∧
      quietB (fixLine [] [] [0x200]) = true := by
  decide

/-- A partition of dies 0 and 1 with replicated stores in progress. -/
def fixRepl (rs : List RStore) : State := fix0.modPart 0 fun p => { p with dies := [0, 1], repl := rs }

/-- A store of the word 7 at offset 0x30000, acknowledged by the dies given. -/
def rstoreOf (rid : Nat) (acks : List Nat) : RStore := { rid := rid, off := 0x30000, n := 4, v := 7, acks := acks }

theorem witness_outsideReaches_replicas :
    ((fixRepl []).part 0).dies.all (fun d => (fixRepl []).reach 0 (d * 2 ^ 38 + 0x30000)) = true ∧
    ({ fixRepl [] with ready := 0 } : State).reach 0 0x30000 = false ∧
    ((fixRepl []).part 0).repl.find? (fun x => x.rid == 4) = none ∧
    ((fixRepl [rstoreOf 4 []]).part 0).repl = [] ++ rstoreOf 4 [] :: [] ∧
    ((fixRepl [rstoreOf 3 [0], rstoreOf 4 []]).part 0).repl = [rstoreOf 3 [0]] ++ rstoreOf 4 [] :: [] ∧
    ((fixRepl [rstoreOf 4 [1]]).part 0).dies.all (fun d => d == 0 || (rstoreOf 4 [1]).acks.contains d) = true ∧
    (quietB (fixRepl [rstoreOf 4 [1]]) && ((fixRepl [rstoreOf 4 [1]]).part 0).dies.all fun d =>
      (fixRepl [rstoreOf 4 [1]]).reach 0 (d * 2 ^ 38 + 0x30000)) = true ∧ (fixRepl [rstoreOf 4 [1]]).withheld = [] ∧
    (fixRepl [rstoreOf 4 [1]]).updates = [] ∧ decide (((fixRepl []).part 0).dies.Nodup) = true ∧ (rstoreOf 4 []).off + (rstoreOf 4 []).n ≤ 2 ^ 38 := by
  decide +kernel

/-- A WAITC polls an element of the host's flag window. -/
def fixFlag (v : W64) : State :=
  (fix0.modSlot gA .a fun x => { x with wait := .cond (2 ^ 50) .eq v 4 none 0 false true }).modPart 0 fun p =>
    { p with flagBase := 0, flagLen := 2 ^ 16 }

theorem witness_outsideReaches :
    fix0.Serves (fix0.ownerOf 0x2FFF8) 0x2FFF8 ∧ fix0.Unwatched 0x2FFF8 8 ∧ fix0.replicated (fix0.ownerOf 0x2FFF8) 0x2FFF8 = false ∧
    0x2FFF8 % 8 = 0 ∧ isRemote (2 ^ 50) = true ∧ fix0.ready.getLsbD 1 = true ∧ State.reset.ready.getLsbD 1 = false ∧
    fix0.inFlagWindow 0 (2 ^ 50) = false ∧ (fixFlag 5).inFlagWindow 0 (2 ^ 50) = true ∧
    (((fixFlag 5).grp gA).b.slot .a).wait = .cond (2 ^ 50) .eq 5 4 none 0 false true ∧ ((fixFlag 5).reqOf gA).part = 0 ∧
    decide (((fixFlag 5).groups.map (·.1)).Nodup) = true ∧ ((fixFlag 5).grp? gA).isSome = true ∧
    region (2 ^ 41 + 0x408) = .regs 0x408 ∧ 0x2FF00 % 256 + 256 ≤ 256 ∧ servesB fix0 (fix0.ownerOf 0x2FF00) 0x2FF00 = true ∧ 0x2FFF8 % 64 + 8 ≤ 64 ∧ region 0x2FFF8 = .hbm 0 0x2FFF8 ∧
    region (2 ^ 42) = .lpddr 0 0 ∧ (0x8000 : BitVec 16).toNat = 2 ^ 15 ∧ (List.replicate 64 (0 : Byte)).length = 64 := by
  refine ⟨serves_of (by decide), unwatched_of (by rfl), ?_⟩
  iterate 18 (refine And.intro (by decide) ?_)
  decide

/-! ## States that meet the hypotheses: waits, runs, handlers -/

/-- The slot waits in WAITC for the doubleword at 0x20000, which holds 5, to be v. -/
def fixCond (v : W64) (deadline : Option Nat) (next : Nat) (armed remote : Bool) (wakes : List Wake) (mons : List Mon) : State :=
  let s := fix true [] [] [(0x20000, 5)]
  { s.modSlot gA .a (fun x => { x with wait := .cond (if remote then 2 ^ 50 else 0x20000) .eq v 4 deadline next armed remote }) with
    wakes := wakes, monitors := mons, cycle := 100 }

/-- A wake of the slot. -/
def wakeOf : Wake := { g := gA, sl := .a, v := 5 }

/-- The wait of the fixture's slot A. -/
def waitOf (s : State) : Wait := ((s.grp gA).b.slot .a).wait

theorem witness_waitsEnd_wakes :
    fix0.wakes.find? (fun w => w.g == gA && w.sl == .a) = none ∧
    (fixCond 5 none 0 true false [wakeOf] []).wakes.find? (fun w => w.g == gA && w.sl == .a) = some wakeOf ∧
    ({ fix0 with wakes := [wakeOf] } : State).wakes.find? (fun w => w.g == gA && w.sl == .a) = some wakeOf ∧
    waitOf (fixCond 5 none 0 true false [wakeOf] []) = .cond 0x20000 .eq 5 4 none 0 true false ∧ waitOf fix0 = .none ∧
    ((fix0.grp gA).b.slot .a).pend = [] ∧
    (let s := ({ fix0 with wakes := [wakeOf] } : State).modSlot gA .a fun x => { x with pend := [.s 4, .s 5] }
     waitOf s = .none ∧ ((s.grp gA).b.slot .a).pend ≠ [] ∧ s.wakes.find? (fun w => w.g == gA && w.sl == .a) = some wakeOf) := by
  decide

theorem witness_waitsEnd_polls :
    (∀ n ∈ [100, 101], waitOf (fixCond 5 none n false false [] []) = .cond 0x20000 .eq 5 4 none n false false) ∧
    (fixCond 5 none 100 false false [] []).Serves 0 0x20000 ∧
    meets .eq (BitVec.ofNat 64 (loadN (fixCond 5 none 100 false false [] []).mem 0x20000 8)) 5 ∧
    ¬ meets .eq (BitVec.ofNat 64 (loadN (fixCond 6 none 100 false false [] (monsOf 64)).mem 0x20000 8)) 6 ∧
    (fixCond 6 none 100 false false [] (monsOf 64)).Serves 0 0x20000 ∧ (monsOf 64).length = 64 ∧
    waitOf (fixCond 5 none 100 false true [] []) = .cond (2 ^ 50) .eq 5 4 none 100 false true ∧ isRemote (2 ^ 50) = true ∧
    (fixCond 5 none 100 false true [] []).reach 0 (2 ^ 50) = true := by
  refine ⟨by decide, serves_of (by decide), ?_, ?_, serves_of (by decide), by decide, by decide, by decide, by decide⟩ <;>
    unfold meets <;> decide

theorem witness_waitsEnd_timeouts :
    (∀ n ∈ [100, 101], waitOf (fixCond 6 (some n) 0 true false [] []) = .cond 0x20000 .eq 6 4 (some n) 0 true false) ∧
    (fixCond 6 (some 100) 0 true false [] []).Serves 0 0x20000 ∧
    (fixCond 6 (some 100) 0 true false [wakeOf] []).wakes.find? (fun w => w.g == gA && w.sl == .a) = some wakeOf ∧
    waitOf (fixCond 6 (some 100) 0 false true [] []) = .cond (2 ^ 50) .eq 6 4 (some 100) 0 false true := by
  exact ⟨by decide, serves_of (by decide), by decide, by decide⟩

/-- The group's stack holds n entries in the cache and m in memory, at 0x20000. -/
def fixStack (n m : Nat) (w : Wait) : State :=
  fix0.modGrp gA fun r => { r with b := { r.b with
    stk := List.replicate n returnE, spilled := m, stkbase := 0x20000, slotA := { r.b.slotA with wait := w } } }

/-- The group may move its stack, and n entries from entry k on translate and are served. -/
def stackB (s : State) (kind : Kind) (k n : Nat) : Bool :=
  (s.grp gA).ahead.isNone && (s.grp gA).stkFault.isNone && (s.grp gA).run == .running && (s.block ⟨8, 0⟩).at?.isSome &&
    ((s.core 0 0).tlb.find? (fun e => e.hits (s.reqOf gA) 0x20000)).any (fun e =>
      e.tr.p1.allows kind && e.tr.p2.allows kind && !e.tr.repl && e.tr.frame == 0x20000 && e.tr.vbase == 0x20000) &&
    (List.range n).all fun j => (s.core 0 0).tlb.any (fun e => e.hits (s.reqOf gA) (0x20000 + 16 * (k + j))) &&
      servesB s 0 (0x20000 + 16 * (k + j)) && servesB s 0 (0x20000 + 16 * (k + j) + 8) && s.monitors == []

theorem witness_stackMoves :
    stackB (fixStack 97 3 .none) .write 3 33 = true ∧ ((fixStack 97 3 .none).grp gA).b.stk.length = 97 ∧
    stackB (fixStack 65 0 .spill) .write 0 1 = true ∧ ((fixStack 65 0 .spill).grp gA).b.slotA.wait = .spill ∧
    stackB (fixStack 15 40 .none) .read 7 33 = true ∧ ((fixStack 15 40 .none).grp gA).b.spilled = 40 ∧
    stackB (fixStack 16 1 (.fill 1)) .read 0 1 = true ∧ ((fixStack 96 0 .none).grp gA).b.stk.length = 96 ∧
    ((fixStack 16 1 .none).grp gA).b.stk.length = 16 := by
  decide +kernel

theorem witness_accessesAreLost :
    fix0.grp? (.grp 8 0 5) = none ∧
    ((fix0.grp? gA).isSome ∧ (fix0.grp gA).run ≠ .exited ∧ (fix0.launch? 8).any (fun l => l.ended.isNone && l.grade != 2) = true) ∧
    fix0.remote.find? (fun r => r.g == gA && r.dest != 0) = none ∧
    ({ fix0 with remote := [{ g := gA, dest := 2, pa := 2 ^ 51, n := 8, v := 1, red := some .add }] } : State).remote.find?
      (fun r => r.g == gA && r.dest != 0) = some { g := gA, dest := 2, pa := 2 ^ 51, n := 8, v := 1, red := some .add } ∧
    (withRemote fix0).remote.any (fun r => r.dest == 0 && ((withRemote fix0).reqOf r.g).part == 0 && r.g == gA) = true ∧
    (fix0.issuing.any fun c => c.grp.ahead.isNone) = true ∧ State.reset.issuing = none ∧
    ((fixAhead (some (aheadOf none))).issuing.any fun c => c.grp.ahead == some (aheadOf none)) = true := by
  decide

/-- Quadrant 0 is free; its groups 0 and 1 have the wait counts given, and the token stands as given. -/
def fixRuns (a b : Nat) (prio : Option GId) (cur : Option (GId × SlotId × Nat)) (active : Bool)
    (held : Option (GId × SlotId × Nat) := none) : State :=
  let s := withMate fix0 { rslot := 1, b := { slotA := { pc := 0x10000, lanes := 3, waited := b } } }
  let s := s.modSlot gA .a fun x => { x with waited := a }
  let s := { s with groups := s.groups ++ [(GId.hdl 0 0 0, ({ b := bank0 [] [], valloc := 64, priv := true } : Grp))] }
  { s with cores := s.cores.map fun (e : Nat × Core) => (e.1, { e.2 with quads := [(0, { prio := prio, cur := cur, active := active, held := held })] }) }

/-- A slot of core 0 is a candidate of quadrant 0. -/
def candidateB (s : State) (g : GId) (sl : SlotId) : Bool :=
  !isHdl g && (s.block (bidOf g)).place == .core 0 0 && (s.quad 0 0 0).held.isNone && (s.grp? g).any (fun r => r.quad == 0 && decide (r.rslot < 8)) && s.eligible g sl

/-- Slot A of the group is stalled by an interlock and keeps the issue slot; the other slot's results are on their way, or not. -/
def fixHeld (pend : List WReg) (w : Wait) : State :=
  ((fixRuns 0 0 none none false (some (gA, .a, 3))).modSlot gA .a fun x => { x with wait := .interlock }).modSlot gA .b
    fun x => { x with pc := 0x10040, lanes := 0xF00, wait := w, pend := pend }

theorem witness_runsAreIssued_held :
    (∀ s ∈ [fixHeld [] .join, fixHeld [.s 4] .none, fixHeld [.s 4] .join], (s.quad 0 0 0).cur = none ∧
      (s.quad 0 0 0).held = some (gA, .a, 3) ∧ (s.grp gA).run = .running ∧ ((s.grp gA).b.slot .a).lanes ≠ 0 ∧
      ((s.grp gA).b.slot .a).wait = .interlock) ∧
    (fixHeld [] .join).eligible gA .a = true ∧
    (fixHeld [.s 4] .none).eligible gA .a = false ∧ (fixHeld [.s 4] .none).eligible gA .b = true ∧
    (fixHeld [.s 4] .join).eligible gA .a = false ∧ (fixHeld [.s 4] .join).eligible gA .b = false := by
  decide

theorem witness_runsAreIssued :
    ((fixRuns 0 0 none (some (gA, .a, 3)) false).quad 0 0 0).cur.isSome = true ∧
    (((fixRuns 0 0 none none true).quad 0 0 0).cur = none ∧ (fixRuns 0 0 none none true).eligible (.hdl 0 0 0) .a = true) ∧
    [(0, 0), (1, 2), (2, 2), (1, 1)].all (fun e : Nat × Nat =>
      candidateB (fixRuns e.1 e.2 (some (.grp 8 0 1)) none false) gA .a &&
        candidateB (fixRuns e.1 e.2 (some (.grp 8 0 1)) none false) (.grp 8 0 1) .a) = true ∧
    decide (((fixRuns 0 0 none none false).groups.map (·.1)).Nodup) = true ∧
    [Wait.ats 2, .walked].all (fun w => ((fixHeld [] w).grp? gA).any fun r => r.ahead.isNone && (r.b.slot .b).lanes != 0 &&
      (r.b.slot .b).wait == w) = true ∧
    [Wait.join, .barrier 0 0 none, .cond 0 .eq 0 4 none 0 true false].all (fun w =>
      ((fixAts w []).grp? gA).any fun r => r.ahead.isNone && (r.b.slot .a).wait == w) = true := by
  decide

/-- The group has trapped with a class and waits for the handler, which enters at a cycle or is at work. -/
def fixTrap (cls : W64) (cwd : Option Nat) (custom : Bool) (entry : Option Nat) (active : Bool) (pends : List Pend) : State :=
  let s := fix0.modGrp gA fun r => { r with run := .trapped, ecause := cls, cwd := cwd }
  let s := s.modPart 0 fun p => { p with handler := { p.handler with custom := custom } }
  { s with
    cycle := 70000, pends := pends
    cores := s.cores.map fun e => (e.1, { e.2 with quads := [(0, { traps := [gA], entry := entry, active := active })] }) }

theorem witness_handlersEnter :
    [(11, some 4), (11, none), (14, none), (1, none)].all (fun e : W64 × Option Nat => [true, false].all fun custom =>
      let s := fixTrap e.1 e.2 custom (some 70000) false []
      let own := s.part (s.partOfDie 0)
      (s.quad 0 0 0).traps == [gA] && (s.quad 0 0 0).prio == none && s.pends == [] &&
        (List.range 4).all (fun n => servesB s (s.partOfDie 0) (own.ctxTable + 32 * own.handler.ctxNo + 8 * n)) && (s.quad 0 0 0).entry == some 70000 && (s.part (s.partOfDie 0)).handler.custom == custom &&
        (s.launch? 8).any (fun l => l.ended.isNone && l.grade != 2) &&
        (s.grp? gA).any fun r => r.run == .trapped && r.ecause.toNat % 256 == e.1.toNat && r.cwd == e.2) = true ∧
    ((fixTrap 1 none true (some 70001) false []).quad 0 0 0).entry = some 70001 ∧
    usableCtx (fun n => [1, 0, 0, 0].getD n 0) ∧ ¬ usableCtx (fun _ => 0) ∧
    [4464, 4465].map (fun n => (fixTrap 1 none true none true [{ launch := 8, unit := 0, since := n }]).pends.any fun x =>
      decide (x.since + 65536 ≤ 70000) && x.by_ != some (.hdl 0 0 0)) = [true, false] ∧
    ((fixTrap 1 none true none true []).quad 0 0 0).active = true ∧
    (let s := fixTrap 1 none true none true [{ launch := 8, unit := 0, since := 4464 }]
     ((s.launch 8).blocksOf 0).any (fun f => (s.block ⟨8, f⟩).place == .core 0 0) && (s.grp? (.hdl 0 0 0)).isNone) = true ∧
    (let s := fixTrap 1 none true none true [{ launch := 9, unit := 0, since := 4464 }]
     let s : State := { s with blocks := s.blocks ++ [(⟨9, 0⟩, { place := .core 0 0 })], launches := s.launches ++ [(9, { s.launch 8 with id := 2 })] }
     s.pends.all (fun e => e.launch != 8) && s.whereIs gA == (0, 0, 0) && ((s.launch 9).blocksOf 0).contains 0 &&
       (s.block ⟨9, 0⟩).place == .core 0 0) = true := by
  simp only [usableCtx]
  decide

/-! ## States that meet the hypotheses: launches -/

/-- A launch record of two levels with n groups, with doublewords 5 and 6 as given. -/
def recordOf (n d5 d6 : W64) : List W64 := [0x10000, 0x10000, 0, 0, 0, d5, d6, 0, n] ++ List.replicate 23 0

/-- A good record of two levels. -/
def goodRecord : List W64 := recordOf 40 2 0x0000102000010000

/-- Context 0 has its page table at 0x50000 and ASID 3; records wait as given. -/
def fixStart (devq : List DevRec) (lq : SMap LQ) (halted : Bool) : State :=
  let m := storeN (storeN [] 0x90000 0x50001 8) 0x90008 3 8
  let ring := (List.range 32).foldl (fun m k => storeN m (0xA0300 + 8 * k) (goodRecord.getD k 0).toNat 8) m
  { fix0 with
    mem := ring, launches := [], blocks := [], groups := [], cur := none
    parts := [(0, { dies := [0], ctxTable := 0x90000, devq := devq, lq := lq, halted := halted, nextLaunch := 5 })] }

/-- The descriptor that the launches of the fixture read. -/
def ctxDw (k : Nat) : Nat := loadN (fixStart [] [] false).mem (0x90000 + 8 * k) 8

/-- The record of two levels is within the ranges, which do not name a bound level. -/
theorem witness_inRange317 : inRange317 { part := 0, id := 5, record := goodRecord } ∧ levels318 { part := 0, id := 5, record := goodRecord } := by
  have hl : fieldOf { part := 0, id := 5, record := goodRecord } 5 0 4 = 2 := by decide
  constructor
  · unfold inRange317
    simp only [hl]
    have hg : ¬ ∃ n, 2 ≤ n ∧ n < 2 ∧ fieldOf { part := 0, id := 5, record := goodRecord } 7 (8 * (n - 2)) 2 = 1 := by
      rintro ⟨n, h1, h2, -⟩
      omega
    refine ⟨by decide, by decide, by decide, by decide, by decide, by decide, by decide, by decide, by omega, by omega, by decide, by decide,
      by decide, by decide, by decide, by decide, fun h => absurd h hg, fun _ => by decide, by decide, by decide, by decide, by decide, ?_,
      by decide, by decide, by decide, by decide, fun n h1 h2 => .inl ?_, fun n h1 h2 => ?_⟩
    · intro n h1 h2
      have h : ∀ n < 8, 2 ≤ n → fieldOf { part := 0, id := 5, record := goodRecord } 7 (8 * (n - 2)) 8 = 0 := by decide
      exact ⟨fun h => by omega, fun _ => h n h2 h1⟩
    · have h : ∀ n < 22, 14 ≤ n → (goodRecord.getD n 0).toNat = 0 := by decide
      exact h n h2 h1
    · have h : ∀ n < 32, 22 ≤ n → (goodRecord.getD n 0).toNat = 0 := by decide
      exact h n h2 h1
  · unfold levels318
    simp only [hl]
    refine ⟨fun h => by omega, fun n h => by omega, fun n m h => by omega, fun n h => by omega, fun n h => by omega, fun n h1 h2 => ?_,
      by decide⟩
    obtain rfl : n = 1 := by omega
    decide

/-- Grade 3 is out of range, and a level that follows a bound one of a wider domain breaks R318. -/
theorem witness_inRange317_not :
    ¬ inRange317 { part := 0, id := 5, record := recordOf 40 (2 + 3 * 2 ^ 30) 0x0000102000010000 } ∧
      ¬ levels318 { part := 0, id := 5, record := (recordOf 40 4 0x0000102000010000).set 7 0x4062 } := by
  constructor
  · intro h
    exact absurd h.2.2.2.2.2.1 (by decide)
  · intro h
    exact absurd (h.1 (by decide)).1 (by decide)

theorem witness_refusal319 :
    refusal319 { part := 0, id := 5, record := goodRecord } (usableCtx ctxDw) (some 0) = 0 ∧
      refusal319 { part := 0, id := 5, record := recordOf 40 (2 + 3 * 2 ^ 30) 0x0000102000010000 } (usableCtx ctxDw) (some 0) = 1 := by
  have h : usableCtx ctxDw := by
    unfold usableCtx
    decide +kernel
  constructor
  · unfold refusal319
    rw [if_neg (not_not_intro witness_inRange317.1), if_neg (by simpa using h), if_neg (not_not_intro witness_inRange317.2),
      if_neg (by decide +kernel), if_neg (by decide +kernel), if_neg (by rintro ⟨n, hn, hlt⟩; cases hn; revert hlt; decide +kernel)]
  · unfold refusal319
    rw [if_pos witness_inRange317_not.1]

/-- The posting launch had priority 0. -/
def posted : DevRec := { id := 4, prio := 0, record := goodRecord }

theorem witness_launchesStart :
    (let s := fixStart [posted] [] false
     !(s.part 0).halted && s.ready.getLsbD 1 && (s.part 0).dies == [0] && s.ready.toNat.testBit 2 && s.launches == [] &&
       (List.range 16).all fun q => (mget {} (s.part 0).lq q).head == (mget {} (s.part 0).lq q).tail) = true ∧
    ((fixStart [] [] true).part 0).halted = true ∧ ((fixStart [] [] false).part 0).devq = [] ∧
    (List.range 4).all (fun k => servesB (fixStart [posted] [] false) 0 (0x90000 + 8 * k)) = true ∧
    (let s := fixStart [] [(3, { base := 0xA0000, size := 4, head := 3, tail := 0 })] false
     let x := mget {} (s.part 0).lq 3
     x.head != x.tail && x.size != 0 && x.base.toNat + 256 * (x.head.toNat % x.size.toNat) == 0xA0300 &&
       ((List.range 32).map fun k => BitVec.ofNat 64 (loadN s.mem (0xA0300 + 8 * k) 8)) == goodRecord &&
       (List.range 32).all fun k => servesB s 0 (0xA0300 + 8 * k)) = true := by
  decide +kernel

/-- Launch 8 as given, on the fixture's partition with die 0 and 1, nothing placed. -/
def fixLaunch (l : Launch) : State :=
  { (fix0.modPart 0 fun p => { p with dies := [0, 1] }) with launches := [(8, l)], blocks := [], groups := [], cur := none }

/-- A launch of 40 blocks of one group, with what its dies have. -/
def launchOf (counter : Nat) (lost : List Nat) (handed held : List (Nat × Nat)) : Launch :=
  { part := 0, id := 1, record := goodRecord, counter := counter, lost := lost, handed := handed, held := held }

theorem witness_rangesAreHandedOut_hand :
    [launchOf 24 [] [] [], launchOf 39 [] [(3, 1)] [], launchOf 40 [7, 9] [] []].all (fun l => (fixLaunch l).launch? 8 == some l &&
      l.ended.isNone && ((fixLaunch l).part 0).dies.contains 1 && (fixLaunch l).ready.toNat.testBit 3 && l.dieUnits == 0 && l.units == 40 &&
        ((fixLaunch l).roomFor 8 (l.lost.headD l.counter) 1).isSome && (l.handed ++ l.held).all fun e => e.1 != l.lost.headD l.counter) = true ∧
    (launchOf 40 [] [] []).units ≤ (launchOf 40 [] [] []).counter ∧ 2 ∉ ((fixLaunch (launchOf 0 [] [] [])).part 0).dies := by
  decide +kernel

theorem witness_rangesAreHandedOut_split :
    (let l := launchOf 4 [] [(0, 0), (1, 0), (2, 0)] []
     (((fixLaunch l).roomFor 8 2 1).isSome && (fixLaunch l).fencing == [] && (launchOf 4 [] [(0, 0), (1, 0), (2, 0)] []).dieUnits == 0)) = true ∧
    (let s := fixLaunch (launchOf 4 [] [(0, 0), (1, 0), (2, 0)] [])
     (({ s with ready := 0x7 } : State).roomFor 8 2 1).isSome) = false := by
  decide +kernel

theorem witness_rangesAreHandedOut_others :
    ((launchOf 4 [] [(0, 0), (1, 0), (2, 0)] []).handed.filter fun e => e.2 == 0).map (·.1) = [0, 1, 2] ∧
    (let l := launchOf 4 [5] [(0, 0), (1, 0)] []
     let s : State := { fixLaunch l with ready := 0xB }
     s.launch? 8 == some l && !s.ready.toNat.testBit 2 && l.grade == 0 && (l.held.filter fun e => e.2 == 0) == []) = true ∧
    (let l := launchOf 4 [] [(1, 0)] [(0, 0)]
     (l.held.filter fun e => e.2 == 0) == [(0, 0)]) = true := by
  decide +kernel

theorem witness_unitsArePlaced_block :
    (let l := launchOf 4 [] [(2, 1)] []
     let s := fixLaunch l
     !l.hasGang && l.nextFor 1 == some 2 && !s.outranked 8 1 && !s.behind 8 2 1 && quietB s && s.fencing == [] && s.ready.toNat.testBit 3 && s.physCore 1 5 == 5 && s.blocks == [] &&
       !(s.core 1 5).fenced && (s.core 1 5).want.isNone && l.gangSize == 1 && l.fitsEmpty 1 && s.groups == []) = true ∧
    (fixLaunch (launchOf 4 [] [(2, 1)] [])).partOfDie 0 = 0 ∧
    ((launchOf 4 [] [(2, 1)] []).nextFor 0) = none := by
  decide +kernel

/-- A gang of two blocks on two cores, with four groups each. -/
def gangLaunch : Launch :=
  { part := 0, id := 1, handed := [(1, 0)], record := ((goodRecord.set 5 4).set 6 0x0000102002010000).set 7 0x4120 |>.set 8
      (4 + 2 * 2 ^ 32) |>.set 9 3 }

theorem witness_unitsArePlaced_gang :
    (let l := gangLaunch
     let s := fixLaunch l
     l.hasGang && l.nextFor 0 == some 1 && !s.outranked 8 0 && !s.behind 8 1 0 && quietB s && (s.nbhd 0 2).take l.gspread == [16, 17] && [16, 17].all (fun c => (s.core 0 c).want.isNone) && l.gangSize == 2 &&
       l.gangSize / l.gspread * 2 == l.gangSize && l.fitsEmpty 1 && l.groupsPerBlock == 4) = true := by
  decide +kernel

/-- Unit 0 of a pre-emptible launch, its block where it is given; the handler of quadrant 0 is at work for it or not. -/
def fixUnit (pre : Bool) (p : Place) (exited busy : Bool) : State :=
  let s := fix0.modLaunch 8 fun l => { l with record := if pre then recordOf 1 0x200000002 0x0000102000010000 else goodRecord }
  let s := s.modBlock ⟨8, 0⟩ fun b => { b with place := p, exited := exited }
  { s with cur := none, cores := s.cores.map fun e => (e.1, { e.2 with quads := [(0, { traps := if busy then [gA] else [], active := busy })] }) }

/-- The launch of such a state. -/
def unitOf8 (s : State) : Launch := s.launch 8

theorem witness_unitsLeave_preempt :
    (unitOf8 (fixUnit false (.core 0 0) false false)).pre = false ∧
    [true, false].all (fun busy => let s := fixUnit true (.core 0 0) false busy
      (unitOf8 s).pre && (unitOf8 s).ended.isNone && (unitOf8 s).blocksOf 0 == [0] && (s.block ⟨8, 0⟩).place == .core 0 0 &&
        s.handlerBusy [⟨8, 0⟩] == busy && s.pends == [] && (s.grp gA).ahead.isNone && s.matq == [] &&
          (s.grp gA).b.slotA.wait == .none && (s.grp gA).b.slotB.wait == .none &&
          s.blocks.all fun e => e.2.place != .leaving 0 0) = true ∧
    (let s := fixUnit true (.leaving 0 0) false false
     (s.block ⟨8, 0⟩).place == .leaving 0 0 && s.copies == []) = true ∧
    (fixUnit true .image false false).unitsOn 0 0 = [] ∧ (fixUnit true (.core 0 0) false false).unitsOn 0 0 = [(8, 0)] ∧
    (fixUnit true (.core 0 0) false false).compactFor 0 0 = none ∧ (fixUnit true (.core 0 0) false false).groups.all (fun e =>
      !e.2.b.slotA.loads && !e.2.b.slotB.loads) = true := by
  decide +kernel

/-- The core of such a unit, which no die but 0 has beside it, and a launch that waits with a larger scratchpad. -/
def fixNarrow : State :=
  let s := fixUnit true (.core 0 0) false false
  let l : Launch := { part := 0, id := 2, record := recordOf 1 2 0x0000102000080000, counter := 1, handed := [(0, 0)] }
  { s with
    launches := s.launches ++ [(16, l)]
    cores := (List.range 256).map fun k => (k, { p := 0x10000, fenced := decide (k ≠ 0) }) }

theorem witness_unitsLeave_compact :
    fixNarrow.unitsOn 0 0 = [(8, 0)] ∧ (fixNarrow.launch 8).pre = true ∧ fixNarrow.compactFor 0 0 = some (16, 0) ∧
      (let s := fixLaunch (launchOf 4 [] [(2, 1)] [])
       let s : State := { s with launches := s.launches ++ [(16, launchOf 1 [] [(0, 1)] [])], cores := [(256 + 5, { want := some (16, 0) })] }
       s.wanted 1 (s.physCore 1 5) = some (16, 0) ∧ !(s.launch 8).hasGang ∧ 0 < (s.launch 8).gangSize) := by
  decide +kernel

theorem witness_unitsLeave_retire :
    (let s := fixUnit true (.core 0 0) true false
     (unitOf8 s).held == [(0, 0)] && (s.block ⟨8, 0⟩).exited && (s.block? ⟨8, 0⟩).isSome && s.remote == [] && s.matq == [] && s.copies == [] &&
       (unitOf8 s).retired == [] && (unitOf8 s).units == 1 && (unitOf8 s).grade == 0) = true ∧
    (unitOf8 (fixUnit false (.core 0 0) true false)).units = 40 := by
  decide +kernel

/-- A ticketed launch whose block 0 has exited with a list. -/
def fixMiller (staged : List Staged) (n : Nat) : State :=
  let s := fix0.modLaunch 8 fun l => { l with record := recordOf 40 0x40000002 0x0000102000010000 }
  let s := s.modBlock ⟨8, 0⟩ fun b => { b with exited := true, staged := staged }
  s.modPart 0 fun p => { p with devq := queueOf n }

theorem witness_listsAreReleased :
    (let s := fixMiller [.store 0x20000 4 7 false, .red .fadd 0x20004 4 8] 0
     let l := s.launch 8
     l.grade == 1 && l.ended.isNone && l.miller == 0 && l.blocks == 40 && l.blocksOf (l.unitOf 0) == [0] && (s.block ⟨8, 0⟩).exited &&
       servesB s 0 0x20000 && servesB s 0 0x20004 && s.monitors == []) = true ∧
    ((fixMiller [.launch 9 goodRecord] 0).block ⟨8, 0⟩).staged = [.launch 9 goodRecord] ∧
    [255, 256].map (fun n => ((fixMiller [.launch 9 goodRecord] n).part 0).devq.length) = [255, 256] ∧
    (fixUnit true (.core 0 0) true false).launch? 8 ≠ none ∧ ((fixUnit true (.core 0 0) true false).launch 8).grade = 0 := by
  decide +kernel

/-- A launch that has ended with its completion address in the page 0x20000, which its context's tables map. -/
def fixDone (done : W64) : State :=
  let s := fix0.modLaunch 8 fun l => { l with
    record := goodRecord.set 3 done, root := 0x50000, ended := some { status := 1, reason := 0 } }
  let put (m : SMap Byte) (e : Nat × Nat) : SMap Byte := storeN m e.1 e.2 8
  { s.modPart 0 (fun p => { p with s2root := 0x40000 }) with
    mem := [(0x50000, 0x60001), (0x60000, 0x70001), (0x70000, 0x51001), (0x51000, 0x52001), (0x52010, 0x2001F), (0x40000, 0x80001),
      (0x80000, 0x41001), (0x41000, 0x42001), (0x42010, 0x2001F), (0x42028, 0x5001F), (0x42030, 0x6001F), (0x42038, 0x7001F)].foldl put [] }

theorem witness_endsAreReported :
    (let s := fixDone 0
     (s.launch? 8).any fun l => l.ended.isSome && !l.noctx && l.record.getD 3 0 == 0 && !l.reported && l.hubRec.isNone &&
       s.remote == []) = true ∧
    (let s := fixDone 0x20040
     ((s.launch? 8).any fun l => l.ended.isSome && !l.noctx && l.record.getD 3 0 == 0x20040 && !l.reported && l.hubRec.isNone) &&
       match s.hubTranslate ((s.launch 8).req 8) 0x20040 .write with
       | .ok pa repl u => pa == 0x20040 && !repl && ((List.range 8).all fun n => servesB u 0 (0x20040 + 8 * n)) && u.monitors == []
       | _ => false) = true := by
  decide +kernel

/-! ## States that meet the hypotheses: registers, the module, steps -/

/-- Partition 0 with a launch queue 2 of 16 records, a system-call ring of 64, and what is given. -/
def fixRegs (f : Part → Part) : State :=
  fix0.modPart 0 fun p => f { p with
    lq := [(2, { base := 0xA0000, size := 16, head := 14, tail := 3 })], scsize := 64, schead := 60, ctxTable := 0x90000 }

/-- regOk, as a check. -/
def regB (a : RegAcc) (s : State) : Bool := a.width == 8 && s.ready.getLsbD 1 && !(s.part a.part).dies.isEmpty

theorem regOk_of {a : RegAcc} {s : State} (h : regB a s = true) : regOk a s := by
  simp only [regB, Bool.and_eq_true, beq_iff_eq, Bool.not_eq_true', List.isEmpty_eq_false_iff] at h
  exact ⟨h.1.1, h.1.2, h.2⟩

theorem regOk_not {a : RegAcc} {s : State} (h : regB a s = false) : ¬ regOk a s := by
  intro k
  have : regB a s = true := by simp [regB, k.1, k.2.1, k.2.2]
  simp [h] at this

theorem witness_regOk :
    (∀ w, regOk { who := w, width := 8, part := 0 } fix0) ∧ ¬ regOk { who := .host, width := 4, part := 0 } fix0 ∧
    ¬ regOk { who := .host, width := 8, part := 1 } fix0 ∧ ¬ regOk { who := .chandler, width := 8, part := 0 } State.reset := by
  exact ⟨fun w => regOk_of (by cases w <;> decide), regOk_not (by decide), regOk_not (by decide), regOk_not (by decide)⟩

/-- The group waits for the reply to call 7 in S5. -/
def fixCall : State := (fixRegs fun p => { p with calls := [7], screply := 9 }).modGrp gA fun r => { r with run := .syscall 7 5 }

theorem witness_ringsAreWritten :
    (let x := mget {} ((fixRegs id).part 0).lq 2
     [14, 15, 0, 13, 29, 30].map (fun v => ringAhead 16 (x.head.toNat % 16) v) = [0, 1, 2, 15, 15, 16] ∧
       ringAhead 16 (x.head.toNat % 16) 31 = 17) ∧
    (mget {} ((fixRegs id).part 0).lq 3).size = 0 ∧
    [60, 0, 124, 125].map (fun v => ringAhead 64 (((fixRegs id).part 0).schead.toNat % 64) v) = [0, 4, 64, 65] ∧ (fix0.part 0).scsize = 0 ∧
    (fixCall.groups.map (·.1)).Nodup ∧ (fixCall.grp gA).run = .syscall 7 5 ∧ fixCall.groups.map (·.1) = [gA] ∧
    (fixCall.reqOf gA).part = 0 ∧ (fix0.grp gA).run = .running := by
  decide

/-- A replayable record of the group at slot 9 of the trap queue, as given, before or after its pop; the group is parked. -/
def fixRec (prg popped : Bool) : State :=
  (fix0.modPart 0 fun p => { p with tq := [(9, {
    rid := 3, cls := .xlate, kind := .replayable, src := 0, launch := 1, gflat := 0, owner := .group gA, popped := popped, prg := prg })] }).modGrp gA
    fun r => { r with run := .parked 3, eslot := .a, epc := 0x10008 }

theorem witness_hostPopsAndReleases :
    (fix0.part 0).oldest = none ∧ ((fixRec false true).part 0).oldest = none ∧
    (((fixRec false false).part 0).oldest.map fun e => (e.1, e.2.rid)) = some (9, 3) ∧
    ((fixRec false false).modPart 0 fun p => { p with tqbuf := 2 ^ 57 }).reach 0 (2 ^ 57) = false ∧
    (List.range 64).all (fun k => servesB (fixRec false false) 0 (0x20000 + 8 * k)) = true ∧ (fixRec false false).monitors = [] ∧
    ((fixRec false false).part 0).tqWait = [] ∧ (((fixRec false false).part 0).tq.all fun e => !e.2.prg || e.2.asked) = true ∧
    (fix0.part 0).outstanding 0x309 = none ∧
    (((fixRec false true).part 0).outstanding 0x309).any (fun r => r.owner == .group gA && !r.prg && r.rid == 3) = true ∧
    (((fixRec true true).part 0).outstanding 0x309).any (fun r => r.owner == .group gA && r.prg) = true ∧
    ((fixRec false true).grp gA).run = .parked 3 ∧ ((fixRec false true).grp gA).b.slotA.wait = .none ∧
    ((fixRec false true).grp gA).b.slotB.wait = .none ∧ ((fixRec false true).block (bidOf gA)).at?.isSome := by
  decide +kernel

theorem witness_registersAreWritten_go :
    (∀ k < 4, let v : W64 := BitVec.ofNat 64 (2 ^ 63 + 5 * 2 ^ 16 + k)
      v.getLsbD 63 ∧ ((fixRegs id).part 0).invctl.getLsbD 63 = false ∧ v.toNat / 2 ^ 28 % 2 ^ 35 = 0 ∧ v.toNat / 2 ^ 2 % 2 ^ 14 = 0 ∧
        v.toNat % 4 = k ∧ v.toNat / 2 ^ 16 % 2 ^ 12 = 5) ∧
    ((fixRegs fun p => { p with invlen := 65536 }).part 0).invlen.toNat % 65536 = 0 ∧
    ((fixRegs fun p => { p with invlen := 8 }).part 0).invlen.toNat % 65536 ≠ 0 ∧
    (2 ^ 63 + 2 ^ 28) / 2 ^ 28 % 2 ^ 35 ≠ 0 ∧ ((fixRegs fun p => { p with invctl := BitVec.ofNat 64 (2 ^ 63) }).part 0).invctl.getLsbD 63 ∧
    (∀ n < 4, servesB (fixRegs id) 0 (((fixRegs id).part 0).ctxTable + 32 * 5 + 8 * n) = true) ∧
    (fixRegs id).launches.all (fun e => e.2.ctxNo == 0) = true ∧
    (let s := { (fixRegs fun p => { p with ctxTable := 2 ^ 50 }) with ready := 0 }
     isRemote ((s.part 0).ctxTable + 32 * 5) && !s.reach 0 ((s.part 0).ctxTable + 32 * 5)) = true := by
  decide +kernel

theorem witness_registersAreWritten_values :
    (let x := mget {} ((fixRegs id).part 0).lq 5
     x.head = x.tail) ∧ (let x := mget {} ((fixRegs id).part 0).lq 2
     x.head ≠ x.tail) ∧ (BitVec.ofNat 64 4096).toNat = 2 ^ 12 ∧ (BitVec.ofNat 64 16).toNat = 2 ^ 4 ∧
    (BitVec.ofNat 64 64).toNat = 2 ^ 6 ∧ (BitVec.ofNat 64 65536).toNat = 2 ^ 16 ∧ (BitVec.ofNat 64 512).toNat % 512 = 0 ∧
    (BitVec.ofNat 64 256).toNat % 512 ≠ 0 ∧ 0x3C9 % 8 ≠ 0 := by
  decide +kernel

theorem witness_monitorsCount_owned :
    (4 - 4) % 8 = 0 ∧ (13 - 4) % 8 = 1 ∧ 0 ∈ (fix0.part 0).dies ∧ 1 ∉ (fix0.part 0).dies := by
  decide

theorem witness_monitorsCount :
    (19 < 20 ∧ 2 ^ 64 - 1 < 2 ^ 64) ∧ fix0.power = true ∧ State.reset.power = false ∧
    (let x : Monitor := { latched := [{ who := .peer, min := 1, max := 2, count := 3, sum := 4, bins := [] }] }
     x.latched.all fun y => x.latched.all fun z => z.who != y.who || z == y) = true ∧ (mget {} (fix0.part 0).mons 19).count = 0 ∧ Nat.log2 (2 ^ 14) = 14 := by
  decide +kernel

theorem witness_powerAndBoot :
    State.reset.power = false ∧ State.reset.fw.bankA = [] ∧ ({ State.reset with fw := { bankA := [1] } } : State).power = false ∧
      fix0.power = true ∧ fix0.ready.getLsbD 0 ∧ State.reset.ready.getLsbD 0 = false ∧
      ({ fix0 with fw := { runningB := true } } : State).fw.runningB = true := by
  decide

theorem witness_diesComeAndGo_fence :
    fix0.ready.toNat.testBit 2 = true ∧ fix0.ready.toNat.testBit (2 + 7) = true ∧ State.reset.ready.toNat.testBit 2 = false ∧
    (fix0.modLaunch 8 fun l => { l with ended := some { status := 1, reason := 0 } }).launches.all (fun e => e.2.ended.isSome) = true ∧
    (∀ pre, let s := fixUnit pre (.core 0 0) false false
      s.launches.map (·.1) = [8] ∧ (unitOf8 s).ended = none ∧ ((unitOf8 s).held.filter fun e => e.2 == 0) = [(0, 0)] ∧
        (unitOf8 s).pre = pre ∧ (unitOf8 s).grade ≠ 2 ∧ ((unitOf8 s).blocksOf 0).map (fun f => (s.block ⟨8, f⟩).at?.isSome) = [true] ∧
        s.groups.all (fun e => e.2.ahead.isNone && e.2.b.slotA.wait == .none && e.2.b.slotB.wait == .none) = true ∧
        s.groups.all (fun e => !e.2.b.slotA.loads && !e.2.b.slotB.loads) = true ∧ s.pends = [] ∧
        s.matq = [] ∧ s.copies = [] ∧ s.updates = [] ∧ (s.cores.all fun e => e.2.frames == []) = true ∧
        s.handlerBusy [⟨8, 0⟩] = false ∧ ((unitOf8 s).handed.contains (0, 0)) = false) ∧
    (fixUnit true (.core 0 0) false true).handlerBusy [⟨8, 0⟩] = true := by
  decide +kernel

theorem witness_diesComeAndGo_back :
    (let s : State := { fix0 with fenced := 0x1C04, cores := [(0, {}), (5, { fenced := true })] }
     s.fenced.toNat.testBit 2 = true ∧ s.fenced.toNat.testBit 3 = false ∧ (s.core 0 5).fenced = true ∧
       (List.range 196).all (fun c => c == 5 || !(s.core 0 c).fenced) = true ∧ s.cfg.spares = [] ∧
       (s.die 0).l2 = [] ∧ s.cores.all (fun e => e.2.l1 == []) = true) ∧
    (let s : State := { fix0 with fenced := 0x1C04, cores := [] }
     (List.range 196).all (fun c => !(s.core 0 c).fenced) = true) := by
  decide +kernel

/-- A checkpoint of launch 8 at 0x20000, generation 4, sealed; the launch is there, ended or not. -/
def fixCkpt (ended : Bool) : State :=
  let body : List Byte := [4, 0, 0, 0, 0, 0, 0, 0, 1, 2, 3]
  let crc : List Byte := (List.range 8).map fun m => BitVec.ofNat 8 (crcOf body / 256 ^ m)
  let s := fix0.modLaunch 8 fun l => { l with ended := if ended then some { status := 1, reason := 0 } else none }
  let put (m : SMap Byte) (k : Nat) : SMap Byte := storeN m (0x20000 + k) ((crc ++ body).getD k 0).toNat 1
  { s with
    mem := (List.range 19).foldl put []
    ckpts := [{ bytes := crc ++ body, launch := (8, { part := 0, id := 1, record := goodRecord })
                blocks := [(⟨8, 0⟩, { place := .image })], groups := [(gA, { b := bank0 [] [], valloc := 64 }), (.grp 8 0 1, { run := .parked 3, epc := 0x10040 })]
                matq := [], copies := [] }] }

/-- The checkpoint of a state stands at 0x20000, with generation gen. -/
def fitsB (s : State) (gen : Nat) : Bool :=
  s.ckpts.all fun c => (List.range c.bytes.length).all (fun k => s.byte (0x20000 + k) == c.bytes.getD k 0) &&
    decide (16 ≤ c.bytes.length) && loadN s.mem 0x20008 8 == gen && c.bytes.take 8 == (List.range 8).map (fun m => BitVec.ofNat 8 (crcOf (c.bytes.drop 8) / 256 ^ m)) &&
      c.launch.2.part == 0 && (s.launch? c.launch.1).all fun l => l.ended.isSome

theorem witness_moduleIsRearranged :
    (let s : State := { fix0 with launches := [] }
     s.cfg.nparts ≠ 2 ∧ s.ready.getLsbD 0 ∧ s.updates = [] ∧ quietB s = true ∧ (s.cores.all fun e => e.2.frames == []) = true ∧ fix0.launches.all (fun e => e.2.ended.isSome) = false ∧
       fix0.partOfDie 4 ≠ 4 * 2 / 8 ∧ fix0.partOfDie 0 = 0 * 2 / 8) ∧
    isRemote 0x20000 = false ∧ (fixCkpt true).ckpts.all (fun c => (List.range c.bytes.length).all fun k =>
      servesB (fixCkpt true) 0 (0x20000 + k)) = true ∧ fitsB (fixCkpt true) 4 = true ∧ fitsB (fixCkpt true) 5 = false ∧ fitsB (fixCkpt false) 4 = false ∧
    (fixCkpt true).ckpts.all (fun c => decide (c.blocks.map (·.1)).Nodup && decide (c.groups.map (·.1)).Nodup) = true := by
  decide +kernel

theorem witness_moduleIsRearranged_idle :
    (fix0.launches.any fun e => !(e.2.ended.isSome && e.2.reported)) = true ∧
    (fixCkpt true).ckpts.all (fun c => c.groups.any fun e => e.2.run == .parked 3) = true := by
  decide +kernel

/-- The fixture with a word at its pc. -/
def fixWord (w : Nat) (agenda : List Instr) : State :=
  { fix true [] [] (storeN [] 0x10000 w 4) with agenda := agenda }

theorem witness_stepsRunWords (w : Nat) (hw : w = 0x03214307 ∨ w = 0x38000000) :
    (fixWord w []).agenda = [] ∧ ∃ c, (fixWord w []).tick.issuing = some c ∧ c.pc.toNat = 0x10000 ∧
      tlbHolds c.q (fixWord w []).tick 0x10000 .fetch 0x10000 ∧ (fixWord w []).tick.Serves c.q.part 0x10000 ∧
        loadN (fixWord w []).tick.mem 0x10000 4 = w := by
  rcases hw with rfl | rfl <;>
    exact ⟨rfl, _, rfl, by decide, tlbHolds_of (by decide), serves_of (by decide), by decide +kernel⟩

theorem witness_stepsRunWords_event : (fixWord 0 [.thermalThrottle, .powerOff]).agenda = [.thermalThrottle, .powerOff] ∧
    Instr.isWord .thermalThrottle = false := by
  decide

/-- Slot A has a lookahead window of two words over S9, when given. -/
def fixWin (given : Bool) : State :=
  fix0.modGrp gA fun r => { r with b := { r.b with wins := if given then [{ sl := .a, left := 2, regs := [.s 9], readOk := false }] else [] } }

theorem witness_wordsAreChecked :
    (let c := ctxOf (fix false [] [] [])
     c.grp.priv = false ∧ isHdl c.g = false ∧ c.grp.ahead = none ∧ c.grp.valloc = 256 ∧ c.l.tiles = 16) ∧
    (desc (.add false 5 127 6)).any (fun d => d.uses.any fun u => !u.classOk) = true ∧
    (let c := ctxOf (fixWin false)
     (desc (.vadd false 70 1 2)).any (fun d => d.uses.any fun u => !u.limitOk 64 c.b.wb c.l.tiles) = true) ∧
    (desc (.add false 5 9 6)).any (fun d => (ctxOf (fixWin true)).b.wins.any fun x => x.sl == .a && x.left == 2 && !x.readOk &&
      d.uses.any fun u => (u.wregs 0).any (x.regs.contains ·)) = true ∧
    (ctxOf fix0).b.slotB.wait = .none ∧
    (fixAhead (some (aheadOf none))).issuing.any (fun c => c.grp.ahead == some (aheadOf none) && !(aheadOf none).poison.wb) = true ∧
    (fixHdl [gA] .trapped).issuing.any (fun c => c.g == .hdl 0 0 0 && c.grp.ahead.isNone) = true ∧
    ((fixHdl [gA] .trapped).launch? 8).any (fun l => l.ended.isNone && ((fixHdl [gA] .trapped).part l.part).tq == []) = true ∧
    (desc (.eret false)).any (fun d => d.priv) = true ∧ (desc (.gets false 5 2047)).any (fun d => !d.codeOk) = true := by
  decide +kernel

theorem witness_memoryStaysCanonical : State.reset.memWf := by decide

/-! ## States that meet the hypotheses: instructions that complete -/

theorem witness_wordsComplete_fence :
    issues (.fence false 6) (fixR 0 0 0 0) (fun c => (fixR 0 0 0 0).remote.all fun r => r.g != c.g) = true ∧
    issues (.fence false 4) (withRemote (fixR 0 0 0 0)) (fun _ => true) = true := by
  decide

theorem witness_wordsComplete_maintenance :
    [Instr.clean false 3 8 9, .inval false 1 8 9, .clinv false 0 8 9].all (fun i => issues i (fixLines 0x20000 0x10000) fun c =>
      srcS 8 c == 0x20000 && srcS 9 c == 0x10000 && (fixLines 0x20000 0x10000).updates == [] && quietB (fixLines 0x20000 0x10000) &&
        decide (c.q.core < 256) && !(fixLines 0x20000 0x10000).blockedIn c.q.part 0x20000 0x10000) = true ∧
    tlbMaps (ctxOf (fixLines 0x20000 0x10000)) (fixLines 0x20000 0x10000) 0x20000 .read 0x20000 ∧
    tlbMaps (ctxOf (fixLines 0x20000 0x10000)) (fixLines 0x20000 0x10000) 0x20000 .write 0x20000 := by
  exact ⟨by decide, tlbHolds_of (by decide), tlbHolds_of (by decide)⟩

/-- An instruction that begins an invalidation leaves what invalidationGoesOn asks for. -/
def goesOnB (i : Instr) (s : State) (id : Nat) : Bool :=
  match exec i s with
  | .next t => (t.part 0).invs.all (fun x => x.id != id || x.asker == .group gA .a) && (t.grp? gA).isSome && t.remote == [] &&
      t.blocks.all (fun b => b.2.staged == []) && t.groups.all (fun e => !e.2.b.loads) && t.monitors == []
  | _ => false

theorem witness_wordsComplete_xset :
    [(0, 0x10000), (1, 5), (2, 0x10000), (3, 7)].all (fun e : W64 × W64 =>
      let s := fixR 0x20000 0 e.2 e.1
      issues (.xset false 8 10) s (fun c => srcS 10 c == e.2 && c.b.getS 11 == e.1 && (s.part c.q.part).invs == []) &&
        goesOnB (.xset false 8 10) s s.seq) = true := by
  decide +kernel

theorem witness_wordsComplete_shadow :
    issues (.shadow false 4 8 9) (fixShadow 0x20000 0x10000 [0x50000] []) (fun c =>
      let s := fixShadow 0x20000 0x10000 [0x50000] []
      mappedB s c && !c.ticketed && (s.block c.bid).shadows == [] && (s.block? c.bid).isSome && !s.shadowed c.q.part 0x20000 &&
        (s.part c.q.part).shadowPool == [0x50000] && (List.range 256).all (fun j =>
          servesB s c.q.part (0x20000 + 256 * j) && servesB s c.q.part (0x50000 + 256 * j))) = true := by
  decide +kernel

theorem witness_wordsComplete_publish :
    issues (.publish false 8) (fixPublish 1 false) (fun c =>
      let s := fixPublish 1 false
      (s.block? c.bid).isSome && (s.block c.bid).shadows == [shadowOf 1 0x20000] && (shadowOf 1 0x20000).handle == (srcS 8 c).toNat && (shadowOf 1 0x20000).closing.isNone &&
        s.copies == [] && s.matq == [] && (s.part c.q.part).invs == [] && !isHdl c.g) = true ∧
    goesOnB (.publish false 8) (fixPublish 1 false) ((fixPublish 1 false).seq + 1) = true := by
  decide +kernel

/-- A page of the HBM of a partition's die whose every byte its home slice serves. -/
def pageB (s : State) (part lo : Nat) : Bool :=
  decide (lo + 65536 ≤ 2 ^ 36) && (s.part part).dies.contains 0 && s.readyBit 2 && s.readyBit 10 && s.readyBit 11 && s.readyBit 12 &&
    s.cfg.share == 1 && s.withheld == [] && s.updates == [] && (s.part part).repl == [] && quietB s

theorem pageB_serves {s : State} {part lo : Nat} (h : pageB s part lo = true) : ∀ j < 65536, s.Serves part (lo + j) := by
  intro j hj
  simp only [pageB, Bool.and_eq_true, decide_eq_true_eq, beq_iff_eq] at h
  obtain ⟨⟨⟨⟨⟨⟨⟨⟨⟨⟨h1, h2⟩, h0⟩, h3⟩, h4⟩, h5⟩, h6⟩, h7⟩, h8⟩, h9⟩, h10⟩ := h
  have hd : (lo + j) / 2 ^ 38 = 0 := by omega
  have hr : region (lo + j) = .hbm 0 ((lo + j) % 2 ^ 38) := by
    unfold region
    rw [if_pos (by omega), hd]
  have hb : s.readyBit (hbmBit 0 ((lo + j) % 2 ^ 38)) = true := by
    have : hbmBit 0 ((lo + j) % 2 ^ 38) = 10 ∨ hbmBit 0 ((lo + j) % 2 ^ 38) = 11 ∨ hbmBit 0 ((lo + j) % 2 ^ 38) = 12 := by
      unfold hbmBit
      omega
    rcases this with e | e | e <;> rw [e] <;> assumption
  refine ⟨?_, ?_, by simp [h7], ?_, by simp [h8], quiet_of h10⟩
  · simp only [isRemote, decide_eq_false_iff_not]
    omega
  · have h0' : s.readyBit (2 + 0) = true := h0
    simp only [State.reach, hr, State.shareBytes, h6, hb, h2, h0', Bool.and_true, decide_eq_true_eq]
    omega
  · simp [State.replicaHeld, hr, h9]

/-- A pre-emptible launch of one block whose checkpoint area starts at 0x20000, in a page of 2 MiB that may be written or not; the
handler of quadrant 1 is at work on the core, or not; a load of slot B has not landed, or none. -/
def fixArea (w busy load : Bool) : State :=
  let s := withRecord (fixR 0x20000 5 0 0) (BitVec.ofNat 64 (2 + 2 ^ 33)) 0 1 0
  let s := if load then s.modSlot gA .b fun x =>
    { x with lanes := 0xF00, wait := .load { vec := true, d := 4, wb := 0, n := 4, h := 0, lanes := [(8, 0x20000, false)] } } else s
  { s with
    cores := s.cores.map fun e => (e.1, { e.2 with
      quads := e.2.quads ++ [(1, { active := busy, traps := [gA] })]
      tlb := (e.2.tlb.take 1).map fun t => { t with tr := { t.tr with vbase := 0, frame := 0, ipa := 0, size := .m2, size2 := .m2
                                                                      p1 := { t.tr.p1 with w := w } } } }) }

/-- The state in which CKPT writes. -/
def settled (s : State) : State :=
  let q := State.ckptSettle { s with pends := s.pends.filter fun p => decide (p.launch ≠ 8) } 8
  { q with free := q.free + (q.launch 8).blocks }

theorem witness_takesCheckpoints_waits :
    [(true, false), (false, true), (false, false)].all (fun e : Bool × Bool => issues (.ckpt false 4 8 9) (fixArea true e.1 e.2) fun c =>
      let s := fixArea true e.1 e.2
      (s.launch 8).pre && srcS 8 c == 0x20000 && s.handlerBusy (s.blocksOf 8) (some c.g) == e.1 &&
        ((s.blocksOf 8).any fun b => (s.groupsOf b).any fun e => e.2.b.loads) == e.2) = true ∧
    (((settled (fixArea false false false)).core 0 0).tlb.find? (fun e => e.hits (ctxOf (fixArea false false false)).q 0x20000)).any
      (fun e => !e.tr.p1.allows .write) = true := by
  decide +kernel

/-- The checkpoint of that launch: its block has a group of 256 vector registers, 16 tiles and 64 KiB of scratchpad. -/
theorem settled_size (k : Nat) : ((settled (fixArea true false false)).ckptBody k 8 5
    ((settled (fixArea true false false)).blocksOf 8)).length = 529272 := by
  have h : (settled (fixArea true false false)).blocksOf 8 = [⟨8, 0⟩] := by decide +kernel
  have hg : ((settled (fixArea true false false)).launch 8).groupsPerBlock = 1 := by decide +kernel
  rw [h, State.ckptBody_length, State.image_length (A := 256)]
  · decide +kernel
  · intro i hi
    obtain rfl : i = 0 := by
      have : i < 1 := hg ▸ hi
      omega
    decide +kernel

theorem witness_wordsComplete_ckpt :
    issues (.ckpt false 4 8 9) (fixArea true false false) (fun c => ((fixArea true false false).launch 8).pre && srcS 8 c == 0x20000 &&
      (srcS 9 c).toNat == 5 && ((fixArea true false false).launch 8).record.length == 32 &&
      !(fixArea true false false).handlerBusy ((fixArea true false false).blocksOf 8) (some c.g) &&
        ((fixArea true false false).blocksOf 8).all fun b => ((fixArea true false false).groupsOf b).all fun e => !e.2.b.loads) = true ∧
    ∀ k, 65536 * k < 8 + ((settled (fixArea true false false)).ckptBody ((settled (fixArea true false false)).free - 1) 8 5
        ((settled (fixArea true false false)).blocksOf 8)).length →
      tlbHolds (ctxOf (fixArea true false false)).q (settled (fixArea true false false)) (0x20000 + 65536 * k) .write
          (0x20000 + 65536 * k) ∧
        ∀ j < 65536, (settled (fixArea true false false)).Serves 0 (0x20000 + 65536 * k + j) := by
  refine ⟨by decide, fun k hk => ?_⟩
  rw [settled_size] at hk
  have h : k < 9 := by omega
  have ht : ∀ k < 9, _ := fun k (h : k < 9) => tlbHolds_of (q := (ctxOf (fixArea true false false)).q)
    (s := settled (fixArea true false false)) (va := 0x20000 + 65536 * k) (pa := 0x20000 + 65536 * k) (kind := .write)
      (by revert k; decide +kernel)
  have hp : ∀ k < 9, pageB (settled (fixArea true false false)) 0 (0x20000 + 65536 * k) = true := by decide +kernel
  exact ⟨ht k h, pageB_serves (hp k h)⟩

theorem witness_eventsComplete :
    (turnOf (fixCopy [copyAt 3 1 1 0x20000 64 false]) 0 0 1 = some (copyAt 3 1 1 0x20000 64 false) ∧
      (copyAt 3 1 1 0x20000 64 false).held = none ∧ (copyAt 3 1 1 0x20000 64 false).active = false) ∧
    (turnOf (fixCopy [lastElement]) 0 0 1 = some lastElement ∧ lastElement.kind = 1 ∧ lastElement.val = none) ∧
    ((quadrantQueue (fixEngine [entryOf 1 .tzero 2 2 false] []) 0 0 0).head? = some (entryOf 1 .tzero 2 2 false)) ∧
    executesB (entryOf 1 .tzero 4 2 true) [] = true := by
  decide
end Sys2Proof
end

section
/-! PROOF. Which quadrants and slots the groups of a block take on a core (R328), read off the seats that are taken already. -/

namespace Sys2Proof.Machine

/-! ## The quadrant that takes the next group -/

/-- The quadrant of a ledger with number q. -/
def quadAt (us : List QUse) (q : Nat) : QUse := us.getD q { slots := [], regs := 0 }

/-- Beyond the quadrants of a ledger nothing is in use. -/
theorem quadAt_of_le {us : List QUse} {q : Nat} (h : us.length ≤ q) : quadAt us q = { slots := [], regs := 0 } := by
  rw [quadAt, List.getD_eq_getElem?_getD, List.getElem?_eq_none h, Option.getD_none]

/-- What the search for a quadrant has found among the quadrants below n: none when none of them has room, else the lowest of those
with room that hold the fewest groups of the block. -/
def BestBelow (us : List QUse) (A n : Nat) : Option Nat → Prop
  | none => ∀ q < n, (quadAt us q).fits A = false
  | some p => p < n ∧ (quadAt us p).fits A = true ∧ ∀ q < n, (quadAt us q).fits A = true →
      (quadAt us p).mine < (quadAt us q).mine ∨ (quadAt us p).mine = (quadAt us q).mine ∧ p ≤ q

theorem pickQuad_best (us : List QUse) (A : Nat) : BestBelow us A us.length (pickQuad us A) := by
  unfold pickQuad
  generalize us.length = n
  induction n with
  | zero => simp [BestBelow]
  | succ n ih =>
    rw [List.range_succ, List.foldl_append, List.foldl_cons, List.foldl_nil]
    generalize (List.range n).foldl _ none = o at ih
    have below : ∀ q < n + 1, q < n ∨ q = n := by omega
    cases hf : (quadAt us n).fits A with
    | false =>
      simp only [show (us.getD n { slots := [], regs := 0 }).fits A = false from hf, Bool.not_false, if_true]
      cases o with
      | none => exact fun q hq => (below q hq).elim (ih q) (fun e => e ▸ hf)
      | some p =>
        obtain ⟨hp, hpf, hbest⟩ := ih
        refine ⟨by omega, hpf, fun q hq hqf => (below q hq).elim (fun h => hbest q h hqf) fun e => ?_⟩
        rw [e, hf] at hqf; cases hqf
    | true =>
      simp only [show (us.getD n { slots := [], regs := 0 }).fits A = true from hf, Bool.not_true, Bool.false_eq_true, if_false]
      cases o with
      | none =>
        refine ⟨by omega, hf, fun q hq hqf => (below q hq).elim (fun h => ?_) fun e => by simp [e]⟩
        rw [ih q h] at hqf; cases hqf
      | some p =>
        obtain ⟨hp, hpf, hbest⟩ := ih
        show BestBelow us A (n + 1) (if (quadAt us n).mine < (quadAt us p).mine then some n else some p)
        split
        · refine ⟨by omega, hf, fun q hq hqf => (below q hq).elim (fun h => ?_) fun e => by simp [e]⟩
          have := hbest q h hqf
          omega
        · refine ⟨by omega, hpf, fun q hq hqf => (below q hq).elim (fun h => hbest q h hqf) fun e => ?_⟩
          subst e
          omega

theorem pickQuad_spec {us : List QUse} {A p : Nat} (h : pickQuad us A = some p) :
    p < us.length ∧ (quadAt us p).fits A = true ∧ ∀ q < us.length, (quadAt us q).fits A = true →
      (quadAt us p).mine < (quadAt us q).mine ∨ (quadAt us p).mine = (quadAt us q).mine ∧ p ≤ q := by
  have := pickQuad_best us A
  rwa [h] at this

/-- The quadrant after it has taken a group of A registers. -/
def QUse.take (u : QUse) (A : Nat) : QUse := { slots := u.free :: u.slots, regs := u.regs + A, mine := u.mine + 1 }

/-- Seating one group more: a quadrant, its lowest free slot, and the rest after it. -/
theorem seatGroups_add_one (A n : Nat) (us : List QUse) : seatGroups A (n + 1) us = (pickQuad us A).bind fun q =>
    (seatGroups A n (us.set q ((quadAt us q).take A))).map fun r => ((q, (quadAt us q).free) :: r.1, r.2) := by
  rw [seatGroups]
  cases pickQuad us A with
  | none => rfl
  | some q =>
    simp only [Option.bind_some]
    change (match seatGroups A n (us.set q ((quadAt us q).take A)) with | none => none | some (l, us) => _) = _
    cases seatGroups A n (us.set q ((quadAt us q).take A)) <;> rfl

theorem seatGroups_succ {A n : Nat} {us ws : List QUse} {l : List (Nat × Nat)} (h : seatGroups A (n + 1) us = some (l, ws)) :
    ∃ q l', pickQuad us A = some q ∧ l = (q, (quadAt us q).free) :: l' ∧
      seatGroups A n (us.set q ((quadAt us q).take A)) = some (l', ws) := by
  rw [seatGroups_add_one, Option.bind_eq_some_iff] at h
  obtain ⟨q, hq, h⟩ := h
  obtain ⟨⟨l', ws'⟩, h', e⟩ := Option.map_eq_some_iff.1 h
  cases e
  exact ⟨q, l', hq, rfl, h'⟩

theorem quadAt_set {us : List QUse} {q : Nat} (hq : q < us.length) (u : QUse) (p : Nat) :
    quadAt (us.set q u) p = if q = p then u else quadAt us p := by
  unfold quadAt
  rw [List.getD_eq_getElem?_getD, List.getD_eq_getElem?_getD, List.getElem?_set]
  split
  · rename_i e; subst e; simp
  · rfl

/-! ## Slots -/

theorem QUse.free_lt (u : QUse) : u.free < 8 := by
  unfold QUse.free
  cases h : (List.range 8).find? fun r => !u.slots.contains r with
  | none => decide
  | some r => exact List.mem_range.1 (List.mem_of_find?_eq_some h)

/-- A quadrant whose slots in use are those below x takes slot x next. -/
theorem QUse.free_of_below {u : QUse} {x : Nat} (hx : x < 8) (h : ∀ i, i ∈ u.slots ↔ i < x) : u.free = x := by
  unfold QUse.free
  have e : (List.range 8).find? (fun r => !u.slots.contains r) = some x := by
    rw [List.find?_range_eq_some]
    refine ⟨by simp [h], List.mem_range.2 hx, fun j hj => by simp [h, hj]⟩
  rw [e]; rfl

theorem QUse.fits_iff (u : QUse) (A : Nat) : u.fits A = true ↔ u.slots.length < 8 ∧ u.regs + A ≤ 512 := by
  simp [QUse.fits]

/-! ## Ledgers that agree -/

/-- Two ledgers of a quadrant give it the same room: as many slots and the same ones, as many registers, as many groups of the block. -/
structure QUse.Alike (u v : QUse) : Prop where
  count : u.slots.length = v.slots.length
  slots : ∀ i, i ∈ u.slots ↔ i ∈ v.slots
  regs : u.regs = v.regs
  mine : u.mine = v.mine

theorem QUse.Alike.fits {u v : QUse} (h : u.Alike v) (A : Nat) : u.fits A = v.fits A := by
  simp only [QUse.fits, h.count, h.regs]

theorem QUse.Alike.free {u v : QUse} (h : u.Alike v) : u.free = v.free := by
  have e : (fun r => !u.slots.contains r) = fun r => !v.slots.contains r := funext fun r => by
    rw [Bool.eq_iff_iff]; simp [h.slots r]
  unfold QUse.free
  rw [e]

theorem QUse.Alike.take {u v : QUse} (h : u.Alike v) (A : Nat) : (u.take A).Alike (v.take A) :=
  ⟨by simp [QUse.take, h.count], fun i => by simp [QUse.take, h.free, h.slots i], by simp [QUse.take, h.regs],
    by simp [QUse.take, h.mine]⟩

theorem pickQuad_alike {us vs : List QUse} (hl : us.length = vs.length) (h : ∀ q, (quadAt us q).Alike (quadAt vs q)) (A : Nat) :
    pickQuad us A = pickQuad vs A := by
  have hf : ∀ q, (us.getD q { slots := [], regs := 0 }).fits A = (vs.getD q { slots := [], regs := 0 }).fits A := fun q => (h q).fits A
  have hm : ∀ q, (us.getD q { slots := [], regs := 0 }).mine = (vs.getD q { slots := [], regs := 0 }).mine := fun q => (h q).mine
  simp only [pickQuad, hl, hf, hm]

/-- Ledgers that agree seat the groups of a block alike. -/
theorem seatGroups_alike {A n : Nat} {us vs ws : List QUse} {l : List (Nat × Nat)} (hl : us.length = vs.length)
    (h : ∀ q, (quadAt us q).Alike (quadAt vs q)) (hs : seatGroups A n us = some (l, ws)) : ∃ ws', seatGroups A n vs = some (l, ws') := by
  induction n generalizing us vs l with
  | zero => cases hs; exact ⟨_, rfl⟩
  | succ n ih =>
    obtain ⟨q, l', hq, rfl, hs'⟩ := seatGroups_succ hs
    have hq' := (pickQuad_alike hl h A).symm.trans hq
    have hlt := (pickQuad_spec hq).1
    obtain ⟨ws', h'⟩ := ih (vs := vs.set q ((quadAt vs q).take A)) (by simp [hl]) (fun p => by
      rw [quadAt_set hlt, quadAt_set (hl ▸ hlt)]
      split
      · exact (h q).take A
      · exact h p) hs'
    rw [(h q).free]
    exact ⟨ws', by rw [seatGroups_add_one, hq', Option.bind_some, h']; rfl⟩

/-! ## Ledgers of seats -/

/-- A ledger of four quadrants in which groups of A registers have the given seats. -/
structure Seated (A : Nat) (us : List QUse) (S : List (Nat × Nat)) : Prop where
  quads : us.length = 4
  count : ∀ q < 4, (quadAt us q).slots.length = S.countP (·.1 == q)
  regs : ∀ q < 4, (quadAt us q).regs = A * S.countP (·.1 == q)
  slots : ∀ q < 4, ∀ i, i ∈ (quadAt us q).slots ↔ (q, i) ∈ S

theorem Seated.take {A q : Nat} {us : List QUse} {S : List (Nat × Nat)} (h : Seated A us S) (hq : q < us.length) :
    Seated A (us.set q ((quadAt us q).take A)) (S ++ [(q, (quadAt us q).free)]) := by
  have hq4 : q < 4 := h.quads ▸ hq
  refine ⟨by simp [h.quads], fun p hp => ?_, fun p hp => ?_, fun p hp i => ?_⟩ <;> rw [quadAt_set hq] <;> split
  · subst_vars; simp [QUse.take, h.count p hq4]
  · rename_i e; simp [h.count p hp, e]
  · subst_vars; simp [QUse.take, h.regs p hq4, Nat.mul_add]
  · rename_i e; simp [h.regs p hp, e]
  · subst_vars; simp [QUse.take, h.slots p hq4, or_comm]
  · rename_i e; simp [h.slots p hp, Ne.symm e]

/-- The groups of a block take seats beside those that are taken. -/
theorem Seated.seatGroups {A n : Nat} {us ws : List QUse} {S l : List (Nat × Nat)} (h : Seated A us S)
    (hs : seatGroups A n us = some (l, ws)) : Seated A ws (S ++ l) := by
  induction n generalizing us S l with
  | zero => cases hs; simpa using h
  | succ n ih =>
    obtain ⟨q, l', hq, rfl, hs'⟩ := seatGroups_succ hs
    simpa using ih (h.take (pickQuad_spec hq).1) hs'

/-- The ledger for a new block: none of its groups is seated. -/
def renew (us : List QUse) : List QUse := us.map fun u => { u with mine := 0 }

theorem quadAt_renew (us : List QUse) (q : Nat) : quadAt (renew us) q = { quadAt us q with mine := 0 } := by
  unfold quadAt renew
  rw [List.getD_eq_getElem?_getD, List.getD_eq_getElem?_getD, List.getElem?_map]
  cases us[q]? <;> rfl

theorem Seated.renew {A : Nat} {us : List QUse} {S : List (Nat × Nat)} (h : Seated A us S) : Seated A (renew us) S :=
  ⟨by simp [Machine.renew, h.quads], fun q hq => by rw [quadAt_renew]; exact h.count q hq,
    fun q hq => by rw [quadAt_renew]; exact h.regs q hq, fun q hq i => by rw [quadAt_renew]; exact h.slots q hq i⟩

theorem seated_emptyQuads (A : Nat) : Seated A emptyQuads [] := by
  have e : ∀ q < 4, quadAt emptyQuads q = { slots := [], regs := 0 } := by decide
  exact ⟨rfl, fun q hq => by simp [e q hq], fun q hq => by simp [e q hq], fun q hq i => by simp [e q hq]⟩

/-- Two ledgers of the same seats agree, before a group of a new block is seated. -/
theorem Seated.alike {A : Nat} {us vs : List QUse} {S : List (Nat × Nat)} (hu : Seated A us S) (hv : Seated A vs S)
    (mu : ∀ q, (quadAt us q).mine = 0) (mv : ∀ q, (quadAt vs q).mine = 0) (q : Nat) : (quadAt us q).Alike (quadAt vs q) := by
  by_cases hq : q < 4
  · exact ⟨(hu.count q hq).trans (hv.count q hq).symm, fun i => (hu.slots q hq i).trans (hv.slots q hq i).symm,
      (hu.regs q hq).trans (hv.regs q hq).symm, (mu q).trans (mv q).symm⟩
  · rw [quadAt_of_le (by rw [hu.quads]; omega), quadAt_of_le (by rw [hv.quads]; omega)]
    exact ⟨rfl, fun _ => Iff.rfl, rfl, rfl⟩

theorem seatGroups_length {A n : Nat} {us ws : List QUse} {l : List (Nat × Nat)} (h : seatGroups A n us = some (l, ws)) :
    l.length = n := by
  induction n generalizing us l with
  | zero => cases h; rfl
  | succ n ih =>
    obtain ⟨q, l', -, rfl, h'⟩ := seatGroups_succ h
    simp [ih h']

theorem seatGroups_lt {A n : Nat} {us ws : List QUse} {l : List (Nat × Nat)} (hu : us.length = 4)
    (h : seatGroups A n us = some (l, ws)) : ∀ x ∈ l, x.1 < 4 ∧ x.2 < 8 := by
  induction n generalizing us l with
  | zero => cases h; simp
  | succ n ih =>
    obtain ⟨q, l', hq, rfl, h'⟩ := seatGroups_succ h
    exact List.forall_mem_cons.2 ⟨⟨hu ▸ (pickQuad_spec hq).1, QUse.free_lt _⟩, ih (by simp [hu]) h'⟩

/-! ## Round the quadrants -/

/-- On an otherwise empty core m groups of a block stand in turn in the four quadrants, each in the slots from 0. -/
structure RoundRobin (A m : Nat) (us : List QUse) : Prop where
  quads : us.length = 4
  mine : ∀ q < 4, (quadAt us q).mine = (m + 3 - q) / 4
  regs : ∀ q < 4, (quadAt us q).regs = A * ((m + 3 - q) / 4)
  count : ∀ q < 4, (quadAt us q).slots.length = (m + 3 - q) / 4
  slots : ∀ q < 4, ∀ i, i ∈ (quadAt us q).slots ↔ i < (m + 3 - q) / 4

/-- An empty core. -/
theorem RoundRobin.zero {A : Nat} {us : List QUse} (h : Seated A us []) (hm : ∀ q, (quadAt us q).mine = 0) : RoundRobin A 0 us := by
  have z : ∀ q < 4, (0 + 3 - q) / 4 = 0 := by omega
  exact ⟨h.quads, fun q hq => by rw [hm, z q hq], fun q hq => by simpa [z q hq] using h.regs q hq,
    fun q hq => by simpa [z q hq] using h.count q hq, fun q hq i => by simpa [z q hq] using h.slots q hq i⟩

/-- The next group takes the quadrant whose turn it is, and the slot above those in use. -/
theorem RoundRobin.next {A m p : Nat} {us : List QUse} (h : RoundRobin A m us) (hp : pickQuad us A = some p) :
    p = m % 4 ∧ (quadAt us p).free = m / 4 := by
  obtain ⟨hlt, hfit, hbest⟩ := pickQuad_spec hp
  rw [h.quads] at hlt hbest
  have hr : m % 4 < 4 := Nat.mod_lt _ (by decide)
  have er : (m + 3 - m % 4) / 4 = m / 4 := by omega
  have le : m / 4 ≤ (m + 3 - p) / 4 := by omega
  have hfit' := hfit
  rw [QUse.fits_iff, h.count p hlt, h.regs p hlt] at hfit
  have fits : (quadAt us (m % 4)).fits A = true := by
    rw [QUse.fits_iff, h.count _ hr, h.regs _ hr, er]
    have := Nat.mul_le_mul_left A le
    omega
  have hmin := hbest _ hr fits
  rw [h.mine p hlt, h.mine _ hr, er] at hmin
  have e : p = m % 4 := by omega
  refine ⟨e, ?_⟩
  have hx := QUse.free_of_below hfit.1 (h.slots p hlt)
  rw [hx, e, er]

theorem RoundRobin.take {A m : Nat} {us : List QUse} (h : RoundRobin A m us)
    (hf : (quadAt us (m % 4)).free = m / 4) : RoundRobin A (m + 1) (us.set (m % 4) ((quadAt us (m % 4)).take A)) := by
  have hr : m % 4 < 4 := Nat.mod_lt _ (by decide)
  have hq : m % 4 < us.length := h.quads ▸ hr
  have turn : (m + 1 + 3 - m % 4) / 4 = (m + 3 - m % 4) / 4 + 1 := by omega
  have top : (m + 3 - m % 4) / 4 = m / 4 := by omega
  have other : ∀ p < 4, m % 4 ≠ p → (m + 1 + 3 - p) / 4 = (m + 3 - p) / 4 := by omega
  refine ⟨by simp [h.quads], fun p hp => ?_, fun p hp => ?_, fun p hp => ?_, fun p hp i => ?_⟩ <;> rw [quadAt_set hq] <;>
    by_cases e : m % 4 = p
  · rw [if_pos e, ← e, turn]; simp [QUse.take, h.mine _ hr]
  · rw [if_neg e, other p hp e, h.mine p hp]
  · rw [if_pos e, ← e, turn]; simp [QUse.take, h.regs _ hr, Nat.mul_add]
  · rw [if_neg e, other p hp e, h.regs p hp]
  · rw [if_pos e, ← e, turn]; simp [QUse.take, h.count _ hr]
  · rw [if_neg e, other p hp e, h.count p hp]
  · rw [if_pos e, ← e, turn]
    simp only [QUse.take, List.mem_cons, hf, h.slots _ hr]
    omega
  · rw [if_neg e, other p hp e]; exact h.slots p hp i

/-- Of the only block of a core the groups go round the quadrants (R328). -/
theorem RoundRobin.seatGroups {A n m : Nat} {us ws : List QUse} {l : List (Nat × Nat)} (h : RoundRobin A m us)
    (hs : seatGroups A n us = some (l, ws)) : ∀ i < n, l.getD i (0, 0) = ((m + i) % 4, (m + i) / 4) := by
  induction n generalizing us m l with
  | zero => omega
  | succ n ih =>
    obtain ⟨q, l', hq, rfl, hs'⟩ := seatGroups_succ hs
    obtain ⟨rfl, hf⟩ := h.next hq
    rintro (_ | i) hi
    · simp [hf]
    · rw [List.getD_cons_succ, ih (h.take hf) hs' i (by omega)]
      congr 2 <;> omega

end Sys2Proof.Machine
end

section
/-! PROOF. What placing one new block of a launch on a core does to the state (R169, R200, R322, R327, R328). -/

namespace Sys2Proof.Machine

/-! ## Keyed lists that grow at the end -/

section keyed
variable {κ α : Type} [DecidableEq κ]

theorem alook_eq_none_iff {m : List (κ × α)} {k : κ} : alook m k = none ↔ ∀ e ∈ m, e.1 ≠ k := by
  induction m with
  | nil => simp [alook]
  | cons e m ih =>
    obtain ⟨j, v⟩ := e
    by_cases h : j = k <;> simp [alook, h, ih]

theorem alook_append (m n : List (κ × α)) (k : κ) : alook (m ++ n) k = (alook m k).or (alook n k) := by
  induction m with
  | nil => rfl
  | cons e m ih =>
    obtain ⟨j, v⟩ := e
    by_cases h : j = k <;> simp [alook, h, ih]

theorem mem_of_alook {m : List (κ × α)} {k : κ} {v : α} (h : alook m k = some v) : (k, v) ∈ m := by
  induction m with
  | nil => cases h
  | cons e m ih =>
    obtain ⟨j, w⟩ := e
    by_cases hj : j = k
    · simp only [alook, hj, if_true, Option.some.injEq] at h
      simp [hj, h]
    · simp only [alook, hj, if_false] at h
      exact List.mem_cons_of_mem _ (ih h)

theorem aput_of_none {m : List (κ × α)} {k : κ} (h : alook m k = none) (v : α) : aput k v m = m ++ [(k, v)] := by
  induction m with
  | nil => rfl
  | cons e m ih =>
    obtain ⟨j, w⟩ := e
    by_cases hj : j = k
    · simp [alook, hj] at h
    · simp only [alook, hj, if_false] at h
      simp [aput, hj, ih h]

theorem amod_append_of_none {m : List (κ × α)} {k : κ} (h : alook m k = none) (f : α → α) (n : List (κ × α)) :
    amod k f (m ++ n) = m ++ amod k f n := by
  induction m with
  | nil => rfl
  | cons e m ih =>
    obtain ⟨j, w⟩ := e
    by_cases hj : j = k
    · simp [alook, hj] at h
    · simp only [alook, hj, if_false] at h
      simp [amod, hj, ih h]

theorem foldl_amod_append_of_none {m : List (κ × α)} {key : Nat → κ} (h : ∀ i, alook m (key i) = none) (f : Nat → α → α)
    (L : List Nat) (n : List (κ × α)) :
    L.foldl (fun x i => amod (key i) (f i) x) (m ++ n) = m ++ L.foldl (fun x i => amod (key i) (f i) x) n := by
  induction L generalizing n with
  | nil => rfl
  | cons i L ih => rw [List.foldl_cons, amod_append_of_none (h i), ih, List.foldl_cons]

variable {key : Nat → κ} (hk : Function.Injective key)
include hk

theorem alook_map_key (n : Nat) (v : Nat → α) {i : Nat} (hi : i < n) :
    alook ((List.range n).map fun j => (key j, v j)) (key i) = some (v i) := by
  induction n with
  | zero => omega
  | succ n ih =>
    rw [List.range_succ, List.map_append, alook_append]
    by_cases h : i < n
    · rw [ih h]; rfl
    · obtain rfl : i = n := by omega
      have : alook ((List.range i).map fun j => (key j, v j)) (key i) = none :=
        alook_eq_none_iff.2 fun e he => by
          obtain ⟨j, hj, rfl⟩ := List.mem_map.1 he
          exact fun e => Nat.ne_of_lt (List.mem_range.1 hj) (hk e)
      rw [this]; simp [alook]

theorem foldl_aput_of_none (m : List (κ × α)) (n : Nat) (v : Nat → α) (h : ∀ i, alook m (key i) = none) :
    (List.range n).foldl (fun m i => aput (key i) (v i) m) m = m ++ (List.range n).map fun i => (key i, v i) := by
  induction n with
  | zero => simp
  | succ n ih =>
    rw [List.range_succ, List.foldl_append, ih, List.map_append, ← List.append_assoc]
    refine aput_of_none ?_ _
    rw [alook_append, h, Option.none_or, alook_eq_none_iff]
    rintro e he
    obtain ⟨j, hj, rfl⟩ := List.mem_map.1 he
    exact fun e => Nat.ne_of_lt (List.mem_range.1 hj) (hk e)

theorem amod_map_key {L : List Nat} (hL : L.Nodup) (v : Nat → α) (i : Nat) (f : α → α) :
    amod (key i) f (L.map fun j => (key j, v j)) = L.map fun j => (key j, if j = i then f (v j) else v j) := by
  induction L with
  | nil => rfl
  | cons j L ih =>
    obtain ⟨hj, hL⟩ := List.nodup_cons.1 hL
    simp only [List.map_cons, amod, hk.eq_iff]
    split
    · rename_i e
      refine congrArg _ (List.map_congr_left fun x hx => ?_)
      rw [if_neg]
      rintro rfl
      exact hj (e ▸ hx)
    · rw [ih hL]

/-- Every entry of a list with numbered keys changed once. -/
theorem foldl_amod_map_key (n : Nat) (v : Nat → α) (f : Nat → α → α) :
    (List.range n).foldl (fun m i => amod (key i) (f i) m) ((List.range n).map fun j => (key j, v j)) =
      (List.range n).map fun j => (key j, f j (v j)) := by
  have upTo : ∀ k, (List.range k).foldl (fun m i => amod (key i) (f i) m) ((List.range n).map fun j => (key j, v j)) =
      (List.range n).map fun j => (key j, if j < k then f j (v j) else v j) := by
    intro k
    induction k with
    | zero => simp
    | succ k ih =>
      rw [List.range_succ, List.foldl_append, ih, List.foldl_cons, List.foldl_nil, amod_map_key hk List.nodup_range]
      refine List.map_congr_left fun j _ => ?_
      by_cases e : j = k
      · simp [e]
      · have : j < k + 1 ↔ j < k := by omega
        simp [e, this]
  rw [upTo]
  exact List.map_congr_left fun j hj => by rw [if_pos (List.mem_range.1 hj)]

end keyed

theorem mget_map {α : Type} (d : α) (g : α → α) (hg : g d = d) (m : SMap α) (k : Nat) :
    mget d (m.map fun e => (e.1, g e.2)) k = g (mget d m k) := by
  induction m with
  | nil => exact hg.symm
  | cons e m ih =>
    obtain ⟨j, v⟩ := e
    by_cases h : j = k <;> simp [mget, h, ih]

/-! ## New blocks and groups -/

/-- One alphabet register of a new block: the record's value, unless that is zero (R200). -/
def Launch.alStep (l : Launch) (b : Block) (n : Nat) : Block :=
  if l.record.getD (14 + n) 0 = 0 then b else b.setAl n (l.record.getD (14 + n) 0)

theorem newBlock_foldl (l : Launch) : l.newBlock = (List.range 8).foldl l.alStep {} := rfl

/-- Of a new block only alphabet registers are set. -/
theorem newBlock_eq (l : Launch) : l.newBlock = { al := l.newBlock.al } := by
  rw [newBlock_foldl]
  refine List.foldlRecOn (motive := fun b : Block => b = { al := b.al }) _ _ rfl fun b hb n _ => ?_
  unfold Launch.alStep
  split
  · exact hb
  · rw [Block.setAl, hb]

/-- The alphabet registers of a new block (R200). -/
theorem getAl_newBlock (l : Launch) {n : Nat} (hn : n < 8) :
    l.newBlock.getAl n = if l.record.getD (14 + n) 0 = 0 then 0x00FF020000000000 else l.record.getD (14 + n) 0 := by
  have upTo : ∀ k, ((List.range k).foldl l.alStep {}).getAl n =
      if n < k ∧ l.record.getD (14 + n) 0 ≠ 0 then l.record.getD (14 + n) 0 else alReset := by
    intro k
    induction k with
    | zero => rfl
    | succ k ih =>
      rw [List.range_succ, List.foldl_append, List.foldl_cons, List.foldl_nil, Launch.alStep]
      by_cases e : n = k
      · subst e
        split <;> simp_all [Block.getAl, Block.setAl]
      · have hlt : n < k + 1 ↔ n < k := by omega
        simp only [hlt, ← ih]
        split
        · rfl
        · exact mget_mset_of_ne _ _ _ _ _ (Ne.symm e)
  rw [newBlock_foldl, upTo]
  simp [hn, alReset]

/-- A new block on its core. -/
def Launch.blockOn (l : Launch) (die c at_ : Nat) : Block := { l.newBlock with place := .core die c, placedAt := at_ }

/-- A group in the quadrant and slot of its seat. -/
def Grp.sit (x : Nat × Nat) (r : Grp) : Grp := { r with quad := x.1, rslot := x.2 }

/-- The groups of a new block in their seats. -/
def Launch.groupIn (l : Launch) (f : Nat) (seats : List (Nat × Nat)) (i : Nat) : Grp := (l.newGroup f i).sit (seats.getD i (0, 0))

def Launch.groupsIn (l : Launch) (k f : Nat) (seats : List (Nat × Nat)) : List (GId × Grp) :=
  (List.range l.groupsPerBlock).map fun i => (.grp k f i, l.groupIn f seats i)

theorem grp_injective (k f : Nat) : Function.Injective (GId.grp k f) := fun _ _ h => by cases h; rfl

/-- The state with P of a core set, its L1 as it was. -/
def State.withP (s : State) (die c p : Nat) : State := s.modCore die c fun x => { x with p := p }

theorem core_withP (s : State) (die c p c' : Nat) :
    (s.withP die c p).core die c' = if c = c' then { s.core die c with p := p } else s.core die c' := by
  rw [State.withP, State.core_modCore]
  simp only [Nat.add_left_cancel_iff]

/-- The state with one new block more on a core, its groups in the given seats. -/
def State.start (s : State) (k : Nat) (l : Launch) (f die c : Nat) (seats : List (Nat × Nat)) : State :=
  { s with
    seq := s.seq + 1
    blocks := s.blocks ++ [(⟨k, f⟩, l.blockOn die c s.seq)]
    groups := s.groups ++ l.groupsIn k f seats }

/-! ## The steps of a placing -/

theorem CachesOnly.blocks {s t : State} (h : CachesOnly s t) : t.blocks = s.blocks := by have e := congrArg State.blocks h.rest; exact e
theorem CachesOnly.fencing {s t : State} (h : CachesOnly s t) : t.fencing = s.fencing := by have e := congrArg State.fencing h.rest; exact e
theorem CachesOnly.seq {s t : State} (h : CachesOnly s t) : t.seq = s.seq := by have e := congrArg State.seq h.rest; exact e

theorem CachesOnly.start {s t : State} (h : CachesOnly s t) (k : Nat) (l : Launch) (f die c : Nat) (seats : List (Nat × Nat)) :
    CachesOnly (s.start k l f die c seats) (t.start k l f die c seats) := by
  refine ⟨?_, h.die, h.core⟩
  have e := congrArg (fun x : State => { x with
    seq := s.seq + 1
    blocks := s.blocks ++ [((⟨k, f⟩ : BId), l.blockOn die c s.seq)]
    groups := s.groups ++ l.groupsIn k f seats }) h.rest
  simp only [State.start, h.seq, h.blocks, h.groups]
  exact e

/-- A core that has the value already. -/
theorem CachesOnly.sameP {s : State} {die c p : Nat} (h : (s.core die c).p = p) :
    CachesOnly (s.withP die c p) s := by
  refine ⟨rfl, fun _ => rfl, fun d k => ?_⟩
  rw [State.withP, State.core_modCore]
  split
  · rename_i e
    have : s.core d k = s.core die c := by simp [State.core, e]
    rw [this, ← h]
  · rfl

/-- A core changed in two states that differ in their caches. -/
theorem CachesOnly.modCores {s t : State} (h : CachesOnly s t) (die c : Nat) (f g : Core → Core)
    (hfg : ∀ x y : Core, ({ y with l1 := [] } : Core) = { x with l1 := [] } → ({ g y with l1 := [] } : Core) = { f x with l1 := [] }) :
    CachesOnly (s.modCore die c f) (t.modCore die c g) := by
  refine ⟨?_, h.die, fun d k => ?_⟩
  · have e := congrArg (fun x : State => { x with cores := (s.modCore die c f).cores }) h.rest
    exact e
  · rw [State.core_modCore, State.core_modCore]
    split
    · exact hfg _ _ (h.core die c)
    · exact h.core d k

/-- Setting P writes back and drops the core's L1 lines (R169). -/
theorem caches_setP {s : State} (hq : s.Quiet) (die c p : Nat) :
    CachesOnly (s.withP die c p) (s.setP die c p) := by
  unfold State.setP
  split
  · rename_i h; exact CachesOnly.sameP h
  · have h := (Caches.foldl (fun (t : State) (x : L1Line) => t.l1Merge (s.partOfDie die) x.line x.mask) (fun t x => caches_l1Merge ..)
      (s.core die c).l1 s).only hq
    exact h.modCores die c _ _ fun x y e => by
      have e' := congrArg (fun z : Core => { z with p := p }) e
      exact e'

/-- The groups of a block that run need no handler. -/
theorem requeueTraps_running {s : State} {b : BId} (h : ∀ e ∈ s.groupsOf b, e.2.run = .running) : s.requeueTraps b = s := by
  unfold State.requeueTraps
  generalize s.groupsOf b = L at h
  induction L generalizing s with
  | nil => rfl
  | cons e L ih =>
    obtain ⟨he, hL⟩ := List.forall_mem_cons.1 h
    rw [List.foldl_cons, he]
    exact ih hL

theorem seat_eq (s : State) (b : BId) (seats : List (Nat × Nat)) : s.seat b seats = { s with
    groups := (List.range seats.length).foldl (fun m i => amod (.grp b.launch b.flat i)
      (Grp.sit (seats.getD i (0, 0))) m) s.groups } := by
  unfold State.seat
  generalize List.range seats.length = L
  induction L generalizing s with
  | nil => rfl
  | cons i L ih => rw [List.foldl_cons, ih]; rfl

/-! ## A core as a new block finds it -/

/-- A core that is open to blocks of launch l (of key k) holds j blocks, all of them of l and with their groups in the seats S, under
the P of l. -/
structure Holding (s : State) (k : Nat) (l : Launch) (die c j : Nat) (S : List (Nat × Nat)) : Prop where
  count : (s.residents die c).length = j
  mine : ∀ e ∈ s.residents die c, e.1.launch = k
  left : s.leaving die c = []
  seats : Seated l.valloc (s.quadUse die c) S
  part : 0 < j → (s.core die c).p = l.pFor
  sound : (s.core die c).fenced = false
  want : (s.core die c).want = none

theorem total_eq_sum (l : List Nat) : total l = l.sum := List.sum_eq_foldl.symm

/-- What the blocks of one launch on a core take together. -/
theorem Holding.total {s : State} {k die c j : Nat} {l : Launch} {S : List (Nat × Nat)} (h : Holding s k l die c j S)
    (hl : s.launch k = l) (f : Launch → Nat) : total ((s.residents die c).map fun e => f (s.launch e.1.launch)) = j * f l := by
  have e : (s.residents die c).map (fun e => f (s.launch e.1.launch)) = List.replicate j (f l) :=
    List.eq_replicate_iff.2 ⟨by simp [h.count], fun x hx => by
      obtain ⟨e, he, rfl⟩ := List.mem_map.1 hx
      rw [h.mine e he, hl]⟩
  rw [e, total_eq_sum, List.sum_replicate_nat]

theorem Holding.coreFree {s : State} {k die c j : Nat} {l : Launch} {S : List (Nat × Nat)} (h : Holding s k l die c j S) :
    s.coreFree die c = decide (j = 0) := by
  rw [State.coreFree, h.left, ← h.count]
  cases s.residents die c <;> simp

theorem Holding.pOn {s : State} {k die c j : Nat} {l : Launch} {S : List (Nat × Nat)} (h : Holding s k l die c j S) :
    s.pOn l die c = l.pFor := by
  rw [State.pOn, h.coreFree]
  by_cases e : j = 0
  · simp [e]
  · simp [e, h.part (by omega)]

/-- Where launch l (of key k) may be placed: a die that is open and of its partition, no memory error standing in the way. -/
structure OpenFor (s : State) (k : Nat) (l : Launch) (die : Nat) : Prop where
  launch : s.launch? k = some l
  opened : s.dieOpen die = true
  part : s.partOfDie die = l.part
  quiet : s.Quiet

theorem OpenFor.launch_eq {s : State} {k die : Nat} {l : Launch} (h : OpenFor s k l die) : s.launch k = l := by
  simp [State.launch, h.launch]

/-- A block of a launch of which the state knows nothing. -/
def State.Absent (s : State) (k f : Nat) : Prop := s.block? ⟨k, f⟩ = none ∧ ∀ m, s.grp? (.grp k f m) = none

/-- The scratchpad suffices for n blocks of the launch (R170). -/
structure Launch.ScratchFor (l : Launch) (n : Nat) : Prop where
  scratch : n * l.scratch ≤ l.pFor
  pre : l.pre = true → 2 * (n * l.scratch) ≤ l.pFor

theorem Launch.ScratchFor.mono {l : Launch} {m n : Nat} (h : l.ScratchFor n) (hm : m ≤ n) : l.ScratchFor m := by
  have := Nat.mul_le_mul_right l.scratch hm
  exact ⟨Nat.le_trans this h.scratch, fun hp => Nat.le_trans (Nat.mul_le_mul_left 2 this) (h.pre hp)⟩

/-- After j blocks of l a core has the scratchpad for one more. -/
theorem Launch.ScratchFor.fits {l : Launch} {j : Nat} (h : l.ScratchFor (j + 1)) :
    l.scratchFits l.pFor (j * l.scratch) (j * if l.pre then l.scratch else 0) = true := by
  have h1 := h.scratch
  rw [Nat.add_mul, Nat.one_mul] at h1
  unfold Launch.scratchFits
  cases hp : l.pre with
  | false => simpa using h1
  | true =>
    have h2 := h.pre hp
    rw [Nat.add_mul, Nat.one_mul] at h2
    simpa using ⟨h1, h2⟩

/-- The groups of a block that was unknown are the new ones, which run. -/
theorem run_of_new {gs : List (GId × Grp)} {k f : Nat} (hg : ∀ i, alook gs (.grp k f i) = none) {l : Launch} {seats : List (Nat × Nat)}
    {e : GId × Grp} (he : e ∈ gs ++ l.groupsIn k f seats) (hh : isHdl e.1 = false) (hb : bidOf e.1 = ⟨k, f⟩) : e.2.run = .running := by
  rcases List.mem_append.1 he with he | he
  · obtain ⟨g, r⟩ := e
    cases g with
    | hdl => cases hh
    | grp k' f' i =>
      cases hb
      exact absurd rfl (alook_eq_none_iff.1 (hg i) _ he)
  · obtain ⟨i, -, rfl⟩ := List.mem_map.1 he
    rfl

/-- A state without block f of the launch after its new block and the groups of it have been entered and seated. -/
theorem start_eq {u : State} {k f : Nat} (hn : u.Absent k f) (l : Launch) (die c : Nat) {seats : List (Nat × Nat)}
    (hlen : seats.length = l.groupsPerBlock) :
    ((({ u with
        seq := u.seq + 1
        blocks := aput ⟨k, f⟩ l.newBlock u.blocks
        groups := (List.range l.groupsPerBlock).foldl (fun gs i => aput (.grp k f i) (l.newGroup f i) gs) u.groups } : State).modBlock
          ⟨k, f⟩ fun x => { x with place := .core die c, placedAt := u.seq, image := none }).seat ⟨k, f⟩ seats).requeueTraps ⟨k, f⟩ =
      u.start k l f die c seats := by
  obtain ⟨hb, hg⟩ := hn
  have eb : amod ⟨k, f⟩ (fun x => { x with place := .core die c, placedAt := u.seq, image := none })
      (aput ⟨k, f⟩ l.newBlock u.blocks) = u.blocks ++ [(⟨k, f⟩, l.blockOn die c u.seq)] := by
    rw [aput_of_none hb, amod_append_of_none hb, Launch.blockOn, newBlock_eq]
    simp [amod]
  have eg : (List.range seats.length).foldl (fun m i => amod (.grp k f i)
      (Grp.sit (seats.getD i (0, 0))) m)
      ((List.range l.groupsPerBlock).foldl (fun gs i => aput (.grp k f i) (l.newGroup f i) gs) u.groups) =
      u.groups ++ l.groupsIn k f seats := by
    rw [foldl_aput_of_none (grp_injective k f) _ _ _ hg, foldl_amod_append_of_none hg, hlen,
      foldl_amod_map_key (grp_injective k f) _ _ fun i => Grp.sit (seats.getD i (0, 0))]
    rfl
  rw [seat_eq]
  simp only [State.modBlock, eb, eg]
  refine requeueTraps_running fun e he => ?_
  obtain ⟨he, hmine⟩ := List.mem_filter.1 he
  rw [Bool.and_eq_true, Bool.not_eq_true', beq_iff_eq] at hmine
  exact run_of_new hg he hmine.1 hmine.2

/-- A new block that has room is placed, and nothing else changes but caches. -/
theorem placeBlock_new {s : State} {k die c j f : Nat} {l : Launch} {S seats : List (Nat × Nat)} {ws : List QUse}
    (ho : OpenFor s k l die) (h : Holding s k l die c j S) (hn : s.Absent k f) (hsc : l.ScratchFor (j + 1))
    (ht : j * l.tilePairs + l.tilePairs ≤ 8)
    (hs : seatGroups l.valloc l.groupsPerBlock (s.quadUse die c) = some (seats, ws)) :
    ∃ t, s.placeBlock ⟨k, f⟩ die c = some t ∧
      CachesOnly ((s.withP die c l.pFor).start k l f die c seats) t := by
  generalize hu : (if s.coreFree die c then s.setP die c l.pFor else s) = u
  have hc : CachesOnly (s.withP die c l.pFor) u := by
    rw [← hu, h.coreFree]
    by_cases e : j = 0
    · simpa [e] using caches_setP ho.quiet die c l.pFor
    · simpa [e] using CachesOnly.sameP (h.part (by omega))
  have hnu : u.Absent k f := by
    simpa [State.Absent, State.block?, State.grp?, hc.blocks, hc.groups, State.withP] using hn
  refine ⟨_, ?_, hc.start k l f die c seats⟩
  rw [← start_eq hnu l die c (seatGroups_length hs)]
  unfold State.placeBlock
  have hw : s.wanted die c = none := by simp [State.wanted, h.want]
  have used := h.total ho.launch_eq Launch.scratch
  have pre := h.total ho.launch_eq fun l => if l.pre then l.scratch else 0
  have tiles := h.total ho.launch_eq Launch.tilePairs
  simp only [ho.launch_eq, h.pOn, hs, hn.1, hu, hnu.1, ho.opened, h.sound, ho.part, hw, used, pre, tiles, hsc.fits, Option.getD_none,
    beq_self_eq_true, Bool.not_false, Bool.and_self, Bool.not_true, Bool.or_false, Nat.not_lt.2 ht, decide_false]
  exact if_neg Bool.false_ne_true

end Sys2Proof.Machine
end

section
/-! PROOF. The cores of a die while blocks of one launch are placed on them one after another. -/

namespace Sys2Proof.Machine

/-! ## What a core holds after a new block has started -/

section start
variable {u : State} {k f : Nat} {l : Launch} {seats : List (Nat × Nat)}

theorem block_start (die c : Nat) {b : BId} (hb : b ≠ ⟨k, f⟩) : (u.start k l f die c seats).block? b = u.block? b := by
  simp [State.start, State.block?, alook_append, alook, Ne.symm hb]

theorem block_start_self (die c : Nat) (hn : u.Absent k f) :
    (u.start k l f die c seats).block? ⟨k, f⟩ = some (l.blockOn die c u.seq) := by
  have h : alook u.blocks ⟨k, f⟩ = none := hn.1
  simp [State.start, State.block?, alook_append, h, alook]

theorem grp_start (die c : Nat) {f' : Nat} (hf : f' ≠ f) (m : Nat) :
    (u.start k l f die c seats).grp? (.grp k f' m) = u.grp? (.grp k f' m) := by
  have h : alook (l.groupsIn k f seats) (.grp k f' m) = none := alook_eq_none_iff.2 fun e he => by
    obtain ⟨i, -, rfl⟩ := List.mem_map.1 he
    rintro ⟨⟩
    exact hf rfl
  simp [State.start, State.grp?, alook_append, h]

theorem grp_start_self (die c : Nat) (hn : u.Absent k f) {m : Nat} (hm : m < l.groupsPerBlock) :
    (u.start k l f die c seats).grp? (.grp k f m) = some (l.groupIn f seats m) := by
  have h : alook u.groups (.grp k f m) = none := hn.2 m
  simp [State.start, State.grp?, alook_append, h, Launch.groupsIn, alook_map_key (grp_injective k f) _ _ hm]

theorem residents_start (die c c' : Nat) : (u.start k l f die c seats).residents die c' =
    u.residents die c' ++ if c = c' then [(⟨k, f⟩, l.blockOn die c u.seq)] else [] := by
  simp only [State.residents, State.start, List.filter_append, Launch.blockOn]
  split <;> simp_all

theorem leaving_start (die c c' : Nat) : (u.start k l f die c seats).leaving die c' = u.leaving die c' := by
  simp [State.leaving, State.start, Launch.blockOn]

theorem quadGroups_start (die c c' q : Nat) (hn : u.Absent k f) : (u.start k l f die c seats).quadGroups die c' q =
    u.quadGroups die c' q ++ if c = c' then (l.groupsIn k f seats).filter fun e => e.2.quad == q else [] := by
  have old : ∀ e ∈ u.groups, isHdl e.1 = false → (u.start k l f die c seats).block (bidOf e.1) = u.block (bidOf e.1) := by
    intro e he hh
    rw [State.block, State.block, block_start]
    intro hb
    obtain ⟨g, r⟩ := e
    cases g with
    | hdl => cases hh
    | grp k' f' i =>
      cases hb
      exact alook_eq_none_iff.1 (hn.2 i) _ he rfl
  have new : (u.start k l f die c seats).block ⟨k, f⟩ = l.blockOn die c u.seq := by
    rw [State.block, block_start_self die c hn]; rfl
  unfold State.quadGroups
  rw [show (u.start k l f die c seats).groups = u.groups ++ l.groupsIn k f seats from rfl, List.filter_append]
  congr 1
  · refine List.filter_congr fun e he => ?_
    cases hh : isHdl e.1 with
    | true => rfl
    | false => rw [old e he hh]
  · have e : ∀ e ∈ l.groupsIn k f seats, isHdl e.1 = false ∧ bidOf e.1 = ⟨k, f⟩ := fun e he => by
      obtain ⟨i, -, rfl⟩ := List.mem_map.1 he
      exact ⟨rfl, rfl⟩
    split
    · subst_vars
      refine List.filter_congr fun x hx => ?_
      obtain ⟨h1, h2⟩ := e x hx
      simp [h1, h2, new, Launch.blockOn]
    · rename_i hne
      refine List.filter_eq_nil_iff.2 fun x hx => ?_
      obtain ⟨h1, h2⟩ := e x hx
      simp [h2, new, Launch.blockOn, hne]

end start

theorem quadAt_quadUse (s : State) (die c : Nat) {q : Nat} (hq : q < 4) : quadAt (s.quadUse die c) q =
    { slots := (s.quadGroups die c q).map fun e => e.2.rslot, regs := total ((s.quadGroups die c q).map fun e => e.2.valloc) } := by
  have : q = 0 ∨ q = 1 ∨ q = 2 ∨ q = 3 := by omega
  rcases this with rfl | rfl | rfl | rfl <;> rfl

theorem quadUse_length (s : State) (die c : Nat) : (s.quadUse die c).length = 4 := rfl

theorem quadUse_mine (s : State) (die c q : Nat) : (quadAt (s.quadUse die c) q).mine = 0 := by
  by_cases hq : q < 4
  · rw [quadAt_quadUse s die c hq]
  · rw [quadAt_of_le (by rw [quadUse_length]; omega)]

/-- The seats of the new groups, in their order. -/
theorem map_seat_groupsIn (l : Launch) (k f : Nat) {seats : List (Nat × Nat)} (h : seats.length = l.groupsPerBlock) :
    (l.groupsIn k f seats).map (fun e => (e.2.quad, e.2.rslot)) = seats := by
  rw [Launch.groupsIn, ← h, List.map_map]
  refine List.ext_getElem (by simp) fun i h1 h2 => ?_
  simp [Launch.groupIn, Grp.sit, h2]

theorem total_append (a b : List Nat) : total (a ++ b) = total a + total b := by
  simp only [total_eq_sum, List.sum_append]

/-- The new groups have taken their seats beside those that were taken. -/
theorem Seated.start {u : State} {k f die c : Nat} {l : Launch} {S seats : List (Nat × Nat)} (h : Seated l.valloc (u.quadUse die c) S)
    (hn : u.Absent k f) (hs : seats.length = l.groupsPerBlock) :
    Seated l.valloc ((u.start k l f die c seats).quadUse die c) (S ++ seats) := by
  have quads : ∀ q < 4, quadAt ((u.start k l f die c seats).quadUse die c) q =
      { slots := (quadAt (u.quadUse die c) q).slots ++ (seats.filter (·.1 == q)).map (·.2)
        regs := (quadAt (u.quadUse die c) q).regs + l.valloc * seats.countP (·.1 == q) } := by
    intro q hq
    have new : ((l.groupsIn k f seats).filter fun e => e.2.quad == q).map (fun e => (e.2.quad, e.2.rslot)) = seats.filter (·.1 == q) := by
      rw [← map_seat_groupsIn l k f hs, List.filter_map, map_seat_groupsIn l k f hs]
      rfl
    have slots : ((l.groupsIn k f seats).filter fun e => e.2.quad == q).map (fun e => e.2.rslot) = (seats.filter (·.1 == q)).map (·.2) := by
      rw [← new, List.map_map]; rfl
    have regs : ((l.groupsIn k f seats).filter fun e => e.2.quad == q).map (fun e => e.2.valloc) =
        List.replicate (seats.countP (·.1 == q)) l.valloc := by
      rw [List.countP_eq_length_filter, ← new, List.length_map]
      refine List.eq_replicate_iff.2 ⟨by simp, fun x hx => ?_⟩
      obtain ⟨e, he, rfl⟩ := List.mem_map.1 hx
      obtain ⟨i, -, rfl⟩ := List.mem_map.1 (List.mem_filter.1 he).1
      rfl
    rw [quadAt_quadUse _ _ _ hq, quadAt_quadUse _ _ _ hq, quadGroups_start _ _ _ _ hn, if_pos rfl, List.map_append, List.map_append,
      total_append, slots, regs, total_eq_sum (List.replicate _ _), List.sum_replicate_nat, Nat.mul_comm]
  refine ⟨rfl, fun q hq => ?_, fun q hq => ?_, fun q hq i => ?_⟩ <;> rw [quads q hq]
  · simp [h.count q hq, List.countP_eq_length_filter]
  · simp [h.regs q hq, Nat.mul_add]
  · simp [h.slots q hq i]

theorem quadUse_start_other {u : State} {k f die c c' : Nat} {l : Launch} {seats : List (Nat × Nat)} (hn : u.Absent k f) (hc : c ≠ c') :
    (u.start k l f die c seats).quadUse die c' = u.quadUse die c' := by
  simp only [State.quadUse, quadGroups_start _ _ _ _ hn, if_neg hc, List.append_nil]

/-- The core of the new block. -/
theorem Holding.start {u : State} {k f die c j : Nat} {l : Launch} {S seats : List (Nat × Nat)} (h : Holding u k l die c j S)
    (hp : (u.core die c).p = l.pFor) (hn : u.Absent k f) (hs : seats.length = l.groupsPerBlock) :
    Holding (u.start k l f die c seats) k l die c (j + 1) (S ++ seats) := by
  refine ⟨?_, fun e he => ?_, (leaving_start die c c).trans h.left, h.seats.start hn hs, fun _ => hp, h.sound, h.want⟩
  · simp [residents_start, h.count]
  · rw [residents_start, if_pos rfl, List.mem_append, List.mem_singleton] at he
    rcases he with he | rfl
    · exact h.mine e he
    · rfl

/-- Another core of the die. -/
theorem Holding.start_other {u : State} {k f die c c' j : Nat} {l : Launch} {S seats : List (Nat × Nat)} (h : Holding u k l die c' j S)
    (hc : c ≠ c') (hn : u.Absent k f) : Holding (u.start k l f die c seats) k l die c' j S := by
  have hr : (u.start k l f die c seats).residents die c' = u.residents die c' := by simp [residents_start, hc]
  exact ⟨by rw [hr]; exact h.count, by rw [hr]; exact h.mine, (leaving_start die c c').trans h.left,
    by rw [quadUse_start_other hn hc]; exact h.seats, h.part, h.sound, h.want⟩

/-- Cores may differ in P, where it does not matter, and in caches. -/
theorem Holding.congr {s t : State} {k die c j : Nat} {l : Launch} {S : List (Nat × Nat)} (h : Holding s k l die c j S)
    (hb : t.blocks = s.blocks) (hg : t.groups = s.groups) (hp : 0 < j → (t.core die c).p = l.pFor)
    (hf : (t.core die c).fenced = (s.core die c).fenced) (hw : (t.core die c).want = (s.core die c).want) : Holding t k l die c j S := by
  have hr : t.residents die c = s.residents die c := by simp [State.residents, hb]
  have hl : t.leaving die c = s.leaving die c := by simp [State.leaving, hb]
  have hq : t.quadUse die c = s.quadUse die c := by simp [State.quadUse, State.quadGroups, State.block, State.block?, hb, hg]
  exact ⟨by rw [hr]; exact h.count, by rw [hr]; exact h.mine, hl.trans h.left, by rw [hq]; exact h.seats, hp, hf.trans h.sound,
    hw.trans h.want⟩

/-- P of a core, this one or another, may be set to the launch's. -/
theorem Holding.withP {s : State} {k die c c' j : Nat} {l : Launch} {S : List (Nat × Nat)} (h : Holding s k l die c' j S) :
    Holding (s.withP die c l.pFor) k l die c' j S := by
  by_cases e : c = c'
  · subst e
    exact h.congr rfl rfl (fun _ => by rw [core_withP, if_pos rfl]) (by rw [core_withP, if_pos rfl]) (by rw [core_withP, if_pos rfl])
  · exact h.congr rfl rfl (by rw [core_withP, if_neg e]; exact h.part) (by rw [core_withP, if_neg e]) (by rw [core_withP, if_neg e])

theorem CachesOnly.core_p {s t : State} (h : CachesOnly s t) (d c : Nat) : (t.core d c).p = (s.core d c).p :=
  (congrArg Core.p (h.core d c) :)

theorem Holding.of_caches {s t : State} {k die c j : Nat} {l : Launch} {S : List (Nat × Nat)} (h : Holding s k l die c j S)
    (hc : CachesOnly s t) : Holding t k l die c j S :=
  h.congr hc.blocks hc.groups (fun hj => (hc.core_p die c).trans (h.part hj)) (congrArg Core.fenced (hc.core die c) :)
    (congrArg Core.want (hc.core die c) :)

end Sys2Proof.Machine
end

section
/-! PROOF. Placing the blocks of a unit on the empty cores of a die, one core after another (R324, R327, R329, R330). -/

namespace Sys2Proof.Machine

/-! ## What is wanted of a unit that has been placed -/

/-- A block of launch l on its core, with first-placement values (R200, R327). -/
structure Launch.FreshBlock (l : Launch) (die c : Nat) (x : Block) : Prop where
  place : x.place = .core die c
  scratch : x.scratch = []
  tile : x.tile = []
  cnt : x.cnt = []
  drafts : x.drafts = []
  staged : x.staged = []
  exited : x.exited = false
  al : ∀ n < 8, x.getAl n = if l.record.getD (14 + n) 0 = 0 then 0x00FF020000000000 else l.record.getD (14 + n) 0

/-- Group m of block f of launch l at entry, `per` blocks of the launch being placed on its core (R322, R328). -/
structure Launch.FreshGroup (l : Launch) (per f m : Nat) (r : Grp) : Prop where
  run : r.run = .running
  idx1 : r.idx1 = m
  valloc : r.valloc = l.valloc
  priv : r.priv = false
  slotA : r.b.slotA = { pc := l.record.getD 1 0, lanes := BitVec.allOnes 64 }
  slotB : r.b.slotB = {}
  stkbase : r.b.stkbase = l.record.getD 12 0 + BitVec.ofNat 64 ((f * l.groupsPerBlock + m) * l.field 13 0 32)
  stklim : r.b.stklim = r.b.stkbase + BitVec.ofNat 64 (l.field 13 0 32)
  quad : r.quad < 4
  rslot : r.rslot < 8
  alone : per = 1 → r.quad = m % 4 ∧ r.rslot = m / 4

/-- Block f of launch l (of key k) stands on core c with its groups at entry. -/
structure Stands (t : State) (k : Nat) (l : Launch) (die per f c : Nat) : Prop where
  block : ∃ x, t.block? ⟨k, f⟩ = some x ∧ l.FreshBlock die c x
  groups : ∀ m < l.groupsPerBlock, ∃ r, t.grp? (.grp k f m) = some r ∧ l.FreshGroup per f m r

theorem freshBlock_blockOn (l : Launch) (die c n : Nat) : l.FreshBlock die c (l.blockOn die c n) := by
  have al : ∀ i, (l.blockOn die c n).getAl i = l.newBlock.getAl i := fun _ => rfl
  refine ⟨rfl, ?_, ?_, ?_, ?_, ?_, ?_, fun i hi => (al i).trans (getAl_newBlock l hi)⟩ <;> rw [Launch.blockOn, newBlock_eq]

theorem freshGroup_groupIn {l : Launch} {us ws : List QUse} {seats : List (Nat × Nat)} (hu : us.length = 4)
    (hs : seatGroups l.valloc l.groupsPerBlock us = some (seats, ws)) {per : Nat}
    (ha : per = 1 → RoundRobin l.valloc 0 us) (f : Nat) {m : Nat} (hm : m < l.groupsPerBlock) :
    l.FreshGroup per f m (l.groupIn f seats m) := by
  have hmem : seats.getD m (0, 0) ∈ seats := by
    have hlen := seatGroups_length hs
    rw [List.getD_eq_getElem?_getD, List.getElem?_eq_getElem (hlen.symm ▸ hm), Option.getD_some]
    exact List.getElem_mem _
  obtain ⟨h1, h2⟩ := seatGroups_lt hu hs _ hmem
  refine ⟨rfl, rfl, rfl, rfl, rfl, rfl, rfl, rfl, h1, h2, fun e => ?_⟩
  have := (ha e).seatGroups hs m hm
  rw [Nat.zero_add] at this
  exact ⟨congrArg Prod.fst this, congrArg Prod.snd this⟩

/-! ## Placing some blocks on some cores -/

/-- t is s after blocks of launch l (of key k) have been placed, given as block and core, with `per` of them on a core. -/
structure Filled (k : Nat) (l : Launch) (die per : Nat) (s t : State) (xs : List (Nat × Nat)) : Prop where
  mem : t.mem = s.mem
  launches : t.launches = s.launches
  ready : t.ready = s.ready
  fencing : t.fencing = s.fencing
  parts : t.parts = s.parts
  quiet : t.Quiet
  blocks : ∀ f, (∀ x ∈ xs, x.1 ≠ f) → t.block? ⟨k, f⟩ = s.block? ⟨k, f⟩
  groups : ∀ f, (∀ x ∈ xs, x.1 ≠ f) → ∀ m, t.grp? (.grp k f m) = s.grp? (.grp k f m)
  stands : ∀ x ∈ xs, Stands t k l die per x.1 x.2
  p : ∀ x ∈ xs, (t.core die x.2).p = l.pFor
  otherP : ∀ c, (∀ x ∈ xs, x.2 ≠ c) → (t.core die c).p = (s.core die c).p
  others : ∀ c j S, (∀ x ∈ xs, x.2 ≠ c) → Holding s k l die c j S → Holding t k l die c j S

section filled
variable {k : Nat} {l : Launch} {die per : Nat} {s t u : State} {xs ys : List (Nat × Nat)}

theorem Filled.refl (hq : s.Quiet) : Filled k l die per s s [] :=
  ⟨rfl, rfl, rfl, rfl, rfl, hq, fun _ _ => rfl, fun _ _ _ => rfl, by simp, by simp, fun _ _ => rfl, fun _ _ _ _ h => h⟩

theorem Filled.trans (h : Filled k l die per s t xs) (h' : Filled k l die per t u ys) (hd : ∀ x ∈ xs, ∀ y ∈ ys, y.1 ≠ x.1) :
    Filled k l die per s u (xs ++ ys) := by
  have left : ∀ {P : Nat × Nat → Prop}, (∀ x ∈ xs ++ ys, P x) → ∀ x ∈ xs, P x := fun h x hx => h x (List.mem_append_left _ hx)
  have right : ∀ {P : Nat × Nat → Prop}, (∀ x ∈ xs ++ ys, P x) → ∀ y ∈ ys, P y := fun h y hy => h y (List.mem_append_right _ hy)
  refine ⟨h'.mem.trans h.mem, h'.launches.trans h.launches, h'.ready.trans h.ready, h'.fencing.trans h.fencing, h'.parts.trans h.parts,
    h'.quiet, fun f hf => (h'.blocks f (right hf)).trans (h.blocks f (left hf)),
    fun f hf m => (h'.groups f (right hf) m).trans (h.groups f (left hf) m), fun x hx => ?_, fun x hx => ?_,
    fun c hc => (h'.otherP c (right hc)).trans (h.otherP c (left hc)),
    fun c j S hc hs => h'.others c j S (right hc) (h.others c j S (left hc) hs)⟩
  · rcases List.mem_append.1 hx with hx | hx
    · have hs := h.stands x hx
      refine ⟨?_, ?_⟩
      · rw [h'.blocks x.1 (hd x hx)]; exact hs.block
      · simp only [h'.groups x.1 (hd x hx)]; exact hs.groups
    · exact h'.stands x hx
  · by_cases hy : ∃ y ∈ ys, y.2 = x.2
    · obtain ⟨y, hy, e⟩ := hy
      exact e ▸ h'.p y hy
    · have hne : ∀ y ∈ ys, y.2 ≠ x.2 := fun y h e => hy ⟨y, h, e⟩
      rcases List.mem_append.1 hx with hx | hx
      · exact (h'.otherP x.2 hne).trans (h.p x hx)
      · exact absurd rfl (hne x hx)

theorem OpenFor.filled (ho : OpenFor s k l die) (h : Filled k l die per s t xs) : OpenFor t k l die := by
  refine ⟨?_, ?_, ?_, h.quiet⟩
  · rw [State.launch?, h.launches]; exact ho.launch
  · simpa only [State.dieOpen, State.dieReady, State.readyBit, h.ready, h.fencing] using ho.opened
  · simpa only [State.partOfDie, State.part, h.parts] using ho.part

theorem State.Absent.filled {f : Nat} (hn : s.Absent k f) (h : Filled k l die per s t xs) (hf : ∀ x ∈ xs, x.1 ≠ f) : t.Absent k f :=
  ⟨(h.blocks f hf).trans hn.1, fun m => (h.groups f hf m).trans (hn.2 m)⟩

end filled

/-! ## One core -/

section core
variable {k : Nat} {l : Launch} {die c per : Nat}

/-- One block more on a core that holds j. -/
theorem placeBlock_fills {s : State} {j f : Nat} {S seats : List (Nat × Nat)} {ws : List QUse}
    (ho : OpenFor s k l die) (h : Holding s k l die c j S) (hn : s.Absent k f) (hsc : l.ScratchFor (j + 1))
    (htiles : j * l.tilePairs + l.tilePairs ≤ 8) (hper : per = 1 → S = [])
    (hs : seatGroups l.valloc l.groupsPerBlock (s.quadUse die c) = some (seats, ws)) :
    ∃ t, s.placeBlock ⟨k, f⟩ die c = some t ∧ Filled k l die per s t [(f, c)] ∧ Holding t k l die c (j + 1) (S ++ seats) := by
  obtain ⟨t, ht, hc⟩ := placeBlock_new ho h hn hsc htiles hs
  have hlen := seatGroups_length hs
  have alone : per = 1 → RoundRobin l.valloc 0 (s.quadUse die c) := fun e => .zero (hper e ▸ h.seats) (quadUse_mine s die c)
  have hnu : (s.withP die c l.pFor).Absent k f := hn
  have hp : ((s.withP die c l.pFor).core die c).p = l.pFor := by rw [core_withP, if_pos rfl]
  have blockOpt : ∀ b, t.block? b = ((s.withP die c l.pFor).start k l f die c seats).block? b := fun b => by
    rw [State.block?, hc.blocks]; rfl
  have here : ∀ {P : Nat × Nat → Prop}, P (f, c) → ∀ x ∈ [(f, c)], P x := fun h x hx => (List.mem_singleton.1 hx) ▸ h
  refine ⟨t, ht, ⟨hc.mem, hc.launches, hc.ready, hc.fencing, hc.parts, hc.quiet ho.quiet, fun f' hf => ?_, fun f' hf m => ?_,
    here ⟨?_, fun m hm => ?_⟩, here ((hc.core_p die c).trans hp), fun c' hne => ?_, fun c' j' S' hne hh => ?_⟩,
    (h.withP.start hp hnu hlen).of_caches hc⟩
  · exact (blockOpt _).trans (block_start die c (by simpa using Ne.symm (hf _ (List.mem_singleton_self _))))
  · exact (hc.grpOpt _).trans (grp_start die c (Ne.symm (hf _ (List.mem_singleton_self _))) m)
  · exact ⟨_, (blockOpt _).trans (block_start_self die c hnu), freshBlock_blockOn l die c _⟩
  · exact ⟨_, (hc.grpOpt _).trans (grp_start_self die c hnu hm), freshGroup_groupIn (quadUse_length s die c) hs alone f hm⟩
  · refine (hc.core_p die c').trans ?_
    show ((s.withP die c l.pFor).core die c').p = _
    rw [core_withP, if_neg (hne _ (List.mem_singleton_self _))]
  · exact (hh.withP.start_other (hne _ (List.mem_singleton_self _)) hnu).of_caches hc

/-- Where one block more fits on an empty core, the groups of the next find their seats and it has its tiles. -/
theorem perCore_succ {n fuel tiles : Nat} {us : List QUse} (h : n + 1 ≤ l.perCore fuel us tiles) : ∃ fuel' seats ws,
    tiles + l.tilePairs ≤ 8 ∧ seatGroups l.valloc l.groupsPerBlock (renew us) = some (seats, ws) ∧
      n ≤ l.perCore fuel' ws (tiles + l.tilePairs) := by
  cases fuel with
  | zero => simp [Launch.perCore] at h
  | succ fuel =>
    unfold Launch.perCore at h
    split at h
    · omega
    · split at h
      · omega
      · rename_i seats ws hs
        exact ⟨fuel, seats, ws, by omega, hs, by omega⟩

theorem placeAll_cons {s t : State} {b : BId} {bs : List BId} (h : s.placeBlock b die c = some t) :
    s.placeAll die c (b :: bs) = t.placeAll die c bs := by
  rw [State.placeAll, h]

/-- The rest of the blocks of a core, after j. -/
theorem placeAll_fills {fs : List Nat} {s : State} {j fuel : Nat} {S : List (Nat × Nat)} {us : List QUse}
    (ho : OpenFor s k l die) (h : Holding s k l die c j S) (hnd : fs.Nodup) (hn : ∀ f ∈ fs, s.Absent k f)
    (hper : per = j + fs.length) (hS : j = 0 → S = []) (hsc : l.ScratchFor per) (hu : Seated l.valloc us S)
    (hcore : fs.length ≤ l.perCore fuel us (j * l.tilePairs)) :
    ∃ t, s.placeAll die c (fs.map (BId.mk k)) = some t ∧ Filled k l die per s t (fs.map fun f => (f, c)) := by
  induction fs generalizing s j fuel S us with
  | nil => exact ⟨s, rfl, .refl ho.quiet⟩
  | cons f fs ih =>
    obtain ⟨hf, hnd⟩ := List.nodup_cons.1 hnd
    rw [List.length_cons] at hper hcore
    obtain ⟨fuel', seats, ws, htiles, hseat, hrest⟩ := perCore_succ hcore
    obtain ⟨ws', hseat'⟩ := seatGroups_alike (by rw [hu.renew.quads, quadUse_length])
      (hu.renew.alike h.seats (fun q => by rw [quadAt_renew]) (quadUse_mine s die c)) hseat
    obtain ⟨t, ht, hfill, hhold⟩ := placeBlock_fills (per := per) ho h (hn f (List.mem_cons_self ..))
      (hsc.mono (by omega)) htiles (fun e => hS (by omega)) hseat'
    have hone : ∀ f' ∈ fs, ∀ x ∈ [(f, c)], x.1 ≠ f' := by
      rintro f' hf' x hx rfl
      rw [List.mem_singleton.1 hx] at hf'
      exact hf hf'
    obtain ⟨u, hu', hfill'⟩ := ih (ho.filled hfill) hhold hnd
      (fun f' hf' => (hn f' (List.mem_cons_of_mem _ hf')).filled hfill (hone f' hf')) (by omega) (by omega)
      (hu.renew.seatGroups hseat) (by rwa [Nat.add_mul, Nat.one_mul])
    refine ⟨u, ?_, hfill.trans hfill' ?_⟩
    · rw [List.map_cons, placeAll_cons ht, hu']
    · rintro x hx y hy
      obtain ⟨f', hf', rfl⟩ := List.mem_map.1 hy
      exact (hone f' hf' x hx).symm

end core

/-! ## Several cores -/

/-- The blocks of a unit with their cores, `per` blocks on each in ascending order (R329). -/
def spread (per : Nat) : List Nat → List Nat → List (Nat × Nat)
  | _, [] => []
  | fs, c :: cs => (fs.take per).map (fun f => (f, c)) ++ spread per (fs.drop per) cs

theorem mem_of_mem_spread {per : Nat} {cs fs : List Nat} {x : Nat × Nat} (h : x ∈ spread per fs cs) : x.1 ∈ fs ∧ x.2 ∈ cs := by
  induction cs generalizing fs with
  | nil => cases h
  | cons c cs ih =>
    rcases List.mem_append.1 h with h | h
    · obtain ⟨f, hf, rfl⟩ := List.mem_map.1 h
      exact ⟨List.mem_of_mem_take hf, List.mem_cons_self ..⟩
    · obtain ⟨h1, h2⟩ := ih h
      exact ⟨List.mem_of_mem_drop h1, List.mem_cons_of_mem _ h2⟩

/-- Block b of a unit goes to core b / per of its cores. -/
theorem mem_spread {per : Nat} (hp : 0 < per) {cs fs : List Nat} (hl : fs.length = per * cs.length) {b : Nat} (hb : b < fs.length) :
    (fs[b], cs.getD (b / per) 0) ∈ spread per fs cs := by
  induction cs generalizing fs b with
  | nil => rw [hl] at hb; cases hb
  | cons c cs ih =>
    rw [List.length_cons, Nat.mul_add, Nat.mul_one] at hl
    by_cases h : b < per
    · rw [Nat.div_eq_of_lt h]
      exact List.mem_append_left _ (List.mem_map.2 ⟨fs[b], List.mem_take_iff_getElem.2 ⟨b, by omega, rfl⟩, rfl⟩)
    · rw [Nat.div_eq_sub_div hp (Nat.le_of_not_lt h), List.getD_cons_succ]
      refine List.mem_append_right _ ?_
      have := ih (fs := fs.drop per) (by rw [List.length_drop]; omega) (b := b - per) (by rw [List.length_drop]; omega)
      rw [List.getElem_drop] at this
      simpa [show per + (b - per) = b by omega] using this

/-- Every core of a unit takes a block. -/
theorem core_mem_spread {per : Nat} (hp : 0 < per) {cs fs : List Nat} (hl : fs.length = per * cs.length) {c : Nat} (hc : c ∈ cs) :
    ∃ f, (f, c) ∈ spread per fs cs := by
  obtain ⟨i, hi, rfl⟩ := List.getElem_of_mem hc
  have hb : per * i < fs.length := by
    rw [hl]; exact Nat.mul_lt_mul_of_pos_left hi hp
  have := mem_spread hp hl hb
  rw [Nat.mul_div_cancel_left _ hp, List.getD_eq_getElem?_getD, List.getElem?_eq_getElem hi, Option.getD_some] at this
  exact ⟨_, this⟩

section unit
variable {k : Nat} {l : Launch} {die per : Nat}

/-- An empty core that is open takes `per` blocks. -/
theorem placeAll_empty {s : State} {c : Nat} {fs : List Nat} (ho : OpenFor s k l die) (h : Holding s k l die c 0 []) (hnd : fs.Nodup)
    (hn : ∀ f ∈ fs, s.Absent k f) (hper : fs.length = per) (hfit : l.fitsEmpty per = true) :
    ∃ t, s.placeAll die c (fs.map (BId.mk k)) = some t ∧ Filled k l die per s t (fs.map fun f => (f, c)) := by
  simp only [Launch.fitsEmpty, Bool.and_eq_true, decide_eq_true_eq, Bool.or_eq_true, Bool.not_eq_true'] at hfit
  obtain ⟨⟨hcore, hsc⟩, hpre⟩ := hfit
  refine placeAll_fills ho h hnd hn (by omega) (fun _ => rfl) ⟨hsc, fun e => ?_⟩ (seated_emptyQuads _) (fuel := 32) ?_
  · rcases hpre with hpre | hpre
    · rw [e] at hpre; cases hpre
    · exact hpre
  · rwa [hper, Nat.zero_mul]

/-- A gang on empty cores that are open, and that come first in the list. -/
theorem placeGang_fills {cs rest fs : List Nat} {s : State} {fuel : Nat} (ho : OpenFor s k l die)
    (h : ∀ c ∈ cs, Holding s k l die c 0 []) (hcs : cs.Nodup) (hnd : fs.Nodup) (hn : ∀ f ∈ fs, s.Absent k f) (hp : 0 < per)
    (hlen : fs.length = per * cs.length) (hfuel : cs.length ≤ fuel) (hfit : l.fitsEmpty per = true) :
    ∃ t, s.placeGang die per fuel (fs.map (BId.mk k)) (cs ++ rest) = some t ∧ Filled k l die per s t (spread per fs cs) := by
  induction cs generalizing s fs fuel with
  | nil =>
    obtain rfl : fs = [] := List.length_eq_zero_iff.1 (by simpa using hlen)
    refine ⟨s, ?_, .refl ho.quiet⟩
    cases fuel <;> rfl
  | cons c cs ih =>
    obtain ⟨hc, hcs⟩ := List.nodup_cons.1 hcs
    rw [List.length_cons, Nat.mul_add, Nat.mul_one] at hlen
    obtain ⟨fuel, rfl⟩ : ∃ n, fuel = n + 1 := ⟨fuel - 1, by simp at hfuel; omega⟩
    obtain ⟨t, ht, hfill⟩ := placeAll_empty ho (h c (List.mem_cons_self ..)) (hnd.sublist (List.take_sublist per fs))
      (fun f hf => hn f (List.mem_of_mem_take hf)) (by rw [List.length_take]; omega) hfit
    have apart : ∀ x ∈ (fs.take per).map (fun f => (f, c)), ∀ f ∈ fs.drop per, x.1 ≠ f := by
      rintro x hx f hf rfl
      obtain ⟨f, hf', rfl⟩ := List.mem_map.1 hx
      rw [← List.take_append_drop per fs, List.nodup_append] at hnd
      obtain ⟨-, -, hne⟩ := hnd
      exact hne _ hf' _ hf rfl
    obtain ⟨u, hu, hfill'⟩ := ih (ho.filled hfill) (fun c' hc' => hfill.others c' 0 [] (fun x hx => by
        obtain ⟨f, -, rfl⟩ := List.mem_map.1 hx
        rintro rfl
        exact hc hc') (h c' (List.mem_cons_of_mem _ hc'))) hcs (hnd.sublist (List.drop_sublist per fs))
      (fun f hf => (hn f (List.mem_of_mem_drop hf)).filled hfill fun x hx => apart x hx f hf) (by rw [List.length_drop]; omega)
      (fuel := fuel) (by simpa using hfuel)
    refine ⟨u, ?_, hfill.trans hfill' fun x hx y hy => (apart x hx _ (mem_of_mem_spread hy).1).symm⟩
    have hne : (fs.map (BId.mk k)).isEmpty = false := by
      rw [List.isEmpty_eq_false_iff, ← List.length_pos_iff, List.length_map]; omega
    rw [List.cons_append, State.placeGang, hne]
    simp only [Bool.false_eq_true, if_false, ← List.map_take, ← List.map_drop, ht, hu]

end unit

end Sys2Proof.Machine
end

section
/-! PROOF. BLOCK_PLACE and GANG_PLACE: O46. -/

namespace Sys2Proof.Machine

/-! ## Where nothing is placed -/

section nothing
variable {k unit die place : Nat} {l : Launch} {s : State}

/-- The event that places units of a launch: gangs where it has them, else blocks (R324). -/
theorem exec_placing (hl : s.launch k = l) :
    exec (if l.hasGang then .gangPlace k unit die place else .blockPlace k unit die place) s =
      .next ((s.placeUnit k unit die place).getD s) := by
  cases hg : l.hasGang
  · show execBlockPlace k unit die place s = _
    rw [execBlockPlace, hl, hg]; rfl
  · show execGangPlace k unit die place s = _
    rw [execGangPlace, hl, hg]; rfl

/-- The other event does not apply to it. -/
theorem nothing_otherPlacing (hl : s.launch k = l) :
    nothing (if l.hasGang then .blockPlace k unit die place else .gangPlace k unit die place) s := by
  cases hg : l.hasGang
  · show execGangPlace k unit die place s = _
    rw [execGangPlace, hl, hg]; rfl
  · show execBlockPlace k unit die place s = _
    rw [execBlockPlace, hl, hg]; rfl

theorem nothing_of_placeUnit (hl : s.launch k = l) (h : s.placeUnit k unit die place = none) :
    nothing (if l.hasGang then .gangPlace k unit die place else .blockPlace k unit die place) s := by
  rw [nothing, exec_placing hl, h]; rfl

theorem placeUnit_of_placeOn (h : s.placeOn k unit die place = none) : s.placeUnit k unit die place = none := by
  rw [State.placeUnit, h]
  simp

/-- Not its turn (R324, R330). -/
theorem placeUnit_of_turn (hl : s.launch k = l)
    (h : l.ended.isSome ∨ l.nextFor die ≠ some unit ∨ s.outranked k die ∨ s.behind k unit die) : s.placeUnit k unit die place = none := by
  rw [State.placeUnit]
  simp only [hl]
  rw [if_pos]
  simpa [or_assoc] using h

/-- No core or neighbourhood in use has this number (R20, R21). -/
theorem placeOn_of_far (hl : s.launch k = l) (h : (if l.hasGang then 24 else 192) ≤ place) : s.placeOn k unit die place = none := by
  rw [State.placeOn]
  simp only [hl]
  cases hg : l.hasGang <;> rw [hg] at h
  · exact if_neg (Nat.not_lt.2 h)
  · exact if_neg (Nat.not_lt.2 h)

/-- A core that is kept for another unit takes no block of this one. -/
theorem placeBlock_of_kept {b : BId} {c : Nat} {w : Nat × Nat} (hw : s.wanted die c = some w)
    (hne : w ≠ (b.launch, (s.launch b.launch).unitOf b.flat)) : s.placeBlock b die c = none := by
  rw [State.placeBlock]
  simp [hw, hne]

theorem placeOn_of_kept (hl : s.launch k = l) (hg : l.hasGang = false) {w : Nat × Nat}
    (hw : s.wanted die (s.physCore die place) = some w) (hne : w ≠ (k, unit)) : s.placeOn k unit die place = none := by
  have hone : l.gangSize = 1 := by simp [Launch.gangSize, hg]
  have hb : l.bidsOf k unit = [⟨k, unit⟩] := by simp [Launch.bidsOf, Launch.blocksOf, hone, upFrom]
  rw [State.placeOn]
  simp only [hl, hg, hb, Bool.false_eq_true, if_false]
  split
  · rw [State.placeAll, placeBlock_of_kept hw]
    simpa [hl, Launch.unitOf, hone] using hne
  · rfl

end nothing

/-! ## Where a unit is placed -/

/-- A core without blocks and images, kept for nobody and not fenced. -/
theorem holding_empty {s : State} {k die c : Nat} {l : Launch}
    (hfree : (∀ e ∈ s.blocks, e.2.place ≠ .core die c ∧ e.2.place ≠ .leaving die c) ∧ (s.core die c).fenced = false)
    (hw : (s.core die c).want = none) : Holding s k l die c 0 [] := by
  obtain ⟨hb, hf⟩ := hfree
  have hr : s.residents die c = [] := List.filter_eq_nil_iff.2 fun e he => by simpa using (hb e he).1
  have hl : s.leaving die c = [] := List.filter_eq_nil_iff.2 fun e he => by simpa using (hb e he).2
  have place : ∀ b, (s.block b).place ≠ .core die c := by
    intro b
    rw [State.block, State.block?]
    cases h : alook s.blocks b with
    | none => exact fun e => by cases e
    | some x => exact (hb _ (mem_of_alook h)).1
  have hq : ∀ q, s.quadGroups die c q = [] := fun q => List.filter_eq_nil_iff.2 fun e _ => by simp [place]
  refine ⟨by rw [hr]; rfl, by simp [hr], hl, ?_, fun h => absurd h (Nat.lt_irrefl 0), hf, hw⟩
  refine ⟨rfl, fun q h => ?_, fun q h => ?_, fun q h i => ?_⟩ <;> rw [quadAt_quadUse s die c h, hq]
  · rfl
  · rfl
  · exact Iff.rfl.trans (by simp)

theorem length_blocksOf (l : Launch) (unit : Nat) : (l.blocksOf unit).length = l.gangSize := by simp [Launch.blocksOf, upFrom]

theorem nodup_blocksOf (l : Launch) (unit : Nat) : (l.blocksOf unit).Nodup :=
  List.Pairwise.map _ (fun _ _ hne e => hne (Nat.add_left_cancel e)) List.nodup_range

theorem getElem_blocksOf (l : Launch) (unit : Nat) {b : Nat} (hb : b < (l.blocksOf unit).length) :
    (l.blocksOf unit)[b] = unit * l.gangSize + b := by simp [Launch.blocksOf, upFrom]

/-- The cores of a unit. -/
def coresFor (s : State) (l : Launch) (die place : Nat) : List Nat :=
  if l.hasGang then (s.nbhd die place).take l.gspread else [s.physCore die place]

/-- The blocks of a unit on one core. -/
def perCoreOf (l : Launch) : Nat := if l.hasGang then l.gangSize / l.gspread else 1

section placed
variable {k unit die place : Nat} {l : Launch} {s : State}

/-- The unit stands on its cores. -/
theorem placeOn_fills (ho : OpenFor s k l die) (hfar : ¬ (if l.hasGang then 24 else 192) ≤ place)
    (hcs : (coresFor s l die place).Nodup) (hfree : ∀ c ∈ coresFor s l die place, Holding s k l die c 0 [])
    (hper : perCoreOf l * (coresFor s l die place).length = l.gangSize) (hsize : 0 < l.gangSize)
    (hfit : l.fitsEmpty (perCoreOf l) = true) (hn : ∀ f, s.Absent k f) :
    ∃ t, s.placeOn k unit die place = some t ∧
      Filled k l die (perCoreOf l) s t (spread (perCoreOf l) (l.blocksOf unit) (coresFor s l die place)) := by
  have hlen := length_blocksOf l unit
  have hnd := nodup_blocksOf l unit
  rw [State.placeOn]
  simp only [ho.launch_eq]
  cases hg : l.hasGang with
  | false =>
    simp only [perCoreOf, coresFor, hg, Bool.false_eq_true, if_false] at *
    have hone : (l.blocksOf unit).length = 1 := by rw [hlen, ← hper]; rfl
    rw [if_pos (show place < coresInUse from Nat.not_le.1 hfar)]
    have := placeAll_empty ho (hfree _ (List.mem_singleton_self _)) hnd (fun f _ => hn f) hone hfit
    rwa [spread, spread, List.append_nil, List.take_of_length_le (Nat.le_of_eq hone)]
  | true =>
    simp only [perCoreOf, coresFor, hg, if_true] at *
    rw [if_pos (Nat.not_le.1 hfar)]
    have hpos : 0 < l.gangSize / l.gspread := Nat.pos_of_mul_pos_right (hper ▸ hsize)
    have hle : ((s.nbhd die place).take l.gspread).length ≤ 8 := Nat.le_trans (List.length_take_le' _ _) (by simp [State.nbhd])
    have := placeGang_fills (rest := (s.nbhd die place).drop l.gspread) ho hfree hcs hnd (fun f _ => hn f) hpos (hlen.trans hper.symm)
      hle hfit
    rwa [List.take_append_drop] at this

/-- The dispatcher's book once a unit has been placed: it is held by the die. -/
def Launch.placed (unit die : Nat) (l : Launch) : Launch :=
  { l with
    again := l.again.filter (· != unit)
    handed := l.handed.filter fun e => e.1 != unit
    held := (l.held.filter fun e => e.1 != unit) ++ [(unit, die)] }

theorem placeUnit_of_placed (hl : s.launch k = l) (he : l.ended = none) (hnext : l.nextFor die = some unit)
    (hout : s.outranked k die = false) (hbeh : s.behind k unit die = false) {t : State} (ht : s.placeOn k unit die place = some t) :
    s.placeUnit k unit die place = some ((t.unwant k unit).modLaunch k (Launch.placed unit die)) := by
  rw [State.placeUnit]
  simp only [hl, he, hnext, hout, hbeh, ht]
  rw [if_neg (by simp)]
  rfl

/-- Keeping a core for nobody any longer does not change its P. -/
theorem core_p_unwant (t : State) (k unit d c : Nat) : ((t.unwant k unit).core d c).p = (t.core d c).p := by
  have h := mget_map ({} : Core) (fun x => if x.want = some (k, unit) then { x with want := none } else x) (by simp) t.cores (256 * d + c)
  rw [State.core, State.unwant, h]
  split <;> rfl

/-- The launch after a unit of it has been placed. -/
theorem launch_placed {t : State} (ht : t.launch? k = some l) :
    ((t.unwant k unit).modLaunch k (Launch.placed unit die)).launch k = l.placed unit die := by
  have h : (t.unwant k unit).launch? k = some l := ht
  simp [State.launch, State.launchOpt_modLaunch, h]

end placed

end Sys2Proof.Machine

namespace Sys2Proof

open Machine

/-- Settles O46. Nothing is placed where a test of the dispatcher fails, or the core is kept. Else the blocks go one after another to
their cores: each finds room because the seats that are taken there (`Holding`) are those by which R169 counted how many blocks of the
launch a core takes. -/
theorem unitsArePlaced : Obligations.UnitsArePlaced := by
  unfold Obligations.UnitsArePlaced
  intro k unit die place l s hk
  have hl : s.launch k = l := by simp [State.launch, hk]
  refine ⟨nothing_otherPlacing hl, ?_, ?_, ?_⟩
  · rintro hg - ⟨w, hw, hne⟩
    exact nothing_of_placeUnit hl (placeUnit_of_placeOn (placeOn_of_kept hl hg hw hne))
  · intro h
    by_cases hfar : (if l.hasGang then 24 else 192) ≤ place
    · exact nothing_of_placeUnit hl (placeUnit_of_placeOn (placeOn_of_far hl hfar))
    · exact nothing_of_placeUnit hl (placeUnit_of_turn hl (h.imp_right (Or.imp_right (Or.imp_right (Or.resolve_right · hfar)))))
  · intro he hnext hout hbeh hfar hready hfence hq hpart hcs hfree hper hsize hfit hn
    have ho : OpenFor s k l die := ⟨hk, by simp [State.dieOpen, State.dieReady, State.readyBit, hready, hfence], hpart, hq⟩
    obtain ⟨t, ht, hfill⟩ := placeOn_fills (unit := unit) ho hfar hcs (fun c hc => holding_empty (hfree c hc).1 (hfree c hc).2)
      hper hsize hfit hn
    have hlen := length_blocksOf l unit
    have hspread := hlen.trans hper.symm
    have hpos : 0 < perCoreOf l := Nat.pos_of_mul_pos_right (hper ▸ hsize : 0 < perCoreOf l * (coresFor s l die place).length)
    have hlaunch := launch_placed (unit := unit) (die := die) (ho.filled hfill).launch
    have hexec := exec_placing (unit := unit) (die := die) (place := place) hl
    rw [placeUnit_of_placed hl he hnext hout hbeh ht, Option.getD_some] at hexec
    refine ⟨_, hexec, hfill.mem, ?_, ?_, fun c hc => ?_, fun b hb => ?_⟩
    · rw [hlaunch]; exact List.mem_append_right _ (List.mem_singleton_self _)
    · rw [hlaunch]; exact fun e h => by simpa using (List.mem_filter.1 h).2
    · obtain ⟨f, hf⟩ := core_mem_spread hpos hspread hc
      exact (core_p_unwant t k unit die c).trans (hfill.p _ hf)
    · have hx := mem_spread hpos hspread (hlen ▸ hb : b < (l.blocksOf unit).length)
      rw [getElem_blocksOf] at hx
      obtain ⟨⟨x, hx, fx⟩, hgs⟩ := hfill.stands _ hx
      refine ⟨⟨x, hx, fx.place, fx.scratch, fx.tile, fx.cnt, fx.drafts, fx.staged, fx.exited, fx.al⟩, fun m hm => ?_⟩
      obtain ⟨r, hr, fr⟩ := hgs m hm
      exact ⟨r, hr, fr.run, fr.idx1, fr.valloc, fr.priv, fr.slotA, fr.slotB, fr.stkbase, fr.stklim, fr.quad, fr.rslot, fr.alone⟩

end Sys2Proof
end

section
/-! PROOF. The functions that the scalar pipe computes on words, as the numbers and bits that the spec's tables give (R67 to R73). -/

namespace Sys2Proof

open Machine

/-! ## Sums, products, shifts -/

theorem sub_eq_ofInt (x y : W64) : x - y = BitVec.ofInt 64 (x.toInt - y.toInt) :=
  BitVec.eq_of_toInt_eq (by rw [BitVec.toInt_sub, BitVec.toInt_ofInt])

theorem mul_eq_ofInt (x y : W64) : x * y = BitVec.ofInt 64 (x.toInt * y.toInt) := by
  rw [BitVec.ofInt_mul, BitVec.ofInt_toInt, BitVec.ofInt_toInt]

theorem add_imm11_eq_ofInt (x : W64) (i : BitVec 11) : x + imm11 i = BitVec.ofInt 64 (x.toInt + i.toInt) := by
  rw [BitVec.ofInt_add, BitVec.ofInt_toInt]
  rfl

theorem shl_eq_ofNat (x : W64) (n : Nat) : x <<< n = BitVec.ofNat 64 (x.toNat * 2 ^ n) :=
  BitVec.eq_of_toNat_eq (by simp [Nat.shiftLeft_eq])

theorem shr_eq_ofNat (x : W64) (n : Nat) : x >>> n = BitVec.ofNat 64 (x.toNat / 2 ^ n) := by
  rw [← Nat.shiftRight_eq_div_pow, ← BitVec.toNat_ushiftRight, BitVec.ofNat_toNat, BitVec.setWidth_eq]

theorem sra_eq_ofInt (x : W64) (n : Nat) : x.sshiftRight n = BitVec.ofInt 64 (x.toInt / 2 ^ n) := by
  rw [BitVec.sshiftRight, Int.shiftRight_eq_div_pow]
  norm_cast

/-- The high half of a 128-bit integer is its quotient by 2^64, rounded down. -/
theorem highHalf_ofInt (k : Int) : (BitVec.ofInt 128 k).extractLsb' 64 64 = BitVec.ofInt 64 (k / 2 ^ 64) := by
  apply BitVec.eq_of_toNat_eq
  simp only [BitVec.extractLsb'_toNat, BitVec.toNat_ofInt, Nat.shiftRight_eq_div_pow]
  omega

theorem mulHigh_eq_ofInt (x y : W64) : mulHigh x y = BitVec.ofInt 64 (x.toInt * y.toInt / 2 ^ 64) := by
  rw [← highHalf_ofInt, BitVec.ofInt_mul]
  rfl

theorem mulHighN_eq_ofNat (x y : W64) : mulHighN x y = BitVec.ofNat 64 (x.toNat * y.toNat / 2 ^ 64) := by
  have h : x.toNat * y.toNat < 2 ^ 128 := Nat.lt_of_lt_of_eq (Nat.mul_lt_mul'' x.isLt y.isLt) (by decide)
  apply BitVec.eq_of_toNat_eq
  simp only [mulHighN, BitVec.extractLsb'_toNat, BitVec.toNat_mul, BitVec.toNat_setWidth, BitVec.toNat_ofNat,
    Nat.shiftRight_eq_div_pow]
  rw [Nat.mod_eq_of_lt (by omega : x.toNat < 2 ^ 128), Nat.mod_eq_of_lt (by omega : y.toNat < 2 ^ 128),
    Nat.mod_eq_of_lt h]

theorem addW_eq_ofNat (x y : W64) : addW x y = (BitVec.ofNat 32 (x.toNat + y.toNat)).signExtend 64 := by
  have h : (x + y).setWidth 32 = BitVec.ofNat 32 (x.toNat + y.toNat) := BitVec.eq_of_toNat_eq (by simp)
  rw [addW, h]

/-! ## Comparisons -/

/-- A choice by a condition is the other choice by its opposite. -/
theorem ite_eq_ite_of_iff_not {α : Type} {p q : Prop} [Decidable p] [Decidable q] (h : p ↔ ¬ q) (x y : α) :
    (if p then y else x) = if q then x else y := by simp only [h, ite_not]

/-- A condition may be weakened where the two choices are the same. -/
theorem ite_eq_ite_of_imp {α : Type} {p q : Prop} [Decidable p] [Decidable q] {x y : α} (h : p → q) (he : q → ¬ p → x = y) :
    (if p then x else y) = if q then x else y := by
  by_cases hp : p
  · rw [if_pos hp, if_pos (h hp)]
  · by_cases hq : q
    · rw [if_neg hp, if_pos hq, he hq hp]
    · rw [if_neg hp, if_neg hq]

theorem minS_eq (x y : W64) : (if y.slt x then y else x) = if x.toInt ≤ y.toInt then x else y :=
  ite_eq_ite_of_iff_not (BitVec.slt_iff_toInt_lt.trans Int.not_le.symm) _ _

theorem minN_eq (x y : W64) : (if y.ult x then y else x) = if x.toNat ≤ y.toNat then x else y :=
  ite_eq_ite_of_iff_not (BitVec.ult_iff_toNat_lt.trans Nat.not_le.symm) _ _

theorem maxS_eq (x y : W64) : (if x.slt y then y else x) = if x.toInt ≤ y.toInt then y else x := by
  simp only [BitVec.slt_iff_toInt_lt]
  exact ite_eq_ite_of_imp Int.le_of_lt fun hle hnlt => BitVec.eq_of_toInt_eq (by omega)

theorem maxN_eq (x y : W64) : (if x.ult y then y else x) = if x.toNat ≤ y.toNat then y else x := by
  simp only [BitVec.ult_iff_toNat_lt]
  exact ite_eq_ite_of_imp Nat.le_of_lt fun hle hnlt => BitVec.eq_of_toNat_eq (by omega)

theorem w01_eq_ite {p : Bool} {q : Prop} [Decidable q] (h : p = true ↔ q) : w01 p = if q then 1 else 0 := by
  simp only [w01, h]

theorem slt_imm11_iff (x : W64) (i : BitVec 11) : x.slt (imm11 i) = true ↔ x.toInt < i.toInt := by
  rw [BitVec.slt_iff_toInt_lt, imm11, BitVec.toInt_signExtend_of_le (by decide)]

/-! ## Words put together from two parts -/

/-- A word moved up by n places takes a word of n bits below it. -/
theorem shl_or_eq_ofNat (x y : W64) (n : Nat) (h : y.toNat < 2 ^ n) :
    x <<< n ||| y = BitVec.ofNat 64 (x.toNat * 2 ^ n + y.toNat) := by
  have hdisj : x <<< n &&& y = 0 := by
    apply BitVec.eq_of_getLsbD_eq
    intro i hi
    by_cases hn : i < n
    · simp [hn]
    · have hy : y.getLsbD i = false :=
        Nat.testBit_lt_two_pow (Nat.lt_of_lt_of_le h (Nat.pow_le_pow_right (by decide) (Nat.not_lt.1 hn)))
      simp [hy]
  rw [← BitVec.add_eq_or_of_and_eq_zero _ _ hdisj, shl_eq_ofNat, BitVec.ofNat_add, BitVec.ofNat_toNat, BitVec.setWidth_eq]

theorem rotateLeft_eq_ofNat (x : W64) (n : Nat) (hn : n < 64) :
    x.rotateLeft n = BitVec.ofNat 64 (rotated 64 x.toNat n) := by
  have hlow : (x >>> (64 - n)).toNat = x.toNat / 2 ^ (64 - n) := by
    rw [BitVec.toNat_ushiftRight, Nat.shiftRight_eq_div_pow]
  have hlt : (x >>> (64 - n)).toNat < 2 ^ n := by
    rw [hlow, Nat.div_lt_iff_lt_mul (Nat.two_pow_pos _), ← Nat.pow_add, Nat.add_sub_cancel' (Nat.le_of_lt hn)]
    exact x.isLt
  rw [BitVec.rotateLeft_eq_rotateLeftAux_of_lt hn, BitVec.rotateLeftAux, shl_or_eq_ofNat _ _ _ hlt, hlow, rotated]

theorem lis_eq_ofNat (x : W64) (k : BitVec 18) : x <<< 18 ||| k.setWidth 64 = BitVec.ofNat 64 (x.toNat * 2 ^ 18 + k.toNat) := by
  have hk : (k.setWidth 64).toNat = k.toNat := BitVec.toNat_setWidth_of_le (by decide)
  rw [shl_or_eq_ofNat x _ 18 (by rw [hk]; exact k.isLt), hk]

/-! ## Counts and orders of bits -/

theorem bitLen_le_iff (x m : Nat) : bitLen x ≤ m ↔ x < 2 ^ m := by
  unfold bitLen
  by_cases h : x = 0
  · rw [if_pos h, h]
    exact iff_of_true (Nat.zero_le m) (Nat.two_pow_pos m)
  · rw [if_neg h]
    exact Nat.log2_lt h

/-- The highest 1 bit is the one below the length. -/
theorem testBit_bitLen_pred {x : Nat} (h : x ≠ 0) : x.testBit (bitLen x - 1) = true := by
  simp [bitLen, h, Nat.testBit_log2 h]

theorem leadingZeros_eq (n x : Nat) (hx : x < 2 ^ n) : leadingZeros n x = n - bitLen x := by
  have hlen : bitLen x ≤ n := (bitLen_le_iff x n).2 hx
  by_cases h0 : x = 0
  · subst h0
    have : (List.range n).find? (fun i => Nat.testBit 0 (n - 1 - i)) = none := by simp
    rw [leadingZeros, this]
    rfl
  · have hpos : 0 < bitLen x := by simp [bitLen, h0]
    have hfind : (List.range n).find? (fun i => x.testBit (n - 1 - i)) = some (n - bitLen x) := by
      rw [List.find?_range_eq_some]
      refine ⟨?_, List.mem_range.2 (by omega), fun j hj => ?_⟩
      · rw [show n - 1 - (n - bitLen x) = bitLen x - 1 by omega]
        exact testBit_bitLen_pred h0
      · rw [Nat.testBit_lt_two_pow ((bitLen_le_iff x _).1 (by omega : bitLen x ≤ n - 1 - j))]
        rfl
    rw [leadingZeros, hfind]
    rfl

theorem popCount_eq_onesOf (x n : Nat) : popCount x n = onesOf n x := by
  induction n with
  | zero => rfl
  | succ n ih =>
    rw [popCount, ih, onesOf, onesOf, List.range_succ, List.filter_append, List.length_append]
    cases h : x.testBit n <;> simp [b01, h]

theorem testBit_reverseBits (x n i : Nat) : (reverseBits x n).testBit i = (decide (i < n) && x.testBit (n - 1 - i)) := by
  induction n generalizing i with
  | zero => simp [reverseBits]
  | succ n ih =>
    have hb : b01 (x.testBit n) < 2 := by unfold b01; split <;> decide
    have h := Nat.testBit_two_pow_mul_add (reverseBits x n) (i := 1) hb i
    rw [Nat.pow_one] at h
    rw [reverseBits, h]
    cases i with
    | zero => cases hx : x.testBit n <;> simp [b01, hx]
    | succ i =>
      rw [if_neg (by omega), Nat.add_sub_cancel, ih, show n + 1 - 1 - (i + 1) = n - 1 - i by omega]
      simp

/-! ## Bit fields (R69) -/

theorem testBit_bfx (a pos len i : Nat) :
    (bfx 64 a pos len).testBit i = (decide (i < len ∧ pos + i ≤ 63) && a.testBit (pos + i)) := by
  have h : decide (pos + i < 64) = decide (pos + i ≤ 63) := decide_eq_decide.2 Nat.lt_succ_iff
  rw [bfx, Nat.testBit_mod_two_pow, Nat.testBit_div_two_pow, Nat.testBit_mod_two_pow, Nat.add_comm i pos, h,
    Bool.decide_and, Bool.and_assoc]

theorem testBit_bfi (w d a pos len i : Nat) (hi : i < w) :
    (bfi w d a pos len).testBit i = if pos ≤ i ∧ i < pos + len then a.testBit (i - pos) else d.testBit i := by
  obtain ⟨n, hn, hbfi⟩ : ∃ n, (n = len ∨ n ≤ len ∧ w ≤ pos + n) ∧
      bfi w d a pos len = 2 ^ (pos + n) * (d / 2 ^ (pos + n)) + (2 ^ pos * (a % 2 ^ n) + d % 2 ^ pos) := by
    refine ⟨if pos + len ≤ w then len else w - pos, by split <;> omega, ?_⟩
    rw [bfi, Nat.mul_comm (2 ^ _), Nat.mul_comm (2 ^ pos), Nat.add_comm (_ * _), Nat.add_comm (d % _)]
  have hd : d % 2 ^ pos < 2 ^ pos := Nat.mod_lt _ (Nat.two_pow_pos _)
  have hlow : 2 ^ pos * (a % 2 ^ n) + d % 2 ^ pos < 2 ^ (pos + n) :=
    calc 2 ^ pos * (a % 2 ^ n) + d % 2 ^ pos < 2 ^ pos * (a % 2 ^ n + 1) := by rw [Nat.mul_add]; omega
      _ ≤ 2 ^ pos * 2 ^ n := Nat.mul_le_mul_left _ (Nat.mod_lt _ (Nat.two_pow_pos _))
      _ = 2 ^ (pos + n) := (Nat.pow_add ..).symm
  rw [hbfi, Nat.testBit_two_pow_mul_add _ hlow, Nat.testBit_two_pow_mul_add _ hd, Nat.testBit_mod_two_pow,
    Nat.testBit_mod_two_pow, Nat.testBit_div_two_pow]
  by_cases hp : i < pos
  · have h1 : i < pos + n := by omega
    have h2 : ¬ pos ≤ i := by omega
    simp [hp, h1, h2]
  · by_cases hin : i < pos + n
    · have h1 : i - pos < n := by omega
      have h2 : pos ≤ i ∧ i < pos + len := by omega
      simp [hp, hin, h1, h2]
    · have h1 : ¬ (pos ≤ i ∧ i < pos + len) := by omega
      have h2 : i - (pos + n) + (pos + n) = i := by omega
      simp [hin, h1, h2]

theorem bits_zero (x n : Nat) : bits x 0 n = x % 2 ^ n := by
  rw [bits, Nat.pow_zero, Nat.div_one]

theorem atMost_eq_min (x n : Nat) : atMost x n = min x n := rfl

/-! ## Division (R70) -/

theorem toInt_ofInt_tdiv (x y : W64) (h : ¬ (x.toInt = -2 ^ 63 ∧ y.toInt = -1)) :
    (BitVec.ofInt 64 (x.toInt.tdiv y.toInt)).toInt = x.toInt.tdiv y.toInt := by
  have hne : x ≠ BitVec.intMin 64 ∨ y ≠ -1#64 := by
    by_cases hx : x = BitVec.intMin 64
    · refine Or.inr fun hy => h ?_
      rw [hx, hy]
      decide
    · exact Or.inl hx
  rw [BitVec.toInt_ofInt, ← BitVec.toInt_sdiv, BitVec.toInt_sdiv_of_ne_or_ne _ _ hne]

theorem toInt_ofInt_tmod (x y : W64) :
    (BitVec.ofInt 64 (x.toInt.tmod y.toInt)).toInt = x.toInt - y.toInt * x.toInt.tdiv y.toInt := by
  rw [← BitVec.toInt_srem, BitVec.ofInt_toInt, BitVec.toInt_srem, Int.tmod_def]

theorem divS_spec (x y : W64) :
    if y = 0 then divS x y = -1
    else if x.toInt = -2 ^ 63 ∧ y.toInt = -1 then (divS x y).toInt = -2 ^ 63
    else (divS x y).toInt = x.toInt.tdiv y.toInt := by
  by_cases h0 : y = 0
  · rw [if_pos h0, divS, if_pos h0]
  · rw [if_neg h0, divS, if_neg h0]
    by_cases hmin : x.toInt = -2 ^ 63 ∧ y.toInt = -1
    · rw [if_pos hmin, hmin.1, hmin.2]
      decide
    · rw [if_neg hmin]
      exact toInt_ofInt_tdiv x y hmin

theorem remS_spec (x y : W64) :
    if y = 0 then remS x y = x
    else if x.toInt = -2 ^ 63 ∧ y.toInt = -1 then remS x y = 0
    else (remS x y).toInt = x.toInt - y.toInt * x.toInt.tdiv y.toInt := by
  by_cases h0 : y = 0
  · rw [if_pos h0, remS, if_pos h0]
  · rw [if_neg h0, remS, if_neg h0]
    by_cases hmin : x.toInt = -2 ^ 63 ∧ y.toInt = -1
    · rw [if_pos hmin, hmin.1, hmin.2]
      decide
    · rw [if_neg hmin]
      exact toInt_ofInt_tmod x y

theorem divN_spec (x y : W64) : if y = 0 then (divN x y).toNat = 2 ^ 64 - 1 else (divN x y).toNat = x.toNat / y.toNat := by
  by_cases h0 : y = 0
  · rw [if_pos h0, divN, if_pos h0]
    decide
  · rw [if_neg h0, divN, if_neg h0]
    exact BitVec.toNat_udiv

theorem remN_spec (x y : W64) : if y = 0 then remN x y = x else (remN x y).toNat = x.toNat % y.toNat := by
  by_cases h0 : y = 0
  · rw [if_pos h0, remN, if_pos h0]
  · rw [if_neg h0, remN, if_neg h0]
    exact BitVec.toNat_umod

end Sys2Proof
end

section
/-! PROOF. The scalar pipe's words: O1. -/

namespace Sys2Proof

open Machine

/-! ## Words that compute one scalar from scalars -/

section words

variable {i : Instr} {D : Desc} {d a b : BitVec 7} {p : Ctx → State → W64 → Prop}

theorem givesScalar_of_scalar2 {f : W64 → W64 → W64} (hd : desc i = some D) (he : ∀ s, exec i s = issueBank D s (scalar2 d a b f))
    (hp : ∀ c s, p c s (f (srcS a c) (srcS b c))) : GivesScalar i d.toNat p :=
  givesScalar_of_bank hd he (fun _ => rfl) fun c s _ => hp c s

theorem givesScalar_of_scalar1 {f : W64 → W64} (hd : desc i = some D) (he : ∀ s, exec i s = issueBank D s (scalar1 d a f))
    (hp : ∀ c s, p c s (f (srcS a c))) : GivesScalar i d.toNat p :=
  givesScalar_of_bank hd he (fun _ => rfl) fun c s _ => hp c s

theorem givesScalar_of_scalar3 {f : W64 → W64 → W64 → W64} (hd : desc i = some D)
    (he : ∀ s, exec i s = issueBank D s (scalar3 d a b f)) (hp : ∀ c s, p c s (f (srcS d c) (srcS a c) (srcS b c))) :
    GivesScalar i d.toNat p :=
  givesScalar_of_bank hd he (fun _ => rfl) fun c s _ => hp c s

/-- A word of two sources whose function has the values of g. -/
theorem setsScalar_of_scalar2 {f g : W64 → W64 → W64} (hd : desc i = some D)
    (he : ∀ s, exec i s = issueBank D s (scalar2 d a b f)) (hf : ∀ x y, f x y = g x y) : SetsScalar i d.toNat (of2 a b g) :=
  givesScalar_of_scalar2 hd he fun _ _ => hf _ _

end words

/-! ## The families of words -/

theorem scalarTwoSource_holds : scalarTwoSource := by
  intro z d a b
  refine ⟨?add, ?sub, ?and, ?or, ?xor, ?shl, ?shr, ?sra, ?mul, ?mulh, ?mulhn, ?min, ?max, ?minn, ?maxn, ?andn⟩
  case add => exact setsScalar_of_scalar2 rfl (fun _ => rfl) BitVec.add_def
  case sub => exact setsScalar_of_scalar2 rfl (fun _ => rfl) sub_eq_ofInt
  case shl => exact setsScalar_of_scalar2 rfl (fun _ => rfl) fun x _ => shl_eq_ofNat x _
  case shr => exact setsScalar_of_scalar2 rfl (fun _ => rfl) fun x _ => shr_eq_ofNat x _
  case sra => exact setsScalar_of_scalar2 rfl (fun _ => rfl) fun x _ => sra_eq_ofInt x _
  case mul => exact setsScalar_of_scalar2 rfl (fun _ => rfl) mul_eq_ofInt
  case mulh => exact setsScalar_of_scalar2 rfl (fun _ => rfl) mulHigh_eq_ofInt
  case mulhn => exact setsScalar_of_scalar2 rfl (fun _ => rfl) mulHighN_eq_ofNat
  case min => exact setsScalar_of_scalar2 rfl (fun _ => rfl) minS_eq
  case max => exact setsScalar_of_scalar2 rfl (fun _ => rfl) maxS_eq
  case minn => exact setsScalar_of_scalar2 rfl (fun _ => rfl) minN_eq
  case maxn => exact setsScalar_of_scalar2 rfl (fun _ => rfl) maxN_eq
  case and | or | xor | andn => exact setsScalar_of_scalar2 rfl (fun _ => rfl) fun _ _ => rfl

theorem scalarComparesAndCounts_holds : scalarComparesAndCounts := by
  intro z d a b
  refine ⟨?slt, ?sltn, ?seq, ?clz, ?popc, ?brev, ?rotl, ?csel, ?addw⟩
  case slt => exact setsScalar_of_scalar2 rfl (fun _ => rfl) fun x y => w01_eq_ite BitVec.slt_iff_toInt_lt
  case sltn => exact setsScalar_of_scalar2 rfl (fun _ => rfl) fun x y => w01_eq_ite BitVec.ult_iff_toNat_lt
  case seq => exact setsScalar_of_scalar2 rfl (fun _ => rfl) fun x y => w01_eq_ite beq_iff_eq
  case clz =>
    exact givesScalar_of_scalar1 rfl (fun _ => rfl) fun _ _ =>
      congrArg (BitVec.ofNat 64) (leadingZeros_eq 64 _ (BitVec.isLt _)).symm
  case popc => exact givesScalar_of_scalar1 rfl (fun _ => rfl) fun _ _ => congrArg (BitVec.ofNat 64) (popCount_eq_onesOf _ _)
  case brev =>
    refine givesScalar_of_scalar1 rfl (fun _ => rfl) fun c s i hi => ?_
    rw [BitVec.getLsbD_ofNat, testBit_reverseBits]
    simp [hi, BitVec.testBit_toNat]
  case rotl =>
    exact setsScalar_of_scalar2 rfl (fun _ => rfl) fun x _ => rotateLeft_eq_ofNat x _ (Nat.mod_lt _ (by decide))
  case csel => exact givesScalar_of_scalar3 rfl (fun _ => rfl) fun c s => (ite_not ..).symm
  case addw => exact setsScalar_of_scalar2 rfl (fun _ => rfl) addW_eq_ofNat

theorem scalarBitFields_holds : scalarBitFields := by
  intro z d a b
  refine ⟨?bfx, ?bfi⟩
  case bfx =>
    refine givesScalar_of_scalar2 rfl (fun _ => rfl) fun c s => ?_
    intro pos len i hi
    rw [BitVec.getLsbD_ofNat, testBit_bfx, decide_eq_true hi, Bool.true_and, bits_zero, atMost_eq_min]
    rfl
  case bfi =>
    refine givesScalar_of_scalar3 rfl (fun _ => rfl) fun c s => ?_
    intro pos len i hi
    rw [BitVec.getLsbD_ofNat, testBit_bfi _ _ _ _ _ _ hi, decide_eq_true hi, Bool.true_and, bits_zero, atMost_eq_min]
    rfl

theorem scalarDivision_holds : scalarDivision := by
  intro z d a b
  refine ⟨?div, ?rem, ?divn, ?remn⟩
  case div => exact givesScalar_of_scalar2 rfl (fun _ => rfl) fun c s => divS_spec _ _
  case rem => exact givesScalar_of_scalar2 rfl (fun _ => rfl) fun c s => remS_spec _ _
  case divn => exact givesScalar_of_scalar2 rfl (fun _ => rfl) fun c s => divN_spec _ _
  case remn => exact givesScalar_of_scalar2 rfl (fun _ => rfl) fun c s => remN_spec _ _

theorem scalarImmediates_holds : scalarImmediates := by
  intro z d a i n k
  refine ⟨?addi, ?andi, ?ori, ?xori, ?slti, ?shli, ?shri, ?srai, ?rotli, ?li, ?lis⟩
  case addi => exact givesScalar_of_scalar1 rfl (fun _ => rfl) fun _ _ => add_imm11_eq_ofInt _ i
  case andi | ori | xori => exact givesScalar_of_scalar1 rfl (fun _ => rfl) fun _ _ => rfl
  case slti => exact givesScalar_of_scalar1 rfl (fun _ => rfl) fun _ _ => w01_eq_ite (slt_imm11_iff _ i)
  case shli => exact givesScalar_of_scalar1 rfl (fun _ => rfl) fun _ _ => shl_eq_ofNat _ _
  case shri => exact givesScalar_of_scalar1 rfl (fun _ => rfl) fun _ _ => shr_eq_ofNat _ _
  case srai => exact givesScalar_of_scalar1 rfl (fun _ => rfl) fun _ _ => sra_eq_ofInt _ _
  case rotli => exact givesScalar_of_scalar1 rfl (fun _ => rfl) fun _ _ => rotateLeft_eq_ofNat _ _ n.isLt
  case li => exact givesScalar_of_bank rfl (fun _ => rfl) (fun _ => rfl) fun _ _ _ => rfl
  case lis => exact givesScalar_of_scalar1 rfl (fun _ => rfl) fun _ _ => lis_eq_ofNat _ k

/-- Settles O1. Each word is an `issueBank` that writes one scalar, and each function of the model is the number or the bits that
the tables of R67 to R73 give. -/
theorem scalarArithmetic : Obligations.ScalarArithmetic :=
  ⟨scalarTwoSource_holds, scalarComparesAndCounts_holds, scalarBitFields_holds, scalarDivision_holds, scalarImmediates_holds⟩

end Sys2Proof
end

section
/-! PROOF. Special registers, the window and the loads of translation registers: O2. -/

namespace Sys2Proof.Machine

/-! ## Words that end in one of two ways -/

section words

variable {i : Instr} {D : Desc} {s u : State} {c : Ctx} {body : Ctx → State → Res} {f : FaultRec}

/-- A ready word whose body faults fails. -/
theorem exec_of_trap (h : ready i s = some c) (hd : desc i = some D) (he : exec i s = issue D s body) (hb : body c s = .trap f) :
    exec i s = .next (s.fail c f) := by
  rw [he, issue_ready h hd, hb]
  rfl

/-- A ready word whose body ends at the next instruction where a condition holds, and faults elsewhere. -/
theorem completes_or_fails {p : Prop} [Decidable p] (h : ready i s = some c) (hd : desc i = some D)
    (he : exec i s = issue D s body) (hb : body c s = if p then .ok u else .trap f) (hu : (u.grp? c.g).isSome) :
    if p then Completes i s c u (c.pc + 4) else exec i s = .next (s.fail c f) := by
  by_cases hp : p
  · rw [if_pos hp] at hb ⊢
    exact completes_issue h hd he hb hu
  · rw [if_neg hp] at hb ⊢
    exact exec_of_trap h hd he hb

end words

/-- The group of a ready word is still there once a group has changed. -/
theorem ready_isSome_modGrp {i : Instr} {s : State} {c : Ctx} (h : ready i s = some c) (g : GId) (f : Grp → Grp) :
    ((s.modGrp g f).grp? c.g).isSome := by
  rw [grpOpt_isSome_modGrp, ready_grp h]
  rfl

theorem Bank.Keeps.trans_nil {k k' k'' : Bank} {ws : List Nat} {wv : List (Nat × Nat)} {wm wx : List Nat}
    (h : k.Keeps k' ws wv wm wx) (h' : k'.Keeps k'' [] [] [] []) : k.Keeps k'' ws wv wm wx where
  s n hn := (h'.s n List.not_mem_nil).trans (h.s n hn)
  v p l hl hn := (h'.v p l hl List.not_mem_nil).trans (h.v p l hl hn)
  m n hn := (h'.m n List.not_mem_nil).trans (h.m n hn)
  x n hn := (h'.x n List.not_mem_nil).trans (h.x n hn)
  wb := h'.wb.trans h.wb
  rmode := h'.rmode.trans h.rmode
  stk :=
    have ⟨h1, h2, h3, h4⟩ := h.stk
    have ⟨g1, g2, g3, g4⟩ := h'.stk
    ⟨g1.trans h1, g2.trans h2, g3.trans h3, g4.trans h4⟩

theorem Bank.GoesOn.of_setX {k k' : Bank} {n : Nat} {x : XReg} {sl : SlotId} {pc : W64} (h : (k.setX n x).GoesOn k' sl pc) :
    k.GoesOn k' sl pc where
  pc := h.pc
  wait := h.wait
  done := h.done
  lanes := by simpa using h.lanes
  other := by simpa using h.other

/-- A retired word that did nothing but load translation register n wrote that register. -/
theorem wrote_of_retired_setX {c : Ctx} {s t : State} {n : Nat} {x : XReg} {pc : W64} (hg : s.grp? c.g = some c.grp)
    (h : Retired c (s.modBank c.g fun k => k.setX n x) t pc) :
    Wrote c s t pc [] [] [] [n] ∧ (t.grp c.g).b.getX n = x := by
  have hb : ((s.modBank c.g fun k => k.setX n x).grp c.g).b = c.b.setX n x := by
    rw [State.modBank, grp_b_modGrp _ _ _ (by simp [hg])]
    simp [State.grp, hg, Ctx.b]
  obtain ⟨hregs, hslot, honly⟩ := h
  rw [hb] at hregs hslot
  refine ⟨⟨(keeps_setX c.b n x).trans_nil hregs, hslot.of_setX, (OnlyBank.modBank c s _).trans honly⟩, ?_⟩
  rw [hregs.x n List.not_mem_nil, Bank.getX_setX, if_pos rfl]

/-! ## GETS (R56 to R64) -/

/-- GETS writes what the selector reads. -/
theorem setsScalar_gets {z : Bool} {d : BitVec 7} {i : BitVec 11} {v : Ctx → State → W64} (hv : ∀ c s, getsVal c s i.toNat = v c s) :
    SetsScalar (.gets z d i) d.toNat v :=
  givesScalar_of_next (i := .gets z d i) (D := fun c s => c.resolved s (descGets z d i))
    (f := fun c s k => k.setS d.toNat (getsVal c s i.toNat)) (v := fun c s => getsVal c s i.toNat)
    (fun _ _ h => issue_ready h rfl _) (fun _ _ => rfl) fun c s _ => hv c s

/-- GETS of a selector that is one of a row of eight. -/
theorem setsScalar_gets_row {z : Bool} {d : BitVec 7} {base n : Nat} {v : Ctx → State → W64} (hn : base + n < 2 ^ 11)
    (hv : ∀ c s, getsVal c s (base + n) = v c s) : SetsScalar (.gets z d (BitVec.ofNat 11 (base + n))) d.toNat v :=
  setsScalar_gets fun c s => by rw [BitVec.toNat_ofNat, Nat.mod_eq_of_lt hn, hv]

section rows

variable (c : Ctx) (s : State) {n : Nat} (hn : n < 8)

include hn

theorem getsVal_idx : getsVal c s (0x010 + n) = BitVec.ofNat 64 (c.l.idx (s.flatOf c.g) n) := by
  simp (disch := omega) only [getsVal, if_pos, if_neg, Nat.add_sub_cancel_left]

theorem getsVal_ext : getsVal c s (0x018 + n) = BitVec.ofNat 64 (c.l.extent n) := by
  simp (disch := omega) only [getsVal, if_pos, if_neg, Nat.add_sub_cancel_left]

theorem getsVal_xbase : getsVal c s (0x100 + n) = if (c.b.getX n).v then canon (c.b.getX n).base else 0 := by
  have hm : (0x100 + n) % 8 = n := by omega
  simp (disch := omega) only [getsVal, if_pos, if_neg, hm]

theorem getsVal_xlimit : getsVal c s (0x108 + n) = if (c.b.getX n).v then BitVec.ofNat 64 (c.b.getX n).limit else 0 := by
  have hm : (0x108 + n) % 8 = n := by omega
  simp (disch := omega) only [getsVal, if_pos, if_neg, hm]

theorem getsVal_xperm : getsVal c s (0x110 + n) = BitVec.ofNat 64 (c.b.getX n).perm := by
  have hm : (0x110 + n) % 8 = n := by omega
  simp (disch := omega) only [getsVal, if_pos, if_neg, hm]

theorem getsVal_xsp : getsVal c s (0x118 + n) = if (c.b.getX n).sp then BitVec.ofNat 64 (c.b.getX n).base else 0 := by
  have hm : (0x118 + n) % 8 = n := by omega
  simp (disch := omega) only [getsVal, if_pos, if_neg, hm]

theorem getsVal_xframe : getsVal c s (0x408 + n) = if (c.b.getX n).v then BitVec.ofNat 64 (c.b.getX n).frame else 0 := by
  have hm : (0x408 + n) % 8 = n := by omega
  simp (disch := omega) only [getsVal, if_pos, if_neg, hm]

end rows

/-- A 57-bit address in 64 bits is its sign extension (R64). -/
theorem canon_eq_signExtend (x : Nat) : canon x = (BitVec.ofNat 57 x).signExtend 64 := by
  rw [canon, BitVec.signExtend, BitVec.toInt_eq_toNat_cond, BitVec.toNat_ofNat, sext]
  exact congrArg _ (ite_congr (propext (by omega)) (fun _ => rfl) fun _ => rfl)

end Sys2Proof.Machine

namespace Sys2Proof

open Machine

/-- A field of one bit is set. -/
theorem b01_bits_one (x n : Nat) : b01 (bits x n 1 == 1) = x / 2 ^ n % 2 := by
  rcases Nat.mod_two_eq_zero_or_one (x / 2 ^ n) with h | h <;> simp [bits, b01, h]

theorem lmode_eq_lmodeOf (l : Launch) : l.lmode = lmodeOf l := by
  simp only [Launch.lmode, Launch.prio, Launch.pre, Launch.chk, Launch.grade, Launch.field, b01_bits_one]
  rfl

theorem perm_eq_xpermOf (x : XReg) : x.perm = xpermOf x := by
  have hb (p : Bool) (n : Nat) : b01 p * n = if p then n else 0 := by cases p <;> simp [b01]
  cases hv : x.v
  · simp [XReg.perm, xpermOf, hv]
  · simp only [XReg.perm, xpermOf, hv, hb, Perm.and]
    cases x.size <;> rfl

theorem specialRegistersRead_holds : specialRegistersRead := by
  intro z d
  refine ⟨?pc, ?wb, ?valloc, ?rmode, ?alflags, ?stkbase, ?stklim, ?slot, ?nlevels, ?param, ?launchid, ?streamid, ?lmode, ?relaunch, ?phys,
    ?tgroup, ?epc, ?ecause, ?edetail, fun n hn => ⟨?idx, ?ext, ?xbase, ?xlimit, ?xperm, ?xsp, ?xframe⟩⟩
  case slot => exact setsScalar_gets fun _ _ => w01_eq_ite beq_iff_eq
  case lmode => exact setsScalar_gets fun c _ => congrArg (BitVec.ofNat 64) (lmode_eq_lmodeOf c.l)
  case idx => exact setsScalar_gets_row (by omega) fun c s => getsVal_idx c s hn
  case ext => exact setsScalar_gets_row (by omega) fun c s => getsVal_ext c s hn
  case xbase => exact setsScalar_gets_row (by omega) fun c s => by rw [getsVal_xbase c s hn, canon_eq_signExtend]
  case xlimit => exact setsScalar_gets_row (by omega) fun c s => getsVal_xlimit c s hn
  case xperm => exact setsScalar_gets_row (by omega) fun c s => by rw [getsVal_xperm c s hn, perm_eq_xpermOf]
  case xsp => exact setsScalar_gets_row (by omega) fun c s => getsVal_xsp c s hn
  case xframe => exact setsScalar_gets_row (by omega) fun c s => getsVal_xframe c s hn
  all_goals exact setsScalar_gets fun _ _ => rfl

/-! ## SETS and WIN (R57 to R59, R74, R76, R376) -/

theorem flt1_toNat (cls : FClass) (v : W64) : flt1 cls v.toNat = { cls := cls, detail := v } := by
  rw [flt1, BitVec.ofNat_toNat, BitVec.setWidth_eq]

section selectors

variable (c : Ctx) (s : State) (v : W64)

theorem setsEffect_rmode : setsEffect c s 0x003 v =
    if v.toNat ≤ 4 then .ok (s.modBank c.g fun k => { k with rmode := v.toNat }) else .trap { cls := .ill, detail := v } := by
  rw [setsEffect, flt1_toNat]
  exact ite_eq_ite_of_iff_not (by omega) _ _

theorem setsEffect_alflags : setsEffect c s 0x004 v =
    if v.toNat < 256 then .ok (s.modBlock c.bid fun b => b.clearAl v) else .trap { cls := .ill, detail := v } := by
  rw [setsEffect, flt1_toNat]
  exact ite_eq_ite_of_iff_not (by omega) _ _

theorem setsEffect_stklim : setsEffect c s 0x006 v =
    if v.toNat % 64 = 0 ∧ c.b.stkbase.toNat ≤ v.toNat then .ok (s.modBank c.g fun k => { k with stklim := v })
    else .trap { cls := .ill, detail := v } := by
  rw [setsEffect, flt1_toNat]
  exact ite_eq_ite_of_iff_not (by simp [BitVec.ult, Decidable.imp_iff_not_or]) _ _

theorem setsEffect_tgroup : setsEffect c s 0x400 v =
    if v.toNat < 16 ∧ (s.grp? (.grp c.bid.launch c.bid.flat v.toNat)).isSome then
      .ok (s.modBlock c.bid fun b => { b with tgroup := v.toNat })
    else .trap { cls := .ill, detail := v } := by
  simp only [setsEffect, flt1_toNat]
  exact ite_eq_ite_of_iff_not (by simp [Decidable.imp_iff_not_or]) _ _

theorem setsEffect_epc : setsEffect c s 0x401 v =
    if canonical v.toNat ∧ v.toNat % 4 = 0 then .ok (s.modGrp (s.target c) fun r => { r with epc := v })
    else .trap { cls := .ill, detail := v } := by
  simp only [setsEffect, flt1_toNat]
  exact ite_eq_ite_of_iff_not (by simp [Decidable.imp_iff_not_or]) _ _

end selectors

theorem specialRegistersWritten_holds : specialRegistersWritten := by
  intro z a c s
  refine ⟨fun h => ?rmode, fun h => ?alflags, fun h => ?stklim, fun h => ?tgroup, fun h => ?epc⟩
  case rmode => exact completes_or_fails h rfl rfl (setsEffect_rmode c s _) (ready_isSome_modGrp h _ _)
  case alflags => exact completes_or_fails h rfl rfl (setsEffect_alflags c s _) (by simp [ready_grp h])
  case stklim => exact completes_or_fails h rfl rfl (setsEffect_stklim c s _) (ready_isSome_modGrp h _ _)
  case tgroup => exact completes_or_fails h rfl rfl (setsEffect_tgroup c s _) (by simp [ready_grp h])
  case epc => exact completes_or_fails h rfl rfl (setsEffect_epc c s _) (ready_isSome_modGrp h _ _)

theorem windowMoves_holds : windowMoves := by
  intro z a i c s h v
  refine completes_or_fails h rfl rfl ?_ (ready_isSome_modGrp h _ _)
  have hv : c.b.getS a.toNat + imm11 i = v := add_imm11_eq_ofInt _ i
  simp only [hv, flt1_toNat]
  exact ite_eq_ite_of_iff_not (by simp [Decidable.imp_iff_not_or]) _ _

/-! ## Translation registers (R64, R66, R87) -/

theorem scratchpadFormSet_holds : scratchpadFormSet := by
  intro z a n c s h
  have hbody : (if c.scratch ≤ (srcS a c).toNat then Res.trap (flt1 .limit (srcS a c).toNat)
      else .ok (s.modBank c.g fun b => b.setX n.toNat (xspReg (srcS a c).toNat c.scratch))) =
      if (srcS a c).toNat < c.scratch then .ok (s.modBank c.g fun b => b.setX n.toNat (xspReg (srcS a c).toNat c.scratch))
      else .trap { cls := .limit, detail := srcS a c } := by
    rw [flt1_toNat]
    exact ite_eq_ite_of_iff_not Nat.not_lt.symm _ _
  have hend := completes_or_fails h rfl rfl hbody (ready_isSome_modGrp h _ _)
  by_cases hlt : (srcS a c).toNat < c.scratch
  · rw [if_pos hlt] at hend ⊢
    obtain ⟨t, hexec, hret⟩ := hend
    obtain ⟨hwrote, hx⟩ := wrote_of_retired_setX (ready_grp h) hret
    refine ⟨t, hexec, hwrote, ?_⟩
    rw [hx]
    exact ⟨rfl, rfl, rfl, rfl, rfl, rfl⟩
  · rw [if_neg hlt] at hend ⊢
    exact hend

/-- A walk whose page the core's TLB holds changes nothing (R85, R87). -/
theorem walk_of_tlb {s : State} {q : Req} {va : Nat} {kind : Kind} {e : TlbEntry}
    (h : (s.core q.die q.core).tlb.find? (fun e => e.hits q va) = some e) : s.walk q va kind = .ok e.tr s := by
  rw [State.walk, h]

theorem xltEffect_of_not_canonical {c : Ctx} {s : State} {n : Nat} {v : W64} (h : ¬ canonical v.toNat) :
    xltEffect c s n v = .trap { cls := .ill, detail := v } := by
  rw [xltEffect, if_pos (by simpa using h), flt1_toNat]

theorem xltEffect_of_tlb {c : Ctx} {s : State} {n : Nat} {v : W64} {e : TlbEntry} (h : canonical v.toNat)
    (he : (s.core c.q.die c.q.core).tlb.find? (fun e => e.hits c.q (va57 v.toNat)) = some e) :
    xltEffect c s n v = .okEnd (s.modBank c.g fun b => b.setX n (xregOf v.toNat e.tr)) := by
  rw [xltEffect, if_neg (by simpa using h), walk_of_tlb he]

theorem translationRegisterLoaded_holds : translationRegisterLoaded := by
  intro z a n c s h v va
  have hexec : exec (.xlt z a n) s = .next (finish c (c.resolved s (descXlt z a n)) s (xltEffect c s n.toNat v)) :=
    issueMem_ready h rfl _ _
  refine ⟨fun hc => ?_, fun hc e he => ?_⟩
  · rw [hexec, xltEffect_of_not_canonical hc]
    rfl
  · rw [xltEffect_of_tlb hc he] at hexec
    obtain ⟨hwrote, hx⟩ := wrote_of_retired_setX (ready_grp h)
      (retired_retire c (c.resolved s (descXlt z a n)) _ c.next true true (ready_isSome_modGrp h _ _))
    refine ⟨_, hexec, hwrote, ?_⟩
    rw [finish, hx]
    exact ⟨rfl, Bool.false_ne_true, rfl, rfl, rfl, rfl, rfl⟩

/-- Settles O2. GETS writes `getsVal`, which is read off selector by selector; SETS and WIN complete or fail by their selector's rule;
the words that load a translation register retire with that register written, XLT from the entry that the TLB holds. -/
theorem specialRegistersAndWindow : Obligations.SpecialRegistersAndWindow :=
  ⟨specialRegistersRead_holds, specialRegistersWritten_holds, windowMoves_holds, scratchpadFormSet_holds,
    translationRegisterLoaded_holds⟩

end Sys2Proof
end
